-- ==== Sys2Proof/Word.lean ====
section
/-! DEFINITION. The bus byte of the part and the multi-byte codings built from it (13_line_and_record_formats.md, 13.1). -/

namespace Sys2Proof

/-- One byte of a line, a command, a record or a reply. -/
abbrev Byte := BitVec 8

/-- A number in one byte (modulo 256). -/
def Byte.ofNat (n : Nat) : Byte := BitVec.ofNat 8 n

/-- A signed number in one byte, two's complement. -/
def Byte.ofInt (n : Int) : Byte := BitVec.ofInt 8 n

end Sys2Proof
end

