-- ==== Sys2Proof/Config.lean ====
section
/-! DEFINITION. What the spec leaves open: free values with no body, so that no proof can see what they are.
Each is named in the assumption log. -/

namespace Sys2Proof.Config

/-- Log 10. Whether a command that takes no arguments, and whose rule names no RANGE refusal, is refused RANGE
when argument bytes come with it (`true`) or taken as if none had come. First argument: the command code. -/
opaque spareArgsRefused : Nat → List Byte → Bool

/-- Log 10. The direction PICTURE SEARCH takes from arguments other than one byte 0 or 1: `none` refuses RANGE,
`some true` is back. -/
opaque pictureSearchArgs : List Byte → Option Bool

/-- Log 11. How a flag or presence byte other than 0 and 1 reads where the spec names no refusal. -/
opaque flagByte : Nat → Bool

/-- Log 12. Whether a DIR line whose second head byte is neither 0 nor 1 carries a fragment. -/
opaque dirMarkCarries : Nat → Bool

/-- Log 13. The frequency, as an offset from 900, taken for a channel whose entry is no AIR entry. -/
opaque untabledFrequency : Nat → Fin 16301

/-- Log 13. The fine offset, as an offset from −16, taken for a channel whose entry is no AIR entry. -/
opaque untabledFine : Nat → Fin 32

/-- Log 13. The key list (first key and rest) sent for a channel whose entry is no EXT entry. -/
opaque untabledKeys : Nat → Byte × List Byte

/-- Log 9. Whether the last header counted in TRIM or NAME is taken before what the same header brings to the
presence detector and the AFC loop. The argument is the counter of free choices. -/
opaque limitFirst : Nat → Bool

/-- Log 9. Whether a field header reaches cue capture before the tuning controller. The argument is the counter of
free choices. -/
opaque cueFirst : Nat → Bool

end Sys2Proof.Config
end

