-- ==== Sys2Proof/Syntax.lean ====
section
/-! DEFINITION. The commands of the block: one constructor for each row of spec/opcode_table.json, in the table's order. -/

namespace Sys2Proof

/-- The five inbound streams, in the order of section 13.2. -/
inductive Inbound where
  | ta | tb | aux | play | ctrl
deriving DecidableEq, Repr

/-- The outbound streams that a generated blank field is made for (R72, R73). -/
inductive Outbound where
  | mon | recStream
deriving DecidableEq, Repr

/-- Field parity of a field header (section 4.1). -/
inductive Parity where
  | first | second
deriving DecidableEq, Repr

/-- The two tuners. -/
inductive TunerId where
  | a | b
deriving DecidableEq, Repr

/-- The two reels (R1). -/
inductive Reel where
  | supply | takeUp
deriving DecidableEq, Repr

/-- The direction of the tape past the control head at a control pulse (section 2.2). -/
inductive Direction where
  | forward | reverse
deriving DecidableEq, Repr

/-- The three positions of the cassette-in switch (R1). -/
inductive CassettePos where
  | slotOpen | partway | home
deriving DecidableEq, Repr

/-- The write-protect tab: IN is writable (R1). -/
inductive Tab where
  | tabIn | tabOut
deriving DecidableEq, Repr

/-- The payload of a line packet (section 13.2): video content as it came, or the 21 bytes of a data line, each with
the parity bit that travelled with it. -/
inductive Payload where
  | video (content : List Byte)
  | data (bytes : List (Byte × Bool))
deriving DecidableEq, Repr

/-- One row of spec/opcode_table.json each. A host command carries its tag and its argument bytes (R174); an event
carries what its input carries. -/
inductive Instr where
  | play (tag : Byte) (args : List Byte)
  | record (tag : Byte) (args : List Byte)
  | pause (tag : Byte) (args : List Byte)
  | stop (tag : Byte) (args : List Byte)
  | windForward (tag : Byte) (args : List Byte)
  | windBack (tag : Byte) (args : List Byte)
  | pictureSearch (tag : Byte) (args : List Byte)
  | locate (tag : Byte) (args : List Byte)
  | seekIndex (tag : Byte) (args : List Byte)
  | seekEntry (tag : Byte) (args : List Byte)
  | eject (tag : Byte) (args : List Byte)
  | setSpeed (tag : Byte) (args : List Byte)
  | zeroCounter (tag : Byte) (args : List Byte)
  | stageProfile (tag : Byte) (args : List Byte)
  | commitProfile (tag : Byte) (args : List Byte)
  | readProfile (tag : Byte) (args : List Byte)
  | setProfile (tag : Byte) (args : List Byte)
  | readEntry (tag : Byte) (args : List Byte)
  | deleteEntry (tag : Byte) (args : List Byte)
  | view (tag : Byte) (args : List Byte)
  | stageChannel (tag : Byte) (args : List Byte)
  | commitChannel (tag : Byte) (args : List Byte)
  | clearChannel (tag : Byte) (args : List Byte)
  | readChannel (tag : Byte) (args : List Byte)
  | loadIrProfile (tag : Byte) (args : List Byte)
  | startSearch (tag : Byte) (args : List Byte)
  | endSearch (tag : Byte) (args : List Byte)
  | readSearch (tag : Byte) (args : List Byte)
  | readCue (tag : Byte) (args : List Byte)
  | releaseCue (tag : Byte) (args : List Byte)
  | setClock (tag : Byte) (args : List Byte)
  | readClock (tag : Byte) (args : List Byte)
  | stageTimer (tag : Byte) (args : List Byte)
  | commitTimer (tag : Byte) (args : List Byte)
  | readTimer (tag : Byte) (args : List Byte)
  | clearTimer (tag : Byte) (args : List Byte)
  | setOption (tag : Byte) (args : List Byte)
  | power (tag : Byte) (args : List Byte)
  | acknowledge (tag : Byte) (args : List Byte)
  | resetUnit (tag : Byte) (args : List Byte)
  | unknownCommand (tag code : Byte) (args : List Byte)
  | fieldHeader (stream : Inbound) (parity : Parity) (grade : Fin 16) (afc : Byte)
  | linePacket (stream : Inbound) (line : BitVec 16) (payload : Payload)
  | streamSilenceTimeout (stream : Inbound)
  | substituteField (stream : Inbound)
  | generatedBlankField (out : Outbound)
  | cassetteInSwitch (pos : CassettePos)
  | threadedSwitch (closed : Bool)
  | unthreadedSwitch (closed : Bool)
  | writeProtectTab (tab : Tab)
  | startSensorActive
  | startSensorInactive
  /-- The end sensor changes. The table has no row for its going inactive, so the level comes with this one (log 17). -/
  | endSensorActive (active : Bool)
  | dewSensorActive
  | dewSensorClear
  /-- A reel pulse carries the whole milliseconds since the previous pulse of the same reel (R38). -/
  | supplyReelPulse (ms : Nat)
  | takeUpReelPulse (ms : Nat)
  | controlPulse (dir : Direction) (marked : Bool)
  | servoLocked
  | servoUnlocked
  | motionSteady
  | atRest
  | threadingLimit
  | unthreadingLimit
  | pushOutLimit
  | pauseTimerExpiry
  | playLockLimit
  | lockupLockLimit
  | dirReadNoLock
  | reelStall (reel : Reel)
  | blankTestExpiry
  | blankFlagTimeout
  | reserveComplete
  | backspaceComplete
  | seamWriteFrame
  | regionPassed
  | dirWriteComplete
  | locateTargetReached
  | singleUpset
  | doubleUpset
  /-- The mains sense changes to `mv` millivolts, below the threshold (R193). -/
  | mainsFailure (mv : Nat)
  /-- The mains sense has stood at `mv` millivolts, at or above the threshold, for 500 ms (R194). -/
  | mainsReturn (mv : Nat)
  | resetInputAssert
  | resetInputRelease
  | coldStart
  /-- One store record read ends with the record's bytes, or with a read failure (`none`) (R195). -/
  | storeReadDone (bytes : Option (List Byte))
  | writeDone
  | writeFail
  | secondEvent
  | cueAgeExpiry (tuner : TunerId)
  | settleCountExpiry (tuner : TunerId)
  | irKeyComplete
  | irWaitExpiry
  | stepObservationLimit
  | confirmLimit
  | trimLimit
  | nameLimit
  | cueLossTimerExpiry
  | backupSupplyLost
deriving DecidableEq, Repr

end Sys2Proof
end

