-- ==== Sys2Proof/WellFormed.lean ====
section
/-! DEFINITION. What a command must be to have come over the deck line bus at all: checks on the operands that their
types do not make already. -/

namespace Sys2Proof

/-- A command's argument bytes: at most 24 (section 11.2). -/
def argsFit (args : List Byte) : Bool := args.length ≤ 24

/-- A command code that names no command of the catalogue (section 13.1: codes 1 to 40 name one). -/
def codeUnknown (code : Byte) : Bool := code.toNat = 0 ∨ 40 < code.toNat

/-- A data payload is 21 bytes (section 13.2). -/
def Payload.wellFormed : Payload → Bool
  | .video _ => true
  | .data bytes => bytes.length = 21

/-- The AFC reading is 0 on every stream other than TA and TB (section 13.2). -/
def afcFits (stream : Inbound) (afc : Byte) : Bool := stream = .ta ∨ stream = .tb ∨ afc = 0

/-- The check of a command. -/
def Instr.wellFormed : Instr → Bool
  | .play _ args | .record _ args | .pause _ args | .stop _ args | .windForward _ args | .windBack _ args => argsFit args
  | .pictureSearch _ args | .locate _ args | .seekIndex _ args | .seekEntry _ args | .eject _ args => argsFit args
  | .setSpeed _ args | .zeroCounter _ args | .stageProfile _ args | .commitProfile _ args => argsFit args
  | .readProfile _ args | .setProfile _ args | .readEntry _ args | .deleteEntry _ args | .view _ args => argsFit args
  | .stageChannel _ args | .commitChannel _ args | .clearChannel _ args | .readChannel _ args => argsFit args
  | .loadIrProfile _ args | .startSearch _ args | .endSearch _ args | .readSearch _ args | .readCue _ args => argsFit args
  | .releaseCue _ args | .setClock _ args | .readClock _ args | .stageTimer _ args | .commitTimer _ args => argsFit args
  | .readTimer _ args | .clearTimer _ args | .setOption _ args | .power _ args | .acknowledge _ args => argsFit args
  | .resetUnit _ args => argsFit args
  | .unknownCommand _ code args => codeUnknown code && argsFit args
  | .fieldHeader stream _ _ afc => afcFits stream afc
  | .linePacket _ _ payload => payload.wellFormed
  | .substituteField stream => stream ≠ .ctrl
  | .streamSilenceTimeout _ | .generatedBlankField _ | .cassetteInSwitch _ | .threadedSwitch _ => true
  | .unthreadedSwitch _ | .writeProtectTab _ | .startSensorActive | .startSensorInactive => true
  | .endSensorActive _ | .dewSensorActive | .dewSensorClear | .supplyReelPulse _ | .takeUpReelPulse _ => true
  | .controlPulse _ _ | .servoLocked | .servoUnlocked | .motionSteady | .atRest | .threadingLimit => true
  | .unthreadingLimit | .pushOutLimit | .pauseTimerExpiry | .playLockLimit | .lockupLockLimit => true
  | .dirReadNoLock | .reelStall _ | .blankTestExpiry | .blankFlagTimeout | .reserveComplete => true
  | .backspaceComplete | .seamWriteFrame | .regionPassed | .dirWriteComplete | .locateTargetReached => true
  | .singleUpset | .doubleUpset | .mainsFailure _ | .mainsReturn _ | .resetInputAssert => true
  | .resetInputRelease | .coldStart | .storeReadDone _ | .writeDone | .writeFail | .secondEvent => true
  | .cueAgeExpiry _ | .settleCountExpiry _ | .irKeyComplete | .irWaitExpiry | .stepObservationLimit => true
  | .confirmLimit | .trimLimit | .nameLimit | .cueLossTimerExpiry | .backupSupplyLost => true

end Sys2Proof
end

