-- ==== Sys2Proof/Machine/State.lean ====
section
/-! DEFINITION. The state of the 7420, block by block (00_scope.md, section 1.2), and the state right after a cold start
has begun. Each structure's docstring names the rules of spec/ that give its fields. -/

namespace Sys2Proof.Machine

/-- No meaning of this block stops by a fault: the type has one name, kept for the host's interface, that nothing
raises. It would be safe (the machine stops). -/
inductive Fault where
  | unreachable
deriving DecidableEq, Repr

/-- Why a command has no meaning: only a row not yet modelled, by name, raised by exec's own arm; safe. -/
inductive Refusal where
  | notModelled (mnemonic : String)
deriving DecidableEq, Repr

/-- A timer of the part's timebase: stopped, or running with the milliseconds it was started at. Its expiry is a row of
the table (log 2). -/
abbrev Timer := Option Nat

/-! ### Shared values -/

/-- Tape speed 1 (normal) or 2 (half), section 3.4. -/
inductive Speed where
  | one | two
deriving DecidableEq, Repr

/-- A calendar date; the year has two digits (section 3.6). -/
structure Date where
  day : Nat
  month : Nat
  year : Nat
deriving DecidableEq, Repr

/-- A date with a time of day to the second. -/
structure DateTime where
  date : Date
  hour : Nat
  minute : Nat
  second : Nat
deriving DecidableEq, Repr

/-- A programme label (section 7.1). -/
structure Label where
  day : Nat
  month : Nat
  hour : Nat
  minute : Nat
deriving DecidableEq, Repr

/-- Clock status (section 8.1). -/
inductive ClockStatus where
  | unset | setManual | setBroadcast
deriving DecidableEq, Repr

/-- The reasons of outcomes, of closes and of directory entries, in the order of section 13.6. -/
inductive EndReason where
  | done | doneLabel | doneOverrun | userStop | tapeEnd | transport | pauseLimit | dew | mains | deleted | failedStart
  | clock | overlap | late | noCassette | writeProtected
deriving DecidableEq, Repr

/-! ### Inputs -/

/-- The switches, sensors and the mains sense as they last changed (R1, R193). -/
structure Pins where
  cassette : CassettePos
  threaded : Bool
  unthreaded : Bool
  tab : Tab
  startSensor : Bool
  endSensor : Bool
  dew : Bool
  mainsSense : Nat
deriving DecidableEq, Repr

/-! ### Transport controller -/

/-- The transport states, in the order of section 13.1. -/
inductive TState where
  | empty | loading | dirRead | stopped | play | playPause | record | recordPause | lockup | windFwd | windBack
  | searchFwd | searchBack | locate | dirWrite | unloading | ejected | dewHold | fault
deriving DecidableEq, Repr

/-- The phase of the sequence running in a transport state: of LOCKUP (R15, R17), LOCATE (R10, R11), DIR_WRITE (R18),
UNLOADING (R19) and DEW_HOLD (R20). -/
inductive Phase where
  | idle
  | leaderClear | reserve | lock | backspace | forwardRun
  | seekRewind | wind
  | writeRewind | writeLead | writing
  | unthreadWait | unthread | pushOut
  | dewBrake | dewUnthread | dewWait | dewRethread
deriving DecidableEq, Repr

/-- Kind of a locate-target record (section 1.5). -/
inductive LocateKind where
  | counter | absolute | index
deriving DecidableEq, Repr

/-- End action of a locate or seek (section 1.5). -/
inductive EndAction where
  | stop | play
deriving DecidableEq, Repr

/-- The locate-target record (section 1.5). The target is absent while SEEK ENTRY does not know it yet (log 15). -/
structure LocateTarget where
  kind : LocateKind
  target : Option Int
  remaining : Nat
  direction : Direction
  endAction : EndAction
deriving DecidableEq, Repr

/-- SEEK ENTRY before its locate: the entry and the end action asked for (R11). -/
structure SeekEntry where
  entry : Nat
  endAction : EndAction
deriving DecidableEq, Repr

/-- A command that its owner holds in flight: its serial number and its code (R186: owners still hold it after a CLU
unit reset). -/
structure Held where
  id : Nat
  code : Nat
deriving DecidableEq, Repr

/-- The transport controller (section 1.1, R5 to R25). -/
structure Trc where
  state : TState
  phase : Phase
  servoLocked : Bool
  pauseTimer : Timer
  endLatch : Bool
  locate : Option LocateTarget
  seek : Option SeekEntry
  pausePoint : Option Int
  backspaceCount : Nat
  speedSetting : Speed
  recordingSpeed : Speed
  supplyWatch : Timer
  takeUpWatch : Timer
  atRestMark : Bool
  playLock : Timer
  lockupLock : Timer
  dirReadLock : Timer
  threadingLimit : Timer
  unthreadingLimit : Timer
  pushOutLimit : Timer
  steadyAwaited : Bool
  held : Option Held
  orderedSpeed : Speed
  orderedIndex : Bool
  markDue : Bool
  heldHalt : Bool
  heldStart : Option (Speed × Bool)
  heldPause : Bool
  heldResume : Option Speed
  rewindDue : Bool
deriving DecidableEq, Repr

/-! ### Tape counter block -/

/-- A cassette profile (R33). -/
structure Profile where
  valid : Bool
  code : Nat
  points : List Nat
deriving DecidableEq, Repr

/-- The profile staging record (R34): header (index, code), and 33 slots. -/
structure ProfileStaging where
  header : Option (Nat × Nat)
  slots : List (Option Nat)
deriving DecidableEq, Repr

/-- The tape counter block (section 2.1, R26 to R45). -/
structure Tcb where
  relCounter : Int
  absPos : Nat
  exact : Bool
  pulseSinceExact : Bool
  indexCount : Int
  blankFlag : Bool
  blankTimer : Timer
  supplyPeriod : Option Nat
  takeUpPeriod : Option Nat
  supplySeen : Bool
  takeUpSeen : Bool
  steadyOpen : Bool
  history : List Nat
  nearEnd : Bool
  profiles : List Profile
  selected : Nat
  staging : ProfileStaging
deriving DecidableEq, Repr

/-! ### Tape directory -/

/-- Directory states, in the order of R46. -/
inductive DirState where
  | unknown | blank | valid | damaged
deriving DecidableEq, Repr

/-- A directory entry (section 3.4). The source is coded as section 13.1 codes it: a channel index, or 100 for
EXTERNAL. The origin is a timer index, or none for MANUAL. An entry is open while its length is absent. -/
structure DirEntry where
  start : Nat
  length : Option Nat
  firstSpeed : Speed
  switchFrame : Option Nat
  source : Nat
  network : Option Nat
  label : Option Label
  recordedAt : Option DateTime
  origin : Option Nat
  endedBy : Option EndReason
deriving DecidableEq, Repr

/-- The session range (R54). -/
structure SessionRange where
  start : Option Nat
  writtenEnd : Nat
  opened : Bool
deriving DecidableEq, Repr

/-- The tape directory (section 3.1, R46 to R63). -/
structure Dir where
  state : DirState
  image : List DirEntry
  headerProfile : Nat
  generation : Nat
  dirty : Bool
  range : Option SessionRange
  copies : List (List (Option (List Byte)))
  collecting : Bool
  blankTest : Timer
  blankTested : Bool
  writeImage : Option (List Byte)
  changed : Bool
deriving DecidableEq, Repr

/-! ### Line port -/

/-- Presence of an inbound stream (section 4.1). -/
inductive StreamPresence where
  | awaiting | live | silent
deriving DecidableEq, Repr

/-- A field header as kept in a field record. -/
structure Header where
  parity : Parity
  grade : Nat
  afc : Int
deriving DecidableEq, Repr

/-- The field record of an inbound stream (section 4.1). -/
structure FieldRecord where
  presence : StreamPresence
  header : Option Header
  lastLine : Option Nat
  silence : Timer
deriving DecidableEq, Repr

/-- Settling record of a tuner (R70). -/
inductive Settling where
  | none | tune | trim
deriving DecidableEq, Repr

/-- View source (section 4.4). -/
inductive ViewSource where
  | tunerA | tunerB | external
deriving DecidableEq, Repr

/-- Source of a channel or a session (R78, R148). -/
inductive SourceKind where
  | air | ext
deriving DecidableEq, Repr

/-- One line of an outbound field: passed on as it came, or a black video line. -/
inductive OutLine where
  | passed (line : Nat) (payload : Payload)
  | black (line : Nat)
deriving DecidableEq, Repr

/-- A data line as it travels: each byte with its parity bit (section 4.2). -/
abbrev DataLine := List (Byte × Bool)

/-- The MON field begun last (R71, R72): its header, the stream it carries (absent for a generated blank field, whose
313 lines are black), whether lines of that stream can still come to it, and the lines sent so far. -/
structure MonField where
  parity : Parity
  grade : Nat
  source : Option Inbound
  sending : Bool
  lines : List OutLine
deriving DecidableEq, Repr

/-- The REC field begun last (R73, R74): as MON, with the number of the frame it belongs to while the TRC writes in
DIR_WRITE, and the tape's own lines 9 and 10. -/
structure RecField where
  parity : Parity
  grade : Nat
  source : Option Inbound
  sending : Bool
  frame : Option Nat
  line9 : DataLine
  line10 : DataLine
  lines : List OutLine
deriving DecidableEq, Repr

/-- The RPL field begun last (R76): its header, the four STATUS lines and, from line 5 on, the reply lines. -/
structure RplField where
  parity : Parity
  grade : Nat
  status : List DataLine
  replyLines : List DataLine
deriving DecidableEq, Repr

/-- The line port (chapter 4). -/
structure Lpt where
  ta : FieldRecord
  tb : FieldRecord
  aux : FieldRecord
  play : FieldRecord
  ctrl : FieldRecord
  cueLineA : Option Nat
  cueLineB : Option Nat
  settlingA : Settling
  settlingB : Settling
  viewSource : Option ViewSource
  sessionSource : Option SourceKind
  mon : Option MonField
  recField : Option RecField
  rpl : Option RplField
deriving DecidableEq, Repr

/-! ### Tuning controller -/

/-- What a channel entry is reached by (R78). In the staging record the values are as sent. -/
inductive ChannelTuning where
  | air (frequency : Nat) (fine : Int)
  | ext (keys : List Byte)
deriving DecidableEq, Repr

/-- A VALID channel entry, or the staged one (R78, R79). -/
structure Channel where
  tuning : ChannelTuning
  network : Option Nat
  cueLine : Option Nat
  skip : Bool
deriving DecidableEq, Repr

/-- Owners of the sources, in the order of section 13.1. -/
inductive Owner where
  | none | record | watch | view | search
deriving DecidableEq, Repr

/-- A tuner record (section 5.3). -/
structure Tuner where
  owner : Owner
  channel : Option Nat
  frequency : Option Nat
  fine : Int
  cueLine : Option Nat
  afc : Int
  afcHistory : List Int
  afcLimit : Bool
  settle : Nat
  present : Bool
  strongRun : Nat
  weakRun : Nat
deriving DecidableEq, Repr

/-- Band of a synthesizer word (R84). -/
inductive Band where
  | low | mid | high
deriving DecidableEq, Repr

/-- A synthesizer word (R84). -/
structure SynthWord where
  band : Band
  n : Int
deriving DecidableEq, Repr

/-- The IR profile (R96): the eight durations in the order of the rule. -/
structure IrProfile where
  carrier : Nat
  idleHigh : Bool
  durations : List Nat
deriving DecidableEq, Repr

/-- The key list being sent (R98): the key in progress with the profile it began with, the keys after it, whom the list
is sent for, and whether it is cut after its current key. -/
structure IrList where
  key : Byte
  profile : IrProfile
  rest : List Byte
  sentFor : Owner
  cut : Bool
deriving DecidableEq, Repr

/-- The external-source record (R98). Its IR state is SENDING while a list is being sent. -/
structure ExtRecord where
  owner : Owner
  channel : Option Nat
  sending : Option IrList
  waiting : Option (Byte × List Byte × Owner)
deriving DecidableEq, Repr

/-- State of the channel search (section 6.1). -/
inductive SearchState where
  | idle | running | suspended
deriving DecidableEq, Repr

/-- Phase of the channel search (section 6.1). -/
inductive SearchPhase where
  | step | confirm | trim | name
deriving DecidableEq, Repr

/-- Last result of the channel search (section 6.1). -/
inductive SearchResult where
  | none | done | stopped | full | cancelled | mains
deriving DecidableEq, Repr

/-- The search record (section 6.1). -/
structure Search where
  state : SearchState
  frequency : Nat
  phase : SearchPhase
  count : Nat
  network : Option Nat
  added : Nat
  result : SearchResult
deriving DecidableEq, Repr

/-- The tuning controller (section 5.1). -/
structure Tun where
  channels : List (Option Channel)
  staging : Option Channel
  tunerA : Tuner
  tunerB : Tuner
  wordA : Option SynthWord
  wordB : Option SynthWord
  ext : ExtRecord
  view : Option (Nat × ViewSource)
  irProfile : IrProfile
  search : Search
  searchCut : Bool
deriving DecidableEq, Repr

/-! ### Cue capture -/

/-- Status of a cue (section 7.1). -/
inductive CueStatus where
  | run | hold | clear
deriving DecidableEq, Repr

/-- Content of a cue (section 7.1). -/
structure Cue where
  network : Nat
  label : Option Label
  status : CueStatus
deriving DecidableEq, Repr

/-- A valid TIME decode (R120), universal time with the offset in half hours. -/
structure TimeDecode where
  at_ : DateTime
  offset : Int
deriving DecidableEq, Repr

/-- A tuner cue record (section 7.1). `tuning` is absent when UNTUNED, else the channel index or none. -/
structure CueRecord where
  tuning : Option (Option Nat)
  taking : Bool
  lastCue : Option Cue
  age : Nat
  current : Option Cue
  lastTime : Option TimeDecode
deriving DecidableEq, Repr

/-- An entry of the cue ring (section 7.4). -/
structure RingEntry where
  tuner : TunerId
  channel : Option Nat
  cue : Cue
  at_ : DateTime
  status : ClockStatus
deriving DecidableEq, Repr

/-- Cue capture (section 7.1). -/
structure CueBlock where
  a : CueRecord
  b : CueRecord
  ring : List RingEntry
deriving DecidableEq, Repr

/-! ### Clock -/

/-- The clock record (section 8.1). Days of the week are 0 Monday to 6 Sunday. The second phase is counted in ticks of
the 32,768 Hz timebase and starts again at each second and at each set (log 7). -/
structure Clk where
  now : DateTime
  dow : Nat
  phase : Nat
  status : ClockStatus
  autoSet : Bool
deriving DecidableEq, Repr

/-! ### Timer scheduler -/

/-- State of a timer entry, in the order of R135. -/
inductive EntryState where
  | empty | armed | waiting | recording | paused | done | missed
deriving DecidableEq, Repr

/-- Repeat of a timer entry (R135). -/
inductive Repeat where
  | once (date : Date)
  | daily
  | weekdays
  | weekly (dow : Nat)
deriving DecidableEq, Repr

/-- Speed of a timer entry (R135). -/
inductive TimerSpeed where
  | auto | one | two
deriving DecidableEq, Repr

/-- The definition of a timer entry (R135); in the staging record the values are as sent. -/
structure TimerDef where
  channel : Nat
  rep : Repeat
  startHour : Nat
  startMinute : Nat
  stopHour : Nat
  stopMinute : Nat
  speed : TimerSpeed
  label : Option Label
deriving DecidableEq, Repr

/-- The outcome of a timer entry (R135). -/
structure TimerOutcome where
  lastStart : Option DateTime
  lastStop : DateTime
  reason : EndReason
  entryNo : Option Nat
  notIndexed : Bool
  seamUnlocked : Bool
  switched : Bool
deriving DecidableEq, Repr

/-- A timer entry (R135). The next occurrence is held as the day number of its date, counted from 01-01-00 as R127
counts (log 18). -/
structure TimerEntry where
  state : EntryState
  defn : Option TimerDef
  next : Option Nat
  deferred : Bool
  interrupted : Bool
  outcome : Option TimerOutcome
deriving DecidableEq, Repr

/-- State of a session (R148). -/
inductive SessionState where
  | starting | active | paused | closing
deriving DecidableEq, Repr

/-- Start phase of a session (R148). -/
inductive StartPhase where
  | source | irWait | lockup
deriving DecidableEq, Repr

/-- Pause cause of a session (R148). -/
inductive PauseCause where
  | manual | label
deriving DecidableEq, Repr

/-- Stop rule of a session (R148). -/
inductive StopRule where
  | clock | label | manual
deriving DecidableEq, Repr

/-- The session record (R148, section 10.1). The origin is a timer index, or none for MANUAL. Occurrence and deadline
are in minutes counted from 01-01-00 00:00 (log 18). `byUnitReset` and `byMains` note how the close began (R157, R158). -/
structure Session where
  origin : Option Nat
  channel : Nat
  source : SourceKind
  occurrence : Option (Nat × Nat)
  state : SessionState
  startPhase : StartPhase
  firstSpeed : Option Speed
  currentSpeed : Speed
  autoMark : Bool
  switchFrame : Option Nat
  pauseCause : Option PauseCause
  stopRule : StopRule
  deadline : Option Nat
  label : Option Label
  entryNo : Option Nat
  notIndexed : Bool
  seamUnlocked : Bool
  switched : Bool
  closeReason : Option EndReason
  clearNote : Bool
  holdPending : Bool
  cueLoss : Bool
  lossTimer : Timer
  startedAt : Option DateTime
  irWait : Timer
  byUnitReset : Bool
  byMains : Bool
deriving DecidableEq, Repr

/-- The timer scheduler (chapters 9 and 10). `clears` holds the CLEAR TIMER commands waiting on the close (R140). -/
structure Sch where
  timers : List TimerEntry
  staging : Option TimerDef
  session : Option Session
  watch : Option Nat
  settledFigure : Option Nat
  clears : List Nat
deriving DecidableEq, Repr

/-! ### Control line unit -/

/-- Outcomes of replies, in the order of section 4 of 00_scope.md and of R181. -/
inductive ReplyOutcome where
  | done | started | refused | failed | aborted | superseded | preempted | cancelled
deriving DecidableEq, Repr

/-- Reasons of replies, in the order of R181. -/
inductive Reason where
  | none | busy | state | range | full | noCassette | writeProtected | dew | tunerBusy | referenced | running
  | unsetClock | notOn | starting | lock | notReached | stall | fault | unreadable | incomplete
deriving DecidableEq, Repr

/-- A reply (R181). -/
structure Reply where
  tag : Byte
  code : Nat
  outcome : ReplyOutcome
  reason : Reason
  result : List Byte
deriving DecidableEq, Repr

/-- The blocks that own long commands (R178). -/
inductive OwnerBlock where
  | trc | sch
deriving DecidableEq, Repr

/-- A place of the in-flight list (section 11.1), with the serial number of its command (log 8). -/
structure InFlight where
  id : Nat
  tag : Byte
  code : Nat
  owner : OwnerBlock
deriving DecidableEq, Repr

/-- The pending first line of a two-line command (R174). -/
structure PendingLine where
  tag : Byte
  code : Byte
  length : Byte
  check : Byte
  args : List Byte
deriving DecidableEq, Repr

/-- The control line unit (section 11.1). A reply place is ready (in `ready`, oldest completion first), reserved (its
command's serial number is in `reserved`), or free. -/
structure Clu where
  lineCount : Nat
  pendingLine : Option PendingLine
  inFlight : List InFlight
  ready : List Reply
  reserved : List Nat
  sticky : BitVec 18
  nextId : Nat
deriving DecidableEq, Repr

/-! ### Store and supply -/

/-- Names of store records (section 12.1). -/
inductive RecordName where
  | channel (i : Nat)
  | timer (i : Nat)
  | profile (i : Nat)
  | irProfile
  | options
deriving DecidableEq, Repr

/-- Result of a store write (R190). -/
inductive StoreResult where
  | none | pass | fail
deriving DecidableEq, Repr

/-- Power states (section 12.4). -/
inductive PowerState where
  | on | standby | backup
deriving DecidableEq, Repr

/-- The options record (section 12.3). -/
structure Options where
  autoRewind : Bool
  clockAutoSet : Bool
  presenceThreshold : Nat
  presenceRun : Nat
  defaultCueLine : Nat
  mainsLevel : Nat
  defaultProfile : Nat
deriving DecidableEq, Repr

/-- The store and supply block (chapter 12). `writing` is the write in flight with the bytes it carries; `reading` is
the place of the record the cold-start read awaits, 0 to 125 in the order of R195. -/
structure Sto where
  pendingWrites : List RecordName
  writing : Option (RecordName × List Byte)
  current : StoreResult
  previous : StoreResult
  options : Options
  power : PowerState
  heldPower : PowerState
  validity : Bool
  reading : Option Nat
  resetAsserted : Bool
deriving DecidableEq, Repr

/-! ### The whole state -/

/-- The state of the part, the queue of waiting commands (first in, first out), and the counter of free choices. -/
structure State where
  pins : Pins
  trc : Trc
  tcb : Tcb
  dir : Dir
  lpt : Lpt
  tun : Tun
  cue : CueBlock
  clk : Clk
  sch : Sch
  clu : Clu
  sto : Sto
  choices : Nat
  pending : List Instr
deriving DecidableEq, Repr

/-! ### The state right after a cold start has begun (R195) -/

/-- The inputs of a deck with an empty slot and good mains (log 3). -/
def Pins.reset : Pins :=
  { cassette := .slotOpen, threaded := false, unthreaded := true, tab := .tabIn, startSensor := false,
    endSensor := false, dew := false, mainsSense := 1300 }

/-- R25, cold start, with the state that R24 gives for the pins of `Pins.reset`. -/
def Trc.reset : Trc :=
  { state := .empty, phase := .idle, servoLocked := false, pauseTimer := none, endLatch := false, locate := none,
    seek := none, pausePoint := none, backspaceCount := 0, speedSetting := .one, recordingSpeed := .one,
    supplyWatch := none, takeUpWatch := none, atRestMark := false, playLock := none, lockupLock := none,
    dirReadLock := none, threadingLimit := none, unthreadingLimit := none, pushOutLimit := none,
    steadyAwaited := false, held := none, orderedSpeed := .one, orderedIndex := false, markDue := false,
    heldHalt := false, heldStart := none, heldPause := false, heldResume := none, rewindDue := false }

/-- A profile in state EMPTY: code 0 and all points 0 (R33). -/
def Profile.empty : Profile := { valid := false, code := 0, points := List.replicate 33 0 }

/-- The empty staging record (R45). -/
def ProfileStaging.empty : ProfileStaging := { header := none, slots := List.replicate 33 none }

/-- R45, cold start. -/
def Tcb.reset : Tcb :=
  { relCounter := 0, absPos := 0, exact := false, pulseSinceExact := false, indexCount := 0, blankFlag := false,
    blankTimer := none, supplyPeriod := none, takeUpPeriod := none, supplySeen := false, takeUpSeen := false,
    steadyOpen := false, history := [], nearEnd := false, profiles := List.replicate 8 Profile.empty, selected := 0,
    staging := ProfileStaging.empty }

/-- Three copy collections with every place empty (R49). -/
def emptyCopies : List (List (Option (List Byte))) := List.replicate 3 (List.replicate 25 none)

/-- R63, cold start. -/
def Dir.reset : Dir :=
  { state := .unknown, image := [], headerProfile := 0, generation := 0, dirty := false, range := none,
    copies := emptyCopies, collecting := false, blankTest := none, blankTested := false, writeImage := none,
    changed := false }

/-- A field record that awaits its first header, its 40 ms silence timer running (R77). -/
def FieldRecord.reset : FieldRecord :=
  { presence := .awaiting, header := none, lastLine := none, silence := some 40 }

/-- R77, cold start. -/
def Lpt.reset : Lpt :=
  { ta := FieldRecord.reset, tb := FieldRecord.reset, aux := FieldRecord.reset, play := FieldRecord.reset,
    ctrl := FieldRecord.reset, cueLineA := none, cueLineB := none, settlingA := .none, settlingB := .none,
    viewSource := none, sessionSource := none, mon := none, recField := none, rpl := none }

/-- A cleared tuner record (section 5.3). -/
def Tuner.cleared : Tuner :=
  { owner := .none, channel := none, frequency := none, fine := 0, cueLine := none, afc := 0, afcHistory := [],
    afcLimit := false, settle := 0, present := false, strongRun := 0, weakRun := 0 }

/-- A cleared external-source record (R98). -/
def ExtRecord.cleared : ExtRecord := { owner := .none, channel := none, sending := none, waiting := none }

/-- The default IR profile (R100). -/
def IrProfile.default : IrProfile :=
  { carrier := 400, idleHigh := false, durations := [80, 40, 5, 15, 5, 5, 5, 300] }

/-- The search record of a cold start (R111). -/
def Search.reset : Search :=
  { state := .idle, frequency := 900, phase := .step, count := 0, network := none, added := 0, result := .none }

/-- R100 and R111, cold start. -/
def Tun.reset : Tun :=
  { channels := List.replicate 100 none, staging := none, tunerA := Tuner.cleared, tunerB := Tuner.cleared,
    wordA := none, wordB := none, ext := ExtRecord.cleared, view := none, irProfile := IrProfile.default,
    search := Search.reset, searchCut := false }

/-- An UNTUNED tuner cue record (R123). -/
def CueRecord.untuned : CueRecord :=
  { tuning := none, taking := false, lastCue := none, age := 0, current := none, lastTime := none }

/-- R123. -/
def CueBlock.reset : CueBlock := { a := CueRecord.untuned, b := CueRecord.untuned, ring := [] }

/-- R134, cold start: 01-01-00, Saturday, 00:00:00, UNSET. -/
def Clk.reset : Clk :=
  { now := { date := { day := 1, month := 1, year := 0 }, hour := 0, minute := 0, second := 0 }, dow := 5, phase := 0,
    status := .unset, autoSet := false }

/-- An EMPTY timer entry (R135). -/
def TimerEntry.empty : TimerEntry :=
  { state := .empty, defn := none, next := none, deferred := false, interrupted := false, outcome := none }

/-- R159, cold start. -/
def Sch.reset : Sch :=
  { timers := List.replicate 16 TimerEntry.empty, staging := none, session := none, watch := none,
    settledFigure := none, clears := [] }

/-- R187, cold start. -/
def Clu.reset : Clu :=
  { lineCount := 0, pendingLine := none, inFlight := [], ready := [], reserved := [], sticky := 0, nextId := 0 }

/-- The default options (section 12.3). -/
def Options.default : Options :=
  { autoRewind := true, clockAutoSet := true, presenceThreshold := 9, presenceRun := 3, defaultCueLine := 16,
    mainsLevel := 1, defaultProfile := 0 }

/-- R195: power ON, nothing pending, both results NONE, the validity mark clear and the read at its first record. -/
def Sto.reset : Sto :=
  { pendingWrites := [], writing := none, current := .none, previous := .none, options := Options.default,
    power := .on, heldPower := .on, validity := false, reading := some 0, resetAsserted := false }

/-- The machine right after reset: a cold start has begun and no record has been read yet (R195; log 1). -/
def State.reset : State :=
  { pins := Pins.reset, trc := Trc.reset, tcb := Tcb.reset, dir := Dir.reset, lpt := Lpt.reset, tun := Tun.reset,
    cue := CueBlock.reset, clk := Clk.reset, sch := Sch.reset, clu := Clu.reset, sto := Sto.reset, choices := 0,
    pending := [] }

end Sys2Proof.Machine
end

