-- ==== Sys2Proof/Machine/Calendar.lean ====
section
/-! DEFINITION. The calendar (R126, R127, R132), the arithmetic of dates and times, and occurrences (R142). -/

namespace Sys2Proof.Machine

/-- A leap year has a two-digit number divisible by 4 (R126). -/
def isLeap (year : Nat) : Bool := year % 4 = 0

/-- The length of a month (R126); 0 for no month. -/
def monthLength (year : Nat) : Nat → Nat
  | 1 | 3 | 5 | 7 | 8 | 10 | 12 => 31
  | 4 | 6 | 9 | 11 => 30
  | 2 => if isLeap year then 29 else 28
  | _ => 0

/-- A date of the calendar (R126). -/
def Date.valid (d : Date) : Bool :=
  1 ≤ d.month ∧ d.month ≤ 12 ∧ d.year ≤ 99 ∧ 1 ≤ d.day ∧ d.day ≤ monthLength d.year d.month

/-- A time of day. -/
def timeValid (hour minute second : Nat) : Bool := hour ≤ 23 ∧ minute ≤ 59 ∧ second ≤ 59

/-- A real date and a real time of day (section 8.1). -/
def DateTime.valid (t : DateTime) : Bool := t.date.valid && timeValid t.hour t.minute t.second

/-- The next day (R126); the day after 31-12-99 is 01-01-00, as R132 wraps. -/
def Date.nextDay (d : Date) : Date :=
  if d.day < monthLength d.year d.month then { d with day := d.day + 1 }
  else if d.month < 12 then { day := 1, month := d.month + 1, year := d.year }
  else if d.year < 99 then { day := 1, month := 1, year := d.year + 1 }
  else { day := 1, month := 1, year := 0 }

/-- The days of the months before month `m` of a year (R127). -/
def daysBeforeMonth (year m : Nat) : Nat :=
  ((List.range (m - 1)).map fun i => monthLength year (i + 1)).sum

/-- The days from 01-01-00 to a date, by the three terms of R127. -/
def Date.dayNumber (d : Date) : Nat :=
  365 * d.year + (d.year + 3) / 4 + daysBeforeMonth d.year d.month + (d.day - 1)

/-- The day of the week of a day number, 0 Monday to 6 Sunday: 01-01-00 was a Saturday (R127). -/
def dowOfDay (n : Nat) : Nat := (n + 5) % 7

/-- The day of the week of a date (R127). -/
def Date.dow (d : Date) : Nat := dowOfDay d.dayNumber

/-- The month and day of the `n`-th day (from 0) of a year, walking the months from month `m`. -/
def monthDay (year : Nat) : Nat → Nat → Nat → Nat × Nat
  | 0, m, n => (m, n + 1)
  | fuel + 1, m, n =>
    if n < monthLength year m then (m, n + 1) else monthDay year fuel (m + 1) (n - monthLength year m)

/-- The date of a day number; beyond 31-12-99 the calendar wraps (R132; log 18). -/
def dateOfDay (n : Nat) : Date :=
  let k := n % 36525
  let r := k % 1461
  let year := if r < 366 then 4 * (k / 1461) else 4 * (k / 1461) + 1 + (r - 366) / 365
  let inYear := if r < 366 then r else (r - 366) % 365
  let md := monthDay year 12 1 inYear
  { day := md.2, month := md.1, year := year }

/-- Whole seconds from 01-01-00 00:00:00. -/
def DateTime.seconds (t : DateTime) : Nat :=
  t.date.dayNumber * 86400 + t.hour * 3600 + t.minute * 60 + t.second

/-- One second later (R125); R132 gives the wrap. -/
def DateTime.tick (t : DateTime) : DateTime :=
  if t.second < 59 then { t with second := t.second + 1 }
  else if t.minute < 59 then { t with minute := t.minute + 1, second := 0 }
  else if t.hour < 23 then { t with hour := t.hour + 1, minute := 0, second := 0 }
  else { date := t.date.nextDay, hour := 0, minute := 0, second := 0 }

/-- The last second of the calendar (R132). -/
def lastSecond : DateTime :=
  { date := { day := 31, month := 12, year := 99 }, hour := 23, minute := 59, second := 59 }

/-- The difference of two times in seconds, without regard to direction (R131). -/
def secondsApart (t u : DateTime) : Nat :=
  if t.seconds ≤ u.seconds then u.seconds - t.seconds else t.seconds - u.seconds

/-- Local time of a universal time and an offset in half hours (R122): `none` when the local date would leave the
calendar. -/
def localTime (t : TimeDecode) : Option DateTime :=
  let minutes : Int := (t.at_.date.dayNumber * 1440 + t.at_.hour * 60 + t.at_.minute : Nat) + 30 * t.offset
  if minutes < 0 ∨ 36525 * 1440 ≤ minutes then none
  else
    let m := minutes.toNat
    some { date := dateOfDay (m / 1440), hour := m % 1440 / 60, minute := m % 60, second := t.at_.second }

/-- The date of an absolute minute, and its hour and minute. -/
def dateTimeOfMinute (m : Nat) : DateTime :=
  { date := dateOfDay (m / 1440), hour := m % 1440 / 60, minute := m % 60, second := 0 }

/-! ### Occurrences (R142) -/

/-- The start of the occurrence on day `d`, in minutes. -/
def TimerDef.startOn (t : TimerDef) (d : Nat) : Nat := d * 1440 + t.startHour * 60 + t.startMinute

/-- The stop of the occurrence on day `d`, in minutes: on the day after when it is not later than the start. -/
def TimerDef.stopOn (t : TimerDef) (d : Nat) : Nat :=
  if t.startHour * 60 + t.startMinute < t.stopHour * 60 + t.stopMinute then d * 1440 + t.stopHour * 60 + t.stopMinute
  else (d + 1) * 1440 + t.stopHour * 60 + t.stopMinute

/-- The days of the calendar, 01-01-00 to 31-12-99 (R126, R132). -/
abbrev calendarDays : Nat := 36525

/-- Whether a date, given by its day number, matches a repeat; a day past 31-12-99 has the date, and the day of the week, of
the calendar's next round (R127, R132). -/
def Repeat.matchesDay (r : Repeat) (d : Nat) : Bool :=
  match r with
  | .once date => d = date.dayNumber
  | .daily => true
  | .weekdays => dowOfDay (d % calendarDays) ≤ 4
  | .weekly w => dowOfDay (d % calendarDays) = w

/-- The clock stands in the first half of the calendar, where a date past 31-12-99 has been left behind by the wrap, and not
lies ahead of it (R132, R145; log 18). -/
def inFirstHalf (now : Nat) : Bool := now < 18263 * 86400

/-- A day number as the calendar counts it now (log 18). -/
def daySeen (now d : Nat) : Nat := if calendarDays ≤ d ∧ inFirstHalf now then d - calendarDays else d

/-- An absolute minute as the calendar counts it now (log 18). -/
def minuteSeen (now m : Nat) : Nat :=
  if calendarDays * 1440 ≤ m ∧ inFirstHalf now then m - calendarDays * 1440 else m

/-- The first of the sixteen days from `d` on that matches and whose stop is after `now`. Sixteen days hold every repeat
that is not ONCE, across the wrap of the calendar too. -/
def TimerDef.firstFrom (t : TimerDef) (d now : Nat) : Option Nat :=
  ((List.range 16).map fun i => daySeen now (d + i)).find? fun e =>
    t.rep.matchesDay e && decide (now < t.stopOn e * 60)

/-- The next occurrence of a new definition: ONCE the date given, else the earliest matching date whose stop is after
`now` (in seconds); an occurrence of the day before may still be open. -/
def TimerDef.newOccurrence (t : TimerDef) (now : Nat) : Option Nat :=
  match t.rep with
  | .once date => some date.dayNumber
  | _ => t.firstFrom (now / 86400 - 1) now

/-- The next occurrence of a repeating entry after the one of day `d` was served or missed; where the calendar holds none
any more, the first of its next round (R132; log 18). -/
def TimerDef.occurrenceAfter (t : TimerDef) (d now : Nat) : Option Nat :=
  (t.firstFrom (max (d + 1) (now / 86400 - 1)) now).or (t.firstFrom (calendarDays + now / 86400 - 1) now)

end Sys2Proof.Machine
end

