-- ==== Sys2Proof/Machine/Ops.lean ====
section
/-! DEFINITION. Operations every block uses: sticky events (R183), reply places, the in-flight list and completions
(R176 to R181), and the conditions that silence the bus (R77, R194) or refuse STARTING (R195). -/

namespace Sys2Proof.Machine

/-! ### Updates of one block -/

/-- Replaces the transport controller's state. -/
def State.setTrc (s : State) (x : Trc) : State := { s with trc := x }
/-- Replaces the tape counter block's state. -/
def State.setTcb (s : State) (x : Tcb) : State := { s with tcb := x }
/-- Replaces the tape directory's state. -/
def State.setDir (s : State) (x : Dir) : State := { s with dir := x }
/-- Replaces the line port's state. -/
def State.setLpt (s : State) (x : Lpt) : State := { s with lpt := x }
/-- Replaces the tuning controller's state. -/
def State.setTun (s : State) (x : Tun) : State := { s with tun := x }
/-- Replaces cue capture's state. -/
def State.setCue (s : State) (x : CueBlock) : State := { s with cue := x }
/-- Replaces the clock's state. -/
def State.setClk (s : State) (x : Clk) : State := { s with clk := x }
/-- Replaces the timer scheduler's state. -/
def State.setSch (s : State) (x : Sch) : State := { s with sch := x }
/-- Replaces the control line unit's state. -/
def State.setClu (s : State) (x : Clu) : State := { s with clu := x }
/-- Replaces the store and supply block's state. -/
def State.setSto (s : State) (x : Sto) : State := { s with sto := x }
/-- Replaces the inputs. -/
def State.setPins (s : State) (x : Pins) : State := { s with pins := x }

/-- A free choice was taken: the next one is another (log 9). -/
def State.choose (s : State) : State := { s with choices := s.choices + 1 }

/-! ### Supply conditions -/

/-- The part takes nothing from the bus and acts on no sensor: in BACKUP (R77, R193), and from assertion of the reset
input to its release (R194). -/
def State.asleep (s : State) : Bool := s.sto.power = .backup || s.sto.resetAsserted

/-- The store is being read at cold start (R195): commands are refused STARTING. -/
def State.starting (s : State) : Bool := s.sto.reading.isSome

/-! ### Sticky events (R183) -/

/-- The sticky events, in the order of the table of R183. -/
inductive Sticky where
  | tapeEnd | tapeStart | nearEnd | sessionOpen | sessionClose | entryMissed | searchEnd | cueRingFull | checkFail
  | overrun | stateCorrected | stateAbort | storeFail | storeCheck | viewLost | clockSet | mainsReturn | dirFull
deriving DecidableEq, Repr

/-- Place of an event in the table of R183, counted from 0. -/
def Sticky.index : Sticky → Nat
  | .tapeEnd => 0 | .tapeStart => 1 | .nearEnd => 2 | .sessionOpen => 3 | .sessionClose => 4 | .entryMissed => 5
  | .searchEnd => 6 | .cueRingFull => 7 | .checkFail => 8 | .overrun => 9 | .stateCorrected => 10 | .stateAbort => 11
  | .storeFail => 12 | .storeCheck => 13 | .viewLost => 14 | .clockSet => 15 | .mainsReturn => 16 | .dirFull => 17

/-- The mask with the one bit of an event (section 13.1). -/
def Sticky.mask (e : Sticky) : BitVec 18 := 1#18 <<< e.index

/-- Whether an event is set. -/
def State.sticky (s : State) (e : Sticky) : Bool := s.clu.sticky.getLsbD e.index

/-- Raises an event: it is set, and stays set if it was (R183). -/
def raise (e : Sticky) (s : State) : State := s.setClu { s.clu with sticky := s.clu.sticky ||| e.mask }

/-! ### Reply places and the in-flight list (R176 to R180) -/

/-- A taken command on its way to its owner (R177), with its serial number (log 8). -/
structure Cmd where
  id : Nat
  tag : Byte
  code : Nat
  args : List Byte
deriving DecidableEq, Repr

/-- Reply places neither ready nor reserved (R180). -/
def Clu.freePlaces (c : Clu) : Nat := 6 - (c.ready.length + c.reserved.length)

/-- The reserved place of command `id` becomes ready with a reply, at the end of the ready places; a command with no
place (tag 0) leaves nothing (R176, R177). -/
def Clu.answer (c : Clu) (id : Nat) (r : Reply) : Clu :=
  if id ∈ c.reserved then { c with reserved := c.reserved.erase id, ready := c.ready ++ [r] } else c

/-- An owner's immediate answer (R177). -/
def reply (c : Cmd) (o : ReplyOutcome) (r : Reason) (result : List Byte) (s : State) : State :=
  s.setClu (s.clu.answer c.id { tag := c.tag, code := c.code, outcome := o, reason := r, result := result })

/-- DONE with no result. -/
def done (c : Cmd) (s : State) : State := reply c .done .none [] s

/-- REFUSED with a reason. -/
def refuse (c : Cmd) (r : Reason) (s : State) : State := reply c .refused r [] s

/-- A completion of an in-flight command by its owner (R179): its place is freed and its reply joins the ready places;
it is dropped when the command is no longer in the list. -/
def complete (id : Nat) (o : ReplyOutcome) (r : Reason) (s : State) : State :=
  match s.clu.inFlight.find? (fun f => f.id = id) with
  | none => s
  | some f =>
    let clu := { s.clu with inFlight := s.clu.inFlight.filter fun g => g.id ≠ id }
    s.setClu (clu.answer id { tag := f.tag, code := f.code, outcome := o, reason := r, result := [] })

/-- Completes the transport command the TRC holds, if it holds one. -/
def completeHeld (o : ReplyOutcome) (r : Reason) (s : State) : State :=
  match s.trc.held with
  | none => s
  | some h => complete h.id o r (s.setTrc { s.trc with held := none })

/-- Whether the TRC holds a command of one of these codes. -/
def State.holds (s : State) (codes : List Nat) : Bool :=
  match s.trc.held with
  | none => false
  | some h => h.code ∈ codes

/-- A command takes an in-flight place (R178). -/
def enlist (c : Cmd) (owner : OwnerBlock) (s : State) : State :=
  s.setClu { s.clu with inFlight := s.clu.inFlight ++ [{ id := c.id, tag := c.tag, code := c.code, owner := owner }] }

/-- An accepted transport command is held in flight: it supersedes the one the TRC holds and takes its place, or a free place,
or is refused FULL with nothing changed (R5, R178, R179); then its effect begins. SUPERSEDED carries NONE (R181, log 79). -/
def holdTransport (c : Cmd) (effect : State → State) (s : State) : State :=
  let s1 := completeHeld .superseded .none s
  if s1.clu.inFlight.length < 2 then
    let s2 := enlist c .trc s1
    effect (s2.setTrc { s2.trc with held := some { id := c.id, code := c.code } })
  else refuse c .full s

/-- An accepted transport command that completes at once: it supersedes the one in flight, has its effect, and its
answer follows (R179). -/
def atOnce (c : Cmd) (effect : State → State) (o : ReplyOutcome) (r : Reason) (s : State) : State :=
  reply c o r [] (effect (completeHeld .superseded .none s))

/-- An owner's operation with the refusal STARTING before it (R177, R195). -/
def owned (op : Cmd → State → State) (c : Cmd) (s : State) : State :=
  if s.starting then refuse c .starting s else op c s

/-- A taken command: a tag other than 0 reserves a reply place or, when none is free, the command is discarded with
OVERRUN; then it is dispatched to its owner (R176, R177). While the bus is ignored nothing is taken. -/
def takeCommand (tag : Byte) (code : Nat) (args : List Byte) (op : Cmd → State → State) (s : State) : State :=
  if s.asleep then s
  else
    let c : Cmd := { id := s.clu.nextId, tag := tag, code := code, args := args }
    if tag = 0 then op c (s.setClu { s.clu with nextId := s.clu.nextId + 1 })
    else if s.clu.freePlaces = 0 then raise .overrun s
    else op c (s.setClu { s.clu with nextId := s.clu.nextId + 1, reserved := s.clu.reserved ++ [s.clu.nextId] })

/-- A command whose rule names no arguments (log 10): with none it runs; otherwise it is refused RANGE or runs, as the
free value says. -/
def noArgs (op : Cmd → State → State) (c : Cmd) (s : State) : State :=
  if c.args = [] then op c s
  else if Config.spareArgsRefused c.code c.args then refuse c .range s
  else op c s

/-! ### Bytes (section 13.1) -/

/-- A number in two bytes, high byte first. -/
def bytes2 (n : Nat) : List Byte := [Byte.ofNat (n / 256), Byte.ofNat n]

/-- A number in three bytes, high byte first. -/
def bytes3 (n : Nat) : List Byte := [Byte.ofNat (n / 65536), Byte.ofNat (n / 256), Byte.ofNat n]

/-- A signed number in three bytes, two's complement. -/
def bytes3s (n : Int) : List Byte := bytes3 (BitVec.ofInt 24 n).toNat

/-- The number of two bytes. -/
def nat2 (h l : Byte) : Nat := h.toNat * 256 + l.toNat

/-- The number of three bytes. -/
def nat3 (h m l : Byte) : Nat := h.toNat * 65536 + m.toNat * 256 + l.toNat

/-- The signed number of three bytes. -/
def int3 (h m l : Byte) : Int := (BitVec.ofNat 24 (nat3 h m l)).toInt

/-- A flag in one byte: 1 set, 0 clear (log 14). -/
def flagByte (b : Bool) : Byte := if b then 1 else 0

/-- An on/off value in one byte: its place in the list "on, off" (section 13.1; log 14). -/
def onOffByte (b : Bool) : Byte := if b then 0 else 1

/-- How a flag or presence byte reads (log 11). -/
def readFlag (b : Byte) : Bool := if b = 1 then true else if b = 0 then false else Config.flagByte b.toNat

/-- The sum of bytes, modulo 256. -/
def sumBytes (l : List Byte) : Byte := l.foldl (· + ·) 0

/-- A list filled with zero bytes to a length. -/
def padTo (n : Nat) (l : List Byte) : List Byte := l ++ List.replicate (n - l.length) 0

/-- The three mask bytes of a set of sticky events (section 13.1). -/
def maskBytes (m : BitVec 18) : List Byte :=
  [Byte.ofNat m.toNat, Byte.ofNat (m.toNat / 256), Byte.ofNat (m.toNat / 65536)]

/-! ### Codes of the commands (section 13.1: 1 to 40 in the order of section 11.8) -/

/-- Code of RECORD. -/
abbrev codeRecord : Nat := 2
/-- Code of PAUSE. -/
abbrev codePause : Nat := 3
/-- Code of STOP. -/
abbrev codeStop : Nat := 4
/-- Code of EJECT. -/
abbrev codeEject : Nat := 11

/-! ### Speeds and the session -/

/-- The speed as a number. -/
def Speed.toNat : Speed → Nat
  | .one => 1
  | .two => 2

/-- The current speed: the session's while one exists, else the speed setting (R43). -/
def State.currentSpeed (s : State) : Speed :=
  match s.sch.session with
  | some x => x.currentSpeed
  | none => s.trc.speedSetting

/-- Changes the session record, if there is one. -/
def modSession (f : Session → Session) (s : State) : State :=
  match s.sch.session with
  | none => s
  | some x => s.setSch { s.sch with session := some (f x) }

/-- Changes a timer entry. -/
def modTimer (k : Nat) (f : TimerEntry → TimerEntry) (s : State) : State :=
  s.setSch { s.sch with timers := s.sch.timers.modify k f }

/-- A timer entry of the table. -/
def State.timer (s : State) (k : Nat) : TimerEntry := s.sch.timers.getD k TimerEntry.empty

/-- A channel entry of the table; EMPTY is `none`. -/
def State.channel (s : State) (n : Nat) : Option Channel := s.tun.channels.getD n none

/-- A profile of the table. -/
def State.profile (s : State) (n : Nat) : Profile := s.tcb.profiles.getD n Profile.empty

end Sys2Proof.Machine
end

