-- ==== Sys2Proof/Machine/Counter.lean ====
section
/-! DEFINITION. The tape counter block (chapter 2): counters, position status, steady window, remaining tape. -/

namespace Sys2Proof.Machine

/-- Limit of the relative counter and of the absolute position (R26, R27). -/
abbrev frameLimit : Nat := 899999

/-- Limit of the index count (R30). -/
abbrev indexLimit : Nat := 99999

/-- Keeps a signed count within ±`limit`. -/
def clampInt (limit : Nat) (x : Int) : Int :=
  if x < -(limit : Int) then -(limit : Int) else if (limit : Int) < x then limit else x

/-- The step of a count in a direction. -/
def stepOf : Direction → Int
  | .forward => 1
  | .reverse => -1

/-- The absolute position one pulse further in a direction, saturating (R27). -/
def stepAbs (dir : Direction) (n : Nat) : Nat :=
  match dir with
  | .forward => if n < frameLimit then n + 1 else n
  | .reverse => n - 1

/-- One control pulse: relative counter (R26), absolute position while EXACT (R27), index count for a marked pulse
(R30). The blank flag clears and its second starts again while the window is open (R31). -/
def Tcb.pulse (t : Tcb) (dir : Direction) (marked : Bool) : Tcb :=
  { t with
    relCounter := clampInt frameLimit (t.relCounter + stepOf dir)
    absPos := if t.exact then stepAbs dir t.absPos else t.absPos
    pulseSinceExact := t.exact || t.pulseSinceExact
    indexCount := if marked then clampInt indexLimit (t.indexCount + stepOf dir) else t.indexCount
    blankFlag := false
    blankTimer := if t.steadyOpen then some 1000 else none }

/-- The position becomes EXACT at 0 (R28). -/
def exactAtZero (s : State) : State := s.setTcb { s.tcb with exact := true, absPos := 0, pulseSinceExact := false }

/-- The position becomes UNKNOWN and the absolute position freezes (R29). -/
def positionUnknown (s : State) : State := s.setTcb { s.tcb with exact := false, pulseSinceExact := false }

/-- The steady window opens: both periods absent, the blank second counted from now (R31, R38). -/
def openWindow (s : State) : State :=
  s.setTcb { s.tcb with steadyOpen := true, supplyPeriod := none, takeUpPeriod := none, supplySeen := false,
                        takeUpSeen := false, blankTimer := some 1000 }

/-- The steady window closes, and with it the blank flag (R31, R38). -/
def Tcb.closeWindow (t : Tcb) : Tcb :=
  { t with steadyOpen := false, supplySeen := false, takeUpSeen := false, blankFlag := false, blankTimer := none }

/-! ### Remaining tape (R40 to R44) -/

/-- Status of the remaining-tape estimate, in the order of R42. -/
inductive EstimateStatus where
  | none | partly | settled
deriving DecidableEq, Repr

/-- The estimate status of a period history (R42). -/
def estimateStatus (history : List Nat) : EstimateStatus :=
  if history.length = 0 then .none else if history.length < 8 then .partly else .settled

/-- The estimate M of a period history, 0 for none (R42). -/
def estimateOf (history : List Nat) : Nat := history.sum / history.length

/-- The remaining frames at a speed (R43). -/
def framesAt (speed : Speed) (m : Nat) : Nat :=
  match speed with
  | .one => 2 * m / 2
  | .two => 2 * m

/-- The remaining frames at the current speed; 0 with status NONE (R42, R43). -/
def State.remaining (s : State) : Nat := framesAt s.currentSpeed (estimateOf s.tcb.history)

/-- The ratio of the two reel periods (R40). -/
def periodRatio (ps pt : Nat) : Nat := 1024 * pt / (ps + pt)

/-- The interpolated value of a profile at a ratio (R40, R41). -/
def interpolate (points : List Nat) (f : Nat) : Nat :=
  let k := f / 32
  let r := f - 32 * k
  points.getD k 0 - (points.getD k 0 - points.getD (k + 1) 0) * r / 32

/-- A period that a measurement may use (R39). -/
def periodUsable (p : Nat) : Bool := 1 ≤ p ∧ p ≤ 4095

/-- The measurement of a take-up pulse: `none` when it is skipped (R39). -/
def Tcb.measure (t : Tcb) : Option Nat :=
  match t.supplyPeriod, t.takeUpPeriod with
  | some ps, some pt =>
    let p := t.profiles.getD t.selected Profile.empty
    if periodUsable ps && periodUsable pt && p.valid then some (interpolate p.points (periodRatio ps pt)) else none
  | _, _ => none

/-- A value joins the period history, the oldest leaving a full one (R42). -/
def appendHistory (history : List Nat) (e : Nat) : List Nat :=
  if history.length < 8 then history ++ [e] else history.drop (history.length - 7) ++ [e]

/-- The near-end condition (R44). -/
def State.nearEndHolds (s : State) : Bool :=
  estimateStatus s.tcb.history = .settled ∧ s.remaining ≤ 250

/-- The evaluation of the near-end condition (R44): the mark is set with NEAR_END on a crossing in, cleared outside. -/
def evalNearEnd (s : State) : State :=
  if s.nearEndHolds then
    if s.tcb.nearEnd then s else raise .nearEnd (s.setTcb { s.tcb with nearEnd := true })
  else s.setTcb { s.tcb with nearEnd := false }

/-- The period history is cleared: status NONE, the near-end mark clear, and the scheduler told (R42 to R44, R150). -/
def clearHistory (s : State) : State :=
  (s.setTcb { s.tcb with history := [], nearEnd := false }).setSch { s.sch with settledFigure := none }

/-- The selected profile becomes `p`; a change of index clears the history (R37). -/
def selectProfile (p : Nat) (s : State) : State :=
  if s.tcb.selected = p then s else clearHistory (s.setTcb { s.tcb with selected := p })

/-- A newly inserted cassette enters LOADING (R26, R30, R37, R42). -/
def newCassette (s : State) : State :=
  clearHistory (s.setTcb { s.tcb with relCounter := 0, indexCount := 0, selected := s.sto.options.defaultProfile })

/-- The cassette is ejected: position UNKNOWN at 0, history cleared (R29, R42). -/
def tcbEjected (s : State) : State :=
  clearHistory (s.setTcb { s.tcb with exact := false, absPos := 0, pulseSinceExact := false })

/-! ### Reel periods (R38) -/

/-- A supply pulse in the window renews the supply period (R38). -/
def Tcb.supplyPulse (t : Tcb) (ms : Nat) : Tcb :=
  if t.steadyOpen then { t with supplyPeriod := if t.supplySeen then some ms else none, supplySeen := true } else t

/-- A take-up pulse in the window renews the take-up period (R38). -/
def Tcb.takeUpPulse (t : Tcb) (ms : Nat) : Tcb :=
  if t.steadyOpen then { t with takeUpPeriod := if t.takeUpSeen then some ms else none, takeUpSeen := true } else t

end Sys2Proof.Machine
end

