-- ==== Sys2Proof/Machine/Directory.lean ====
section
/-! DEFINITION. The tape directory (chapter 3; layouts of section 13.4). -/

namespace Sys2Proof.Machine

/-! ### Codes -/

/-- The reasons in the order of section 13.6, from code 1. -/
def allReasons : List EndReason :=
  [.done, .doneLabel, .doneOverrun, .userStop, .tapeEnd, .transport, .pauseLimit, .dew, .mains, .deleted, .failedStart,
   .clock, .overlap, .late, .noCassette, .writeProtected]

/-- The code of a reason, 1 to 16 (section 13.6). -/
def EndReason.code (r : EndReason) : Nat := allReasons.idxOf r + 1

/-- The code of an optional reason, 0 when absent. -/
def reasonCode : Option EndReason → Nat
  | none => 0
  | some r => r.code

/-- The reason of a directory entry's code, 1 to 11 (section 13.4). -/
def reasonOfCode (n : Nat) : Option EndReason :=
  if 1 ≤ n ∧ n ≤ 11 then allReasons[n - 1]? else none

/-- The code of a directory state (section 13.1). -/
def DirState.code : DirState → Nat
  | .unknown => 0 | .blank => 1 | .valid => 2 | .damaged => 3

/-- An origin in a byte: a timer index, or 16 for MANUAL (section 13.1). -/
def originCode : Option Nat → Nat
  | none => 16
  | some k => k

/-- A date's three bytes. -/
def Date.bytes (d : Date) : List Byte := [Byte.ofNat d.day, Byte.ofNat d.month, Byte.ofNat d.year]

/-- A label's four bytes; NONE is all zero (section 13.1). -/
def labelBytes : Option Label → List Byte
  | none => [0, 0, 0, 0]
  | some l => [Byte.ofNat l.day, Byte.ofNat l.month, Byte.ofNat l.hour, Byte.ofNat l.minute]

/-! ### Entries -/

/-- The end of an entry: its start plus its length (section 3.4). -/
def DirEntry.stop (e : DirEntry) : Nat := e.start + e.length.getD 0

/-- An open entry has no length yet. -/
def DirEntry.isOpen (e : DirEntry) : Bool := e.length.isNone

/-- The number of the open entry, its place in the image's order (R53). -/
def openNumber (image : List DirEntry) : Option Nat :=
  (image.findIdx? DirEntry.isOpen).map (· + 1)

/-- Inserts an entry after every entry of lower start and before any of equal or higher start (R54). -/
def insertEntry (e : DirEntry) (image : List DirEntry) : List DirEntry :=
  image.filter (fun x => x.start < e.start) ++ e :: image.filter (fun x => ¬ x.start < e.start)

/-- What becomes of a closed entry under the session range [S, E) (R57). -/
def reconcileEntry (S E : Nat) (e : DirEntry) : Option DirEntry :=
  if S ≤ e.start ∧ e.stop ≤ E then none
  else if e.start < S ∧ S < e.stop then
    some { e with length := some (S - e.start), switchFrame := e.switchFrame.filter fun w => w < S }
  else if S ≤ e.start ∧ e.start < E ∧ E < e.stop then
    let overwritten := e.switchFrame.any fun w => w ≤ E
    some { e with start := E, length := some (e.stop - E),
                  firstSpeed := if overwritten then .two else e.firstSpeed,
                  switchFrame := e.switchFrame.filter fun w => E < w }
  else some e

/-- The open entry closed at the written end with its reason; `none` when its length comes out as 0 (R56). -/
def closeEntry (E : Nat) (r : EndReason) (e : DirEntry) : Option DirEntry :=
  if E ≤ e.start then none
  else some { e with length := some (E - e.start), endedBy := some r, switchFrame := e.switchFrame.filter fun w => w < E }

/-- The image after a close: the open entry closed, every other reconciled (R56, R57). -/
def closeImage (S E : Nat) (r : EndReason) (image : List DirEntry) : List DirEntry :=
  image.filterMap fun e => if e.isOpen then closeEntry E r e else reconcileEntry S E e

/-! ### States of the directory (R46) -/

/-- The directory becomes UNKNOWN: image empty, dirty clear, generation 0, no range (R46). -/
def Dir.toUnknown (d : Dir) : Dir :=
  { d with state := .unknown, image := [], dirty := false, generation := 0, range := none, collecting := false,
           blankTest := none, changed := false }

/-- The directory becomes UNKNOWN (R46). -/
def dirUnknown (s : State) : State := s.setDir s.dir.toUnknown

/-- Ejection: UNKNOWN, the collections emptied and the blank test stopped (R63). -/
def dirEjected (s : State) : State := s.setDir { s.dir.toUnknown with copies := emptyCopies, blankTested := false }

/-- The image changes: the dirty flag is set, a write in progress is told, and the scheduler learns the open entry's
number (R53, R59, R61). -/
def setImage (image : List DirEntry) (s : State) : State :=
  modSession (fun x => { x with entryNo := openNumber image })
    (s.setDir { s.dir with image := image, dirty := true, changed := true })

/-! ### Sessions (R54 to R58) -/

/-- The open notice of the scheduler (R54): the answer is in the session record's entry number and not-indexed flag. -/
def openNotice (x : Session) (network : Option Nat) (s : State) : State :=
  let startFrame := s.tcb.absPos
  let range : SessionRange := { start := some startFrame, writtenEnd := startFrame, opened := true }
  if ¬ s.tcb.exact ∨ s.dir.state = .unknown then
    modSession (fun y => { y with notIndexed := true })
      (s.setDir { s.dir with range := some { range with start := none, opened := false } })
  else if 24 ≤ s.dir.image.length then
    raise .dirFull (s.setDir { s.dir with range := some { range with opened := false } })
  else
    let e : DirEntry :=
      { start := startFrame, length := none, firstSpeed := x.firstSpeed.getD x.currentSpeed, switchFrame := none,
        source := if x.source = .ext then 100 else x.channel, network := network, label := x.label,
        recordedAt := if s.clk.status = .unset then none else some s.clk.now, origin := x.origin, endedBy := none }
    setImage (insertEntry e s.dir.image) (s.setDir { s.dir with range := some range })

/-- A control pulse counted in RECORD with the position EXACT moves the written end up (R55). -/
def followWriting (s : State) : State :=
  match s.dir.range with
  | none => s
  | some r =>
    if s.tcb.exact ∧ r.writtenEnd < s.tcb.absPos then
      s.setDir { s.dir with range := some { r with writtenEnd := s.tcb.absPos } }
    else s

/-- The first speed-2 frame is written at the current absolute position: the open entry takes it as its switch frame,
once, and the scheduler notes the same frame (R55, R153). -/
def noteSwitch (s : State) : State :=
  if s.dir.image.any (fun e => e.isOpen && e.switchFrame.isNone) then
    let frame := s.tcb.absPos
    modSession (fun x => { x with switchFrame := some frame })
      (setImage (s.dir.image.map fun e => if e.isOpen then { e with switchFrame := some frame } else e) s)
  else s

/-- The close notice of the scheduler (R56, R58): the number the entry holds after reconciliation, or none. -/
def closeNotice (r : EndReason) (s : State) : State × Option Nat :=
  match s.dir.range with
  | none => (s, none)
  | some g =>
    let s0 := s.setDir { s.dir with range := none }
    match g.start with
    | none => (s0, none)
    | some S =>
      let image := s.dir.image
      let after := closeImage S g.writtenEnd r image
      if g.opened then
        let before := image.takeWhile fun e => ¬ e.isOpen
        let kept := (image.find? DirEntry.isOpen).any fun e => (closeEntry g.writtenEnd r e).isSome
        (setImage after s0, if kept then some ((closeImage S g.writtenEnd r before).length + 1) else none)
      else if after = image then (s0, none)
      else (setImage after s0, none)

/-- A new profile index for the header while the directory is known (R59). -/
def headerFollows (p : Nat) (s : State) : State :=
  if s.dir.state ≠ .unknown ∧ s.dir.headerProfile ≠ p then
    s.setDir { s.dir with headerProfile := p, dirty := true, changed := true }
  else s

/-! ### Layouts (section 13.4) -/

/-- The 16-byte tape slot of an entry (section 13.4). -/
def DirEntry.slot (e : DirEntry) : List Byte :=
  let l := e.label.getD { day := 0, month := 0, hour := 0, minute := 0 }
  bytes3 e.start ++ bytes3 (e.length.getD 0) ++ bytes3 (e.switchFrame.getD 0) ++
  [Byte.ofNat e.source,
   Byte.ofNat (originCode e.origin + (if e.firstSpeed = .two then 32 else 0) + (if e.network.isSome then 64 else 0)),
   Byte.ofNat (reasonCode e.endedBy + 16 * l.month)] ++
  bytes2 (e.network.getD 0) ++ bytes2 (l.day * 2048 + l.hour * 64 + l.minute)

/-- The five bytes of the recording start (section 13.4). -/
def DirEntry.startBytes (e : DirEntry) : List Byte :=
  match e.recordedAt with
  | none => [0, 0, 0, 0, 0]
  | some t => t.date.bytes ++ [Byte.ofNat t.hour, Byte.ofNat t.minute]

/-- Byte `i` (from 1) of a list, as a number. -/
def byteAt (l : List Byte) (i : Nat) : Nat := (l.getD (i - 1) 0).toNat

/-- The number in `n` bytes from byte `i` (from 1), high byte first. -/
def numAt (l : List Byte) (i n : Nat) : Nat := (List.range n).foldl (fun acc j => acc * 256 + byteAt l (i + j)) 0

/-- The entry a slot carries; its recording start is absent (R197). -/
def slotEntry (l : List Byte) : DirEntry :=
  let w := numAt l 15 2
  let day := w / 2048
  let month := byteAt l 12 / 16
  let org := byteAt l 11 % 32
  { start := numAt l 1 3, length := some (numAt l 4 3),
    firstSpeed := if (byteAt l 11).testBit 5 then .two else .one,
    switchFrame := if numAt l 7 3 = 0 then none else some (numAt l 7 3),
    source := byteAt l 10,
    network := if (byteAt l 11).testBit 6 then some (numAt l 13 2) else none,
    label := if day = 0 ∧ month = 0 then none
             else some { day := day, month := month, hour := w / 64 % 32, minute := w % 64 },
    recordedAt := none, origin := if org = 16 then none else some org,
    endedBy := reasonOfCode (byteAt l 12 % 16) }

/-- A slot's own soundness (R50, R197; for the label, log 19). -/
def slotSound (l : List Byte) : Bool :=
  let e := slotEntry l
  let day := numAt l 15 2 / 2048
  let month := byteAt l 12 / 16
  75 ≤ e.start ∧ 1 ≤ e.length.getD 0 ∧ e.stop ≤ frameLimit ∧
  (∀ w ∈ e.switchFrame, e.firstSpeed = .one ∧ e.start < w ∧ w < e.stop) ∧
  ¬ (byteAt l 11).testBit 7 ∧ byteAt l 11 % 32 ≤ 16 ∧ e.endedBy.isSome ∧
  month ≤ 12 ∧ (day = 0 ↔ month = 0)

/-- Strictly ascending starts, none ending after the next one starts (R50). -/
def inOrder : List DirEntry → Bool
  | e :: f :: rest => e.start < f.start && e.stop ≤ f.start && inOrder (f :: rest)
  | _ => true

/-- The sum, modulo 65,536, of the bytes of a copy other than its two check bytes (R48). -/
def copyCheck (copy : List Byte) : Nat := ((copy.take 14 ++ copy.drop 16).map BitVec.toNat).sum % 65536

/-- The fixed signature bytes (R48). -/
def signature : List Byte := [0x47, 0x4A, 0x44, 0x31]

/-- The slots of a copy, 1 to 24. -/
def copySlot (copy : List Byte) (j : Nat) : List Byte := (copy.drop (16 * j)).take 16

/-- What an accepted copy carries: its entries, header profile index and generation (R50, R52); `none` when the copy is
not accepted. -/
def judgeCopy (places : List (Option (List Byte))) : Option (List DirEntry × Nat × Nat) :=
  if places.all Option.isSome then
    let copy := (places.map fun f => f.getD []).flatten
    let header := copy.take 16
    let count := byteAt header 7
    let slots := (List.range count).map fun j => copySlot copy (j + 1)
    let entries := slots.map slotEntry
    if 3 ≤ ((List.range 4).filter fun i => header.getD i 0 = signature.getD i 0).length
        ∧ copyCheck copy = numAt header 15 2
        ∧ byteAt header 5 = 1 ∧ byteAt header 6 ≤ 7 ∧ count ≤ 24
        ∧ slots.all slotSound ∧ inOrder entries then
      some (entries, byteAt header 6, byteAt header 8)
    else none
  else none

/-- The copy (0 to 2) and place of a DIR line, by frame number, parity and line (R47); `none` in a place of no
fragment. -/
def fragmentPlace (frame : Nat) (p : Parity) (line : Nat) : Option (Nat × Nat) :=
  let sub := (if p = .first then 0 else 2) + (if line = 9 then 0 else 1)
  let inCopy (first : Nat) : Option Nat :=
    if first ≤ frame ∧ frame < first + 10 ∧ 4 * (frame - first) + sub < 25 then some (4 * (frame - first) + sub)
    else none
  match inCopy 10, inCopy 30, inCopy 50 with
  | some j, _, _ => some (0, j)
  | none, some j, _ => some (1, j)
  | none, none, some j => some (2, j)
  | none, none, none => none

/-! ### Reading (R49 to R52) -/

/-- DIR_READ is entered: the directory notes whether it is UNKNOWN, and then collects (R49). -/
def readBegins (s : State) : State :=
  let unknown : Bool := s.dir.state = .unknown
  s.setDir { s.dir with collecting := unknown, copies := if unknown then emptyCopies else s.dir.copies,
                        blankTest := none, blankTested := false }

/-- The start sensor goes inactive in DIR_READ: the 2 s blank test starts, once in a read (R49, R51). -/
def startBlankTest (s : State) : State :=
  if s.dir.blankTested then s else s.setDir { s.dir with blankTest := some 2000, blankTested := true }

/-- A DIR line of PLAY in DIR_READ is filed in its place, once the start sensor has gone inactive in this read (R49,
R75). -/
def fileLine (frame : Nat) (p : Parity) (line : Nat) (content : List Byte) (s : State) : State :=
  if s.dir.collecting ∧ s.dir.blankTested then
    match fragmentPlace frame p line with
    | none => s
    | some (c, j) => s.setDir { s.dir with copies := s.dir.copies.modify c fun places => places.set j (some content) }
  else s

/-- How a directory read ended (R52). -/
inductive ReadEnding where
  | passed | blank | cut
deriving DecidableEq, Repr

/-- The directory is read BLANK or DAMAGED: image empty, generation 0, the header index from the selection (R52). -/
def readEmpty (st : DirState) (s : State) : State :=
  s.setDir { s.dir.toUnknown with state := st, headerProfile := s.tcb.selected }

/-- The end of a directory read (R52). -/
def readEnds (ending : ReadEnding) (s : State) : State :=
  let quiet := s.setDir { s.dir with blankTest := none, collecting := false }
  match ending with
  | .cut => dirUnknown s
  | .blank => if s.dir.collecting then readEmpty .blank s else quiet
  | .passed =>
    if s.dir.collecting then
      match s.dir.copies.findSome? judgeCopy with
      | some (entries, p, g) =>
        selectProfile p (s.setDir { s.dir.toUnknown with state := .valid, image := entries, headerProfile := p, generation := g })
      | none =>
        if s.dir.copies.any (fun places => places.any Option.isSome) then readEmpty .damaged s else readEmpty .blank s
    else quiet

/-! ### Writing (R61) -/

/-- The 400 bytes of a copy: header, entry slots, unused slots zero, and the check (R48, R61). -/
def copyBytes (profile generation : Nat) (closed : List DirEntry) : List Byte :=
  let head := signature ++ [1, Byte.ofNat profile, Byte.ofNat closed.length, Byte.ofNat generation] ++ List.replicate 6 0
  let slots := padTo 384 (closed.map DirEntry.slot).flatten
  head ++ bytes2 (copyCheck (head ++ [0, 0] ++ slots)) ++ slots

/-- Writing begins: the write image is built, with the next generation (R61). -/
def buildWriteImage (s : State) : State :=
  s.setDir { s.dir with
    writeImage := some (copyBytes s.dir.headerProfile ((s.dir.generation + 1) % 256)
      (s.dir.image.filter fun e => ¬ e.isOpen))
    changed := false }

/-- The write is complete: the next generation, VALID, and the dirty flag clear unless a change was taken (R61). -/
def writeCompletes (s : State) : State :=
  s.setDir { s.dir with generation := (s.dir.generation + 1) % 256, state := .valid, dirty := s.dir.changed,
                        writeImage := none }

/-- The 21 bytes of an empty directory line (sections 3.2 and 13.2). -/
def emptyDirLine : List Byte := [3, 1, 0, 0, 0] ++ List.replicate 16 0

/-- The directory's answer for a line of a REC field while it writes: the fragment placed there, or an empty directory
line (R61, R74). -/
def dirLineFor (image : Option (List Byte)) (frame : Option Nat) (p : Parity) (line : Nat) : List Byte :=
  match image, frame with
  | some bytes, some n =>
    match fragmentPlace n p line with
    | some (_, j) => [3, 0, 0, 0, 0] ++ copySlot bytes j
    | none => emptyDirLine
  | _, _ => emptyDirLine

/-- The frame number of a field: the absolute position less 1 once its frame's pulse has been counted (R74, R75). -/
def State.frameNumber (s : State) : Option Nat := if s.tcb.absPos = 0 then none else some (s.tcb.absPos - 1)

/-- The summary of READ ENTRY 0 (section 13.6). -/
def dirSummary (d : Dir) : List Byte :=
  [Byte.ofNat d.state.code, Byte.ofNat d.image.length, Byte.ofNat ((openNumber d.image).getD 0),
   Byte.ofNat d.headerProfile, Byte.ofNat d.generation, flagByte d.dirty]

/-- The result of READ ENTRY k (section 13.6). -/
def entryResult (e : DirEntry) : List Byte := e.slot ++ e.startBytes ++ [flagByte e.isOpen]

end Sys2Proof.Machine
end

