-- ==== Sys2Proof/Machine/Operands.lean ====
section
/-! DEFINITION. Operand forms: the argument and record layouts of channels (R79), timer definitions (R136), profiles (R34),
the IR profile (R96) and options (R191), with their range checks, and the small argument forms of section 13.1. -/

namespace Sys2Proof.Machine

/-! ### Channels (R78, R79) -/

/-- The fields of a channel entry in the order of STAGE CHANNEL (R79). -/
def channelFields (c : Channel) : List Byte :=
  (match c.tuning with
   | .air frequency fine => 0 :: bytes2 frequency ++ [Byte.ofInt fine]
   | .ext keys => 1 :: Byte.ofNat keys.length :: keys) ++
  (match c.network with
   | none => [0]
   | some n => 1 :: bytes2 n) ++
  [Byte.ofNat (c.cueLine.getD 0), flagByte c.skip]

/-- A cue-line byte: 0 for absent (R79). -/
def cueLineOf (b : Byte) : Option Nat := if b = 0 then none else some b.toNat

/-- The fields after the tuning data: network id with its presence byte, cue line, skip flag (R79). -/
def parseChannelRest (t : ChannelTuning) : List Byte → Option Channel
  | [present, cue, skip] =>
    if readFlag present then none
    else some { tuning := t, network := none, cueLine := cueLineOf cue, skip := readFlag skip }
  | [present, high, low, cue, skip] =>
    if readFlag present then
      some { tuning := t, network := some (nat2 high low), cueLine := cueLineOf cue, skip := readFlag skip }
    else none
  | _ => none

/-- The staged entry of STAGE CHANNEL's arguments; `none` where R79 refuses RANGE. -/
def parseChannel : List Byte → Option Channel
  | source :: a :: rest =>
    if source = 0 then
      match rest with
      | b :: fine :: more => parseChannelRest (.air (nat2 a b) fine.toInt) more
      | _ => none
    else if source = 1 then
      if 1 ≤ a.toNat ∧ a.toNat ≤ 4 ∧ a.toNat ≤ rest.length then
        parseChannelRest (.ext (rest.take a.toNat)) (rest.drop a.toNat)
      else none
    else none
  | _ => none

/-- The range check of COMMIT CHANNEL (R80, order 3). -/
def Channel.inRange (c : Channel) : Bool :=
  (match c.tuning with
   | .air frequency fine => decide (900 ≤ frequency ∧ frequency ≤ 17200 ∧ -16 ≤ fine ∧ fine ≤ 15)
   | .ext _ => true) &&
  (match c.cueLine with
   | none => true
   | some l => decide (6 ≤ l ∧ l ≤ 22))

/-- Whether a channel is reached by the external box. -/
def Channel.isExt (c : Channel) : Bool :=
  match c.tuning with
  | .air _ _ => false
  | .ext _ => true

/-! ### Timer definitions (R135 to R137) -/

/-- A timer speed's byte (section 13.1). -/
def TimerSpeed.byte : TimerSpeed → Byte
  | .auto => 0 | .one => 1 | .two => 2

/-- A timer speed of a byte. -/
def timerSpeedOf (b : Byte) : Option TimerSpeed :=
  if b = 0 then some .auto else if b = 1 then some .one else if b = 2 then some .two else none

/-- The repeat kind and what follows it (R136). -/
def repeatFields : Repeat → List Byte
  | .once d => 0 :: d.bytes
  | .daily => [1]
  | .weekdays => [2]
  | .weekly w => [3, Byte.ofNat w]

/-- A timer definition in the order of STAGE TIMER (R136). -/
def timerFields (t : TimerDef) : List Byte :=
  [Byte.ofNat t.channel] ++ repeatFields t.rep ++
  [Byte.ofNat t.startHour, Byte.ofNat t.startMinute, Byte.ofNat t.stopHour, Byte.ofNat t.stopMinute, t.speed.byte] ++
  (match t.label with
   | none => [0]
   | some l => 1 :: labelBytes (some l))

/-- The label presence byte and the label (R136). -/
def parseLabel : List Byte → Option (Option Label)
  | [present] => if present = 0 then some none else none
  | [present, day, month, hour, minute] =>
    if present = 1 then
      some (some { day := day.toNat, month := month.toNat, hour := hour.toNat, minute := minute.toNat })
    else none
  | _ => none

/-- The fields after the repeat (R136). -/
def parseTimerRest (channel : Byte) (rep : Repeat) : List Byte → Option TimerDef
  | sh :: sm :: eh :: em :: speed :: rest =>
    match timerSpeedOf speed, parseLabel rest with
    | some sp, some label =>
      some { channel := channel.toNat, rep := rep, startHour := sh.toNat, startMinute := sm.toNat,
             stopHour := eh.toNat, stopMinute := em.toNat, speed := sp, label := label }
    | _, _ => none
  | _ => none

/-- The staged definition of STAGE TIMER's arguments; `none` where R136 refuses RANGE. -/
def parseTimer : List Byte → Option TimerDef
  | channel :: kind :: rest =>
    if kind = 0 then
      match rest with
      | d :: m :: y :: more =>
        parseTimerRest channel (.once { day := d.toNat, month := m.toNat, year := y.toNat }) more
      | _ => none
    else if kind = 1 then parseTimerRest channel .daily rest
    else if kind = 2 then parseTimerRest channel .weekdays rest
    else if kind = 3 then
      match rest with
      | w :: more => parseTimerRest channel (.weekly w.toNat) more
      | _ => none
    else none
  | _ => none

/-- The range of a repeat's date or day (R137, order 3). -/
def Repeat.inRange : Repeat → Bool
  | .once d => d.valid
  | .daily => true
  | .weekdays => true
  | .weekly w => w ≤ 6

/-- The range of a label (R137, order 3). -/
def Label.inRange (l : Label) : Bool :=
  1 ≤ l.day ∧ l.day ≤ 31 ∧ 1 ≤ l.month ∧ l.month ≤ 12 ∧ l.hour ≤ 23 ∧ l.minute ≤ 59

/-- The range check of COMMIT TIMER (R137, order 3). -/
def TimerDef.inRange (t : TimerDef) : Bool :=
  decide (t.channel ≤ 99) && timeValid t.startHour t.startMinute 0 && timeValid t.stopHour t.stopMinute 0 &&
  decide (¬ (t.startHour = t.stopHour ∧ t.startMinute = t.stopMinute)) && t.rep.inRange &&
  t.label.all Label.inRange

/-! ### Profiles (R33 to R36) -/

/-- The point slots of part `p`, 1 to 8: the first slot and their number (R34). -/
def partSlots (p : Nat) : Nat × Nat := if p = 1 then (0, 5) else (4 * p - 3, 4)

/-- Three-byte values. -/
def parsePoints : List Byte → List Nat
  | h :: m :: l :: rest => nat3 h m l :: parsePoints rest
  | _ => []

/-- Points as bytes. -/
def pointBytes (points : List Nat) : List Byte := (points.map bytes3).flatten

/-- The points of part `p` of a profile (R36). -/
def Profile.part (x : Profile) (p : Nat) : List Nat := (x.points.drop (partSlots p).1).take (partSlots p).2

/-- R[0] is at most 450,000 and the points do not increase (R35, order 2). -/
def pointsInRange (points : List Nat) : Bool :=
  decide (points.getD 0 0 ≤ 450000) &&
  (List.range (points.length - 1)).all fun k => decide (points.getD (k + 1) 0 ≤ points.getD k 0)

/-! ### IR profile (R96) -/

/-- The eleven bytes of LOAD IR PROFILE. -/
def irFields (p : IrProfile) : List Byte :=
  bytes2 p.carrier ++ [flagByte p.idleHigh] ++ p.durations.map Byte.ofNat

/-- The IR profile of eleven bytes; `none` where R96 refuses RANGE. -/
def parseIr : List Byte → Option IrProfile
  | ch :: cl :: pol :: durations =>
    if durations.length = 8 ∧ 300 ≤ nat2 ch cl ∧ nat2 ch cl ≤ 600 ∧ (pol = 0 ∨ pol = 1) ∧ (∀ d ∈ durations, d ≠ 0) then
      some { carrier := nat2 ch cl, idleHigh := pol = 1, durations := durations.map BitVec.toNat }
    else none
  | _ => none

/-- The duration of a key code in units of 0.1 ms (R97). -/
def keyDuration (p : IrProfile) (key : Byte) : Nat :=
  let d (i : Nat) : Nat := p.durations.getD i 0
  d 0 + d 1 + ((List.range 8).map fun i => if key.getLsbD i then d 2 + d 3 else d 4 + d 5).sum + d 6 + d 7

/-- The marks (`true`) and spaces (`false`) of a key code, in sending order, with their durations (R97). -/
def keySegments (p : IrProfile) (key : Byte) : List (Bool × Nat) :=
  let d (i : Nat) : Nat := p.durations.getD i 0
  [(true, d 0), (false, d 1)] ++
  ((List.range 8).map fun i => if key.getLsbD i then [(true, d 2), (false, d 3)] else [(true, d 4), (false, d 5)]).flatten ++
  [(true, d 6), (false, d 7)]

/-- The level of the IR line `n` nanoseconds into a mark, high as `true`: it alternates at the carrier frequency with equal
halves, the opposite of the idle level first (R97). The carrier is counted in 100 Hz, so a half lasts 5,000,000 / carrier
nanoseconds. -/
def IrProfile.markLevel (p : IrProfile) (n : Nat) : Bool :=
  if n * p.carrier / 5000000 % 2 = 0 then !p.idleHigh else p.idleHigh

/-- The level of the IR line `n` nanoseconds into a run of marks and spaces; a space and the time after the run hold the idle
level (R97). A duration is counted in 0.1 ms. -/
def IrProfile.levelIn (p : IrProfile) : List (Bool × Nat) → Nat → Bool
  | [], _ => p.idleHigh
  | (mark, d) :: rest, n =>
    if n < d * 100000 then (if mark then p.markLevel n else p.idleHigh) else p.levelIn rest (n - d * 100000)

/-- The level of the IR line `n` nanoseconds after a key code begins (R97). -/
def keyLevel (p : IrProfile) (key : Byte) (n : Nat) : Bool := p.levelIn (keySegments p key) n

/-! ### Options (R191) -/

/-- The seven values in the order of section 12.3. -/
def optionFields (o : Options) : List Byte :=
  [onOffByte o.autoRewind, onOffByte o.clockAutoSet, Byte.ofNat o.presenceThreshold, Byte.ofNat o.presenceRun,
   Byte.ofNat o.defaultCueLine, Byte.ofNat o.mainsLevel, Byte.ofNat o.defaultProfile]

/-- The options with option `i` of the table of section 12.3 at value `v`; `none` where R191 refuses RANGE. -/
def setOptionValue (o : Options) (i v : Nat) : Option Options :=
  match i with
  | 0 => if v ≤ 1 then some { o with autoRewind := v = 0 } else none
  | 1 => if v ≤ 1 then some { o with clockAutoSet := v = 0 } else none
  | 2 => if v ≤ 15 then some { o with presenceThreshold := v } else none
  | 3 => if 1 ≤ v ∧ v ≤ 4 then some { o with presenceRun := v } else none
  | 4 => if 6 ≤ v ∧ v ≤ 22 then some { o with defaultCueLine := v } else none
  | 5 => if v ≤ 3 then some { o with mainsLevel := v } else none
  | 6 => if v ≤ 7 then some { o with defaultProfile := v } else none
  | _ => none

/-- The options record of seven bytes; `none` where a value is out of its range. -/
def parseOptions (l : List Byte) : Option Options :=
  if l.length = 7 then
    (List.range 7).foldl (fun o i => o.bind fun x => setOptionValue x i (l.getD i 0).toNat) (some Options.default)
  else none

/-! ### Small argument forms (section 13.1) -/

/-- One byte. -/
def oneByte : List Byte → Option Nat
  | [b] => some b.toNat
  | _ => none

/-- An end action: 0 STOP, 1 PLAY. -/
def endActionOf (b : Byte) : Option EndAction := if b = 0 then some .stop else if b = 1 then some .play else none

/-- LOCATE: kind, signed 3-byte target, end action, in the ranges of the locate-target record (R10). -/
def parseLocate : List Byte → Option (LocateKind × Int × EndAction)
  | [kind, h, m, l, act] =>
    match endActionOf act with
    | none => none
    | some e =>
      let target := int3 h m l
      if kind = 0 ∧ -899999 ≤ target ∧ target ≤ 899999 then some (.counter, target, e)
      else if kind = 1 ∧ 0 ≤ target ∧ target ≤ 899999 then some (.absolute, target, e)
      else none
  | _ => none

/-- SEEK INDEX: a signed number of marks from −99 to +99, other than 0, and an end action (R10). -/
def parseSeekIndex : List Byte → Option (Int × EndAction)
  | [marks, act] =>
    match endActionOf act with
    | none => none
    | some e => if marks.toInt ≠ 0 ∧ -99 ≤ marks.toInt ∧ marks.toInt ≤ 99 then some (marks.toInt, e) else none
  | _ => none

/-- SEEK ENTRY: entry number and end action. -/
def parseSeekEntry : List Byte → Option (Nat × EndAction)
  | [k, act] => (endActionOf act).map fun e => (k.toNat, e)
  | _ => none

/-- PICTURE SEARCH: 0 forward, 1 back; what else the arguments may be is open (log 10). `some true` is back. -/
def parsePicture (args : List Byte) : Option Bool :=
  if args = [0] then some false else if args = [1] then some true else Config.pictureSearchArgs args

/-- SET CLOCK: six bytes of a real date and time (R130). -/
def parseClock : List Byte → Option DateTime
  | [d, m, y, h, n, sec] =>
    let t : DateTime :=
      { date := { day := d.toNat, month := m.toNat, year := y.toNat }, hour := h.toNat, minute := n.toNat, second := sec.toNat }
    if t.valid then some t else none
  | _ => none

/-- ACKNOWLEDGE: three mask bytes naming none but the 18 events (R184). -/
def parseMask : List Byte → Option (BitVec 18)
  | [a, b, c] => if c.toNat < 4 then some (BitVec.ofNat 18 (a.toNat + 256 * b.toNat + 65536 * c.toNat)) else none
  | _ => none

end Sys2Proof.Machine
end

