-- ==== Sys2Proof/Machine/Flags.lean ====
section
/-! DEFINITION. The indications the part shows: readiness of the blocks, the status line (R182, section 13.3) and the
presence and limit flags. -/

namespace Sys2Proof.Machine

/-- The code of a transport state (section 13.1). -/
def TState.code : TState → Nat
  | .empty => 0 | .loading => 1 | .dirRead => 2 | .stopped => 3 | .play => 4 | .playPause => 5 | .record => 6
  | .recordPause => 7 | .lockup => 8 | .windFwd => 9 | .windBack => 10 | .searchFwd => 11 | .searchBack => 12
  | .locate => 13 | .dirWrite => 14 | .unloading => 15 | .ejected => 16 | .dewHold => 17 | .fault => 18

/-- The code of an owner (section 13.1). -/
def Owner.code : Owner → Nat
  | .none => 0 | .record => 1 | .watch => 2 | .view => 3 | .search => 4

/-- The code of a clock status. -/
def ClockStatus.code : ClockStatus → Nat
  | .unset => 0 | .setManual => 1 | .setBroadcast => 2

/-- The code of a store result (section 13.1). -/
def StoreResult.code : StoreResult → Nat
  | .none => 0 | .pass => 1 | .fail => 2

/-- The code of an estimate status (R42). -/
def EstimateStatus.code : EstimateStatus → Nat
  | .none => 0 | .partly => 1 | .settled => 2

/-- The code of a power state; BACKUP is never sent (section 12.4). -/
def PowerState.code : PowerState → Nat
  | .on => 0 | .standby => 1 | .backup => 2

/-- The code of a session state within READ TIMER 16 (section 13.6). -/
def SessionState.code : SessionState → Nat
  | .starting => 0 | .active => 1 | .paused => 2 | .closing => 3

/-- The session state's byte in the status line: 0 for none (section 13.3). -/
def sessionCode : Option Session → Nat
  | none => 0
  | some x => x.state.code + 1

/-- A channel index, 255 for none (section 13.1). -/
def channelCode : Option Nat → Nat
  | none => 255
  | some c => c

/-- A byte of flags, the first of the list in bit 0. -/
def flagBits (l : List Bool) : Byte := Byte.ofNat (l.foldr (fun b acc => 2 * acc + (if b then 1 else 0)) 0)

/-- The cassette-present indication: the switch is not OPEN (R1). -/
def Pins.cassettePresent (p : Pins) : Bool := p.cassette ≠ .slotOpen

/-- The TRC reads not ready in these states (R5). -/
def Trc.notReady (t : Trc) : Bool :=
  match t.state with
  | .loading | .lockup | .dirWrite | .unloading | .dewHold | .fault => true
  | .empty | .dirRead | .stopped | .play | .playPause | .record | .recordPause | .windFwd | .windBack | .searchFwd
  | .searchBack | .locate | .ejected => false

/-- The search is running: RUNNING or SUSPENDED (section 6.1). -/
def Search.isRunning (x : Search) : Bool := x.state ≠ .idle

/-- The SCH reads not ready while a session is STARTING or CLOSING and during the cold-start store read (R148). -/
def State.schNotReady (s : State) : Bool :=
  s.starting || s.sch.session.any fun x => x.state = .starting || x.state = .closing

/-- The STO reads busy while a write is in flight or the store is read (R189). -/
def State.stoBusy (s : State) : Bool := s.sto.writing.isSome || s.starting

/-- A tuner's two flags: PRESENT and AFC limit (section 13.3). -/
def Tuner.flags (t : Tuner) : Byte := flagBits [t.present, t.afcLimit]

/-- Content bytes of STATUS part 1. -/
def statusPart1 (s : State) : List Byte :=
  [Byte.ofNat s.sto.power.code, Byte.ofNat s.trc.state.code,
   flagBits [s.trc.servoLocked, s.pins.cassettePresent, s.pins.tab = .tabOut, s.trc.endLatch, s.tcb.exact, s.tcb.blankFlag]] ++
  bytes3s s.tcb.relCounter ++ bytes3 s.tcb.absPos ++ bytes3 s.remaining ++
  [Byte.ofNat (estimateStatus s.tcb.history).code, Byte.ofNat s.dir.state.code, flagByte s.dir.dirty,
   Byte.ofNat (sessionCode s.sch.session)]

/-- The session origin's byte: 255 with no session (section 13.1). -/
def sessionOriginCode : Option Session → Nat
  | none => 255
  | some x => originCode x.origin

/-- Content bytes of STATUS part 2. -/
def statusPart2 (s : State) : List Byte :=
  [Byte.ofNat (sessionOriginCode s.sch.session), Byte.ofNat s.currentSpeed.toNat,
   Byte.ofNat s.tun.tunerA.owner.code, Byte.ofNat (channelCode s.tun.tunerA.channel), s.tun.tunerA.flags,
   Byte.ofNat s.tun.tunerB.owner.code, Byte.ofNat (channelCode s.tun.tunerB.channel), s.tun.tunerB.flags,
   Byte.ofNat s.tun.ext.owner.code, Byte.ofNat (channelCode s.tun.ext.channel)]

/-- Content bytes of STATUS part 3. -/
def statusPart3 (s : State) : List Byte :=
  s.clk.now.date.bytes ++
  [Byte.ofNat s.clk.dow, Byte.ofNat s.clk.now.hour, Byte.ofNat s.clk.now.minute, Byte.ofNat s.clk.now.second,
   Byte.ofNat s.clk.status.code]

/-- Content bytes of STATUS part 4. -/
def statusPart4 (s : State) : List Byte :=
  [flagBits [s.trc.notReady, s.tun.search.isRunning, s.schNotReady, s.stoBusy],
   Byte.ofNat s.sto.current.code, Byte.ofNat s.sto.previous.code, Byte.ofNat s.clu.inFlight.length,
   Byte.ofNat s.clu.freePlaces] ++ maskBytes s.clu.sticky

/-- One STATUS line: kind 6, its part number, and 16 content bytes with zero in the unused ones (R196). -/
def statusLine (part : Nat) (content : List Byte) : List Byte :=
  [6, Byte.ofNat part, 0, 0, 0] ++ padTo 16 content

/-- The four STATUS lines (R182). -/
def statusLines (s : State) : List (List Byte) :=
  [statusLine 1 (statusPart1 s), statusLine 2 (statusPart2 s), statusLine 3 (statusPart3 s), statusLine 4 (statusPart4 s)]

/-! ### Replies (R181, R196) -/

/-- The code of a reply outcome: its place in the list of section 4 of the introduction. -/
def ReplyOutcome.code : ReplyOutcome → Nat
  | .done => 0 | .started => 1 | .refused => 2 | .failed => 3 | .aborted => 4 | .superseded => 5 | .preempted => 6
  | .cancelled => 7

/-- The code of a reason: NONE is 0, BUSY to INCOMPLETE are 1 to 19 (section 13.1). -/
def Reason.code : Reason → Nat
  | .none => 0 | .busy => 1 | .state => 2 | .range => 3 | .full => 4 | .noCassette => 5 | .writeProtected => 6
  | .dew => 7 | .tunerBusy => 8 | .referenced => 9 | .running => 10 | .unsetClock => 11 | .notOn => 12
  | .starting => 13 | .lock => 14 | .notReached => 15 | .stall => 16 | .fault => 17 | .unreadable => 18 | .incomplete => 19

/-- The check byte of a reply: the sum with it is 0 modulo 256 (R196). -/
def Reply.check (r : Reply) : Byte :=
  0 - sumBytes ([r.tag, Byte.ofNat r.code, Byte.ofNat r.outcome.code, Byte.ofNat r.reason.code, Byte.ofNat r.result.length] ++ r.result)

/-- The REPLY line of a reply, and its continuation when the result is longer than 14 bytes (R196). -/
def Reply.lines (r : Reply) : List (List Byte) :=
  let first := [7, r.tag, Byte.ofNat r.code, Byte.ofNat r.outcome.code, Byte.ofNat r.reason.code,
                Byte.ofNat r.result.length, r.check] ++ padTo 14 (r.result.take 14)
  if r.result.length ≤ 14 then [first] else [first, [8, 0, 0, 0, 0] ++ padTo 16 (r.result.drop 14)]

end Sys2Proof.Machine
end

