-- ==== Sys2Proof/Machine/Store.lean ====
section
/-! DEFINITION. The settings store (R188 to R190, R195, R198): record framing, the pending-write set, the write in
flight, and the loading of records at cold start. -/

namespace Sys2Proof.Machine

/-! ### Record framing (section 13.5) -/

/-- The kind byte of a record. -/
def RecordName.kind : RecordName → Nat
  | .channel _ => 0 | .timer _ => 1 | .profile _ => 2 | .irProfile => 3 | .options => 4

/-- The index byte of a record. -/
def RecordName.index : RecordName → Nat
  | .channel i => i | .timer i => i | .profile i => i | .irProfile => 0 | .options => 0

/-- The content of a profile record; an EMPTY record carries its state byte alone. -/
def profileContent (p : Profile) : List Byte :=
  if p.valid then 1 :: Byte.ofNat p.code :: pointBytes p.points else [0]

/-- The content the owner of a record holds (R188). -/
def recordContent (s : State) : RecordName → List Byte
  | .channel i => match s.channel i with
    | none => [0]
    | some c => 1 :: channelFields c
  | .timer i => match (s.timer i).defn with
    | none => [0]
    | some t => 1 :: timerFields t
  | .profile i => profileContent (s.profile i)
  | .irProfile => irFields s.tun.irProfile
  | .options => optionFields s.sto.options

/-- A record: kind, index, content length, content, and the check that makes the sum 0 (R198). -/
def frameRecord (name : RecordName) (content : List Byte) : List Byte :=
  let body := [Byte.ofNat name.kind, Byte.ofNat name.index, Byte.ofNat content.length] ++ content
  body ++ [0 - sumBytes body]

/-- The content of a record read from the place of `name`; `none` when kind, index, length or sum fail (R198). -/
def unframeRecord (name : RecordName) : List Byte → Option (List Byte)
  | k :: i :: n :: rest =>
    if k = Byte.ofNat name.kind ∧ i = Byte.ofNat name.index ∧ rest.length = n.toNat + 1
        ∧ sumBytes (k :: i :: n :: rest) = 0 then some (rest.take n.toNat)
    else none
  | _ => none

/-! ### The pending-write set (R189) -/

/-- A write begins when none is in flight, the supply is good and the cold-start read is over: the name at the head
leaves the set, and the content is taken from its owner now (R188, R189). -/
def startWrite (s : State) : State :=
  if s.asleep || s.starting || s.sto.writing.isSome then s
  else
    match s.sto.pendingWrites with
    | [] => s
    | name :: rest =>
      s.setSto { s.sto with pendingWrites := rest, writing := some (name, frameRecord name (recordContent s name)) }

/-- An owner marks a record: its name is appended unless it is in the set already (R189). -/
def markRecord (name : RecordName) (s : State) : State :=
  startWrite
    (if name ∈ s.sto.pendingWrites then s
     else s.setSto { s.sto with pendingWrites := s.sto.pendingWrites ++ [name] })

/-- A write ends: the current result becomes the previous one, the write in flight none, and the next write starts
(R190). -/
def writeEnds (result : StoreResult) (s : State) : State :=
  startWrite (s.setSto { s.sto with previous := s.sto.current, current := result, writing := none })

/-- The write in flight is abandoned: its name goes back to the head of the set, with no result (R193). -/
def abandonWrite (s : State) : State :=
  match s.sto.writing with
  | none => s
  | some (name, _) =>
    s.setSto { s.sto with writing := none, pendingWrites := name :: s.sto.pendingWrites.filter (· ≠ name) }

/-! ### The cold-start read (R195) -/

/-- The record at place `i` of the read: options, IR profile, profiles, channels, timer definitions (R195). -/
def recordAt (i : Nat) : RecordName :=
  if i = 0 then .options else if i = 1 then .irProfile else if i < 10 then .profile (i - 2)
  else if i < 110 then .channel (i - 10) else .timer (i - 110)

/-- The profile of a record's content, with the range check of COMMIT PROFILE (R188); the EMPTY record is its state
byte alone. -/
def parseProfile : List Byte → Option Profile
  | [state] => if state = 0 then some Profile.empty else none
  | state :: code :: points =>
    if state = 1 ∧ points.length = 99 ∧ pointsInRange (parsePoints points) then
      some { valid := true, code := code.toNat, points := parsePoints points }
    else none
  | _ => none

/-- The channel entry of a record's content, with the range check of COMMIT CHANNEL (R188). -/
def parseChannelRecord : List Byte → Option (Option Channel)
  | [state] => if state = 0 then some none else none
  | state :: fields =>
    if state = 1 then
      match parseChannel fields with
      | some c => if c.inRange then some (some c) else none
      | none => none
    else none
  | _ => none

/-- The definition of a timer record's content, with the range check of COMMIT TIMER, rows 1 to 3 (R188). -/
def parseTimerRecord : List Byte → Option (Option TimerDef)
  | [state] => if state = 0 then some none else none
  | state :: fields =>
    if state = 1 then
      match parseTimer fields with
      | some t => if t.inRange then some (some t) else none
      | none => none
    else none
  | _ => none

/-- Replaces a channel entry. -/
def setChannel (i : Nat) (c : Option Channel) (s : State) : State :=
  s.setTun { s.tun with channels := s.tun.channels.set i c }

/-- Replaces a profile. -/
def setProfileEntry (i : Nat) (p : Profile) (s : State) : State :=
  s.setTcb { s.tcb with profiles := s.tcb.profiles.set i p }

/-- The options are loaded: the clock takes its copy of auto-set, which reads off until then, and the loaded default profile is
selected (R131, R134, R195). Time cues are ignored to the end of the read all the same (`timeCue`). The mains sense is not
compared with a loaded level (R191, R193, log 33). -/
def loadOptions (o : Options) (s : State) : State :=
  let s1 := s.setSto { s.sto with options := o }
  selectProfile o.defaultProfile (s1.setClk { s1.clk with autoSet := o.clockAutoSet })

/-- The channel a loaded timer definition names is EMPTY, or EXT under a label (R195). -/
def timerChannelFails (s : State) (t : TimerDef) : Bool :=
  match s.channel t.channel with
  | none => true
  | some c => t.label.isSome && c.isExt

/-- A timer definition is loaded ARMED with its outcome absent, or EMPTY (R159, R195). -/
def loadTimer (i : Nat) (t : Option TimerDef) (s : State) : State :=
  match t with
  | none => modTimer i (fun _ => TimerEntry.empty) s
  | some d =>
    if timerChannelFails s d then markRecord (.timer i) (modTimer i (fun _ => TimerEntry.empty) s)
    else modTimer i (fun _ => { TimerEntry.empty with state := .armed, defn := some d }) s

/-- A record that passed its framing is loaded; `none` when its content fails the checks of R188. -/
def loadContent (name : RecordName) (content : List Byte) (s : State) : Option State :=
  match name with
  | .options => (parseOptions content).map fun o => loadOptions o s
  | .irProfile => (parseIr content).map fun p => s.setTun { s.tun with irProfile := p }
  | .profile i => (parseProfile content).map fun p => setProfileEntry i p s
  | .channel i => (parseChannelRecord content).map fun c => setChannel i c s
  | .timer i => (parseTimerRecord content).map fun t => loadTimer i t s

/-- What a record that failed is loaded as (the table of R195). -/
def loadDefault (name : RecordName) (s : State) : State :=
  match name with
  | .options => loadOptions Options.default s
  | .irProfile => s.setTun { s.tun with irProfile := IrProfile.default }
  | .profile i => setProfileEntry i Profile.empty s
  | .channel i => setChannel i none s
  | .timer i => loadTimer i none s

/-- The record read from the place of `name` is loaded, or defaulted with STORE_CHECK (R195). -/
def loadRecord (name : RecordName) (bytes : Option (List Byte)) (s : State) : State :=
  match bytes.bind (unframeRecord name) |>.bind fun content => loadContent name content s with
  | some t => t
  | none => raise .storeCheck (loadDefault name s)

/-- One read ends; after the last the validity mark is set, STARTING ends and pending writes begin (R195). -/
def readDone (i : Nat) (bytes : Option (List Byte)) (s : State) : State :=
  let s1 := loadRecord (recordAt i) bytes s
  if i < 125 then s1.setSto { s1.sto with reading := some (i + 1) }
  else startWrite (s1.setSto { s1.sto with reading := none, validity := true })

end Sys2Proof.Machine
end

