-- ==== Sys2Proof/Machine/Tuning.lean ====
section
/-! DEFINITION. The tuning controller's operations (chapter 5): tunes, words, clearing, owners and releases, the external
box and its keys, and with them the channel search's own steps (chapter 6). -/

namespace Sys2Proof.Machine

/-! ### Records of a tuner -/

/-- A tuner's record. -/
def State.tuner (s : State) : TunerId → Tuner
  | .a => s.tun.tunerA
  | .b => s.tun.tunerB

/-- Replaces a tuner's record. -/
def setTuner (x : TunerId) (r : Tuner) (s : State) : State :=
  match x with
  | .a => s.setTun { s.tun with tunerA := r }
  | .b => s.setTun { s.tun with tunerB := r }

/-- A tuner's settling record in the line port (R70). -/
def State.settling (s : State) : TunerId → Settling
  | .a => s.lpt.settlingA
  | .b => s.lpt.settlingB

/-- Replaces a tuner's settling record. -/
def setSettling (x : TunerId) (v : Settling) (s : State) : State :=
  match x with
  | .a => s.setLpt { s.lpt with settlingA := v }
  | .b => s.setLpt { s.lpt with settlingB := v }

/-- A tuner's cue line in the line port (R69). -/
def State.cueLine (s : State) : TunerId → Option Nat
  | .a => s.lpt.cueLineA
  | .b => s.lpt.cueLineB

/-- Replaces a tuner's cue line. -/
def setCueLine (x : TunerId) (l : Option Nat) (s : State) : State :=
  match x with
  | .a => s.setLpt { s.lpt with cueLineA := l }
  | .b => s.setLpt { s.lpt with cueLineB := l }

/-- A tuner's cue record. -/
def State.cueRecord (s : State) : TunerId → CueRecord
  | .a => s.cue.a
  | .b => s.cue.b

/-- Replaces a tuner's cue record. -/
def setCueRecord (x : TunerId) (r : CueRecord) (s : State) : State :=
  match x with
  | .a => s.setCue { s.cue with a := r }
  | .b => s.setCue { s.cue with b := r }

/-- The synthesizer word last sent to a tuner. -/
def State.word (s : State) : TunerId → Option SynthWord
  | .a => s.tun.wordA
  | .b => s.tun.wordB

/-! ### Words (R84, R85) -/

/-- The band of a tuned frequency (R84). -/
def bandOf (frequency : Nat) : Band := if frequency ≤ 3399 then .low else if frequency ≤ 8999 then .mid else .high

/-- The synthesizer word of a tuned tuner (R84). -/
def Tuner.synthWord (t : Tuner) : Option SynthWord :=
  t.frequency.map fun f => { band := bandOf f, n := (f : Int) + 778 + t.fine + t.afc }

/-- A settling notice: TUNE settling is kept through a TRIM notice (R70). -/
def settlingNotice (x : TunerId) (kind : Settling) (s : State) : State :=
  if s.settling x = .tune then s else setSettling x kind s

/-- Records a word sent to a tuner. -/
def setWord (x : TunerId) (w : Option SynthWord) (s : State) : State :=
  match x with
  | .a => s.setTun { s.tun with wordA := w }
  | .b => s.setTun { s.tun with wordB := w }

/-- A word is sent: the settle count is set to 8 and the line port takes a settling notice (R85). -/
def sendWord (x : TunerId) (kind : Settling) (s : State) : State :=
  settlingNotice x kind
    (setWord x (s.tuner x).synthWord (setTuner x { s.tuner x with settle := 8 } s))

/-! ### Tuning and clearing (R82, R83) -/

/-- The tuned notice to cue capture (R112). -/
def tunedNotice (x : TunerId) (channel : Option Nat) (s : State) : State :=
  setCueRecord x { CueRecord.untuned with tuning := some channel } s

/-- A tune of tuner `x` for an owner (R83). -/
def tune (x : TunerId) (owner : Owner) (channel : Option Nat) (frequency : Nat) (fine : Int) (line : Nat)
    (s : State) : State :=
  tunedNotice x channel
    (setCueLine x (some line)
      (sendWord x .tune
        (setTuner x { Tuner.cleared with owner := owner, channel := channel, frequency := some frequency, fine := fine,
                                         cueLine := some line } s)))

/-- A tune to a channel of the table; for an entry that is no AIR entry the frequency and fine offset are free values, and
the cue line is that of the entry, where it has one (R83; log 13). -/
def tuneChannel (x : TunerId) (owner : Owner) (c : Nat) (s : State) : State :=
  let line : Nat := ((s.channel c).bind Channel.cueLine).getD s.sto.options.defaultCueLine
  match (s.channel c).map Channel.tuning with
  | some (.air frequency fine) => tune x owner (some c) frequency fine line s
  | _ => tune x owner (some c) (900 + (Config.untabledFrequency c).val) ((Config.untabledFine c).val - 16 : Int) line s

/-- The tuner record is cleared, with its cue line, settling record and cue record (R82, R112). -/
def clearTuner (x : TunerId) (s : State) : State :=
  setCueRecord x CueRecord.untuned (setSettling x .none (setCueLine x none (setTuner x Tuner.cleared s)))

/-! ### The search's hold on tuner B (R103) -/

/-- Changes the search record. -/
def modSearch (f : Search → Search) (s : State) : State := s.setTun { s.tun with search := f s.tun.search }

/-- A search tune of tuner B to the current frequency (R83, R103). -/
def searchTune (s : State) : State :=
  tune .b .search none s.tun.search.frequency 0 s.sto.options.defaultCueLine s

/-- The search takes tuner B: its recorded phase starts from the beginning (R103). -/
def searchTakesB (s : State) : State :=
  searchTune (modSearch (fun r => { r with state := .running, count := 0, network := none }) s)

/-- A search holding tuner B is suspended (R103). -/
def suspendSearch (s : State) : State :=
  if s.tun.search.state = .running then
    modSearch (fun r => { r with state := .suspended, count := 0, network := none }) s
  else s

/-- Tuner B is released: a suspended search takes it, else it is cleared (R90). -/
def releaseB (s : State) : State :=
  if s.tun.search.state = .suspended then searchTakesB s else clearTuner .b s

/-! ### The external box (R98) -/

/-- The key list of a channel; a free value for an entry that is no EXT entry (log 13). -/
def keysOf (c : Nat) (s : State) : Byte × List Byte :=
  match (s.channel c).map Channel.tuning with
  | some (.ext (k :: ks)) => (k, ks)
  | _ => Config.untabledKeys c

/-- The key list of a grant: sent at once, or waiting with the list being sent cut after its current key (R98). -/
def sendKeys (owner : Owner) (keys : Byte × List Byte) (s : State) : State :=
  match s.tun.ext.sending with
  | none =>
    s.setTun { s.tun with ext := { s.tun.ext with
      sending := some { key := keys.1, profile := s.tun.irProfile, rest := keys.2, sentFor := owner, cut := false } } }
  | some l =>
    s.setTun { s.tun with ext := { s.tun.ext with
      sending := some { l with cut := true }, waiting := some (keys.1, keys.2, owner) } }

/-- The box is granted for a channel, and the channel's keys are sent (R93, R94, R98). -/
def grantExt (owner : Owner) (c : Nat) (s : State) : State :=
  sendKeys owner (keysOf c s)
    (s.setTun { s.tun with ext := { s.tun.ext with owner := owner, channel := some c } })

/-- The box is released: the list being sent is cut after its current key, a waiting list is discarded (R98). -/
def releaseExt (s : State) : State :=
  s.setTun { s.tun with ext := { s.tun.ext with
    owner := .none, channel := none, sending := s.tun.ext.sending.map fun l => { l with cut := true }, waiting := none } }

/-- The key in progress ends with its gap (R98): the next key, the waiting list, or IDLE follows. -/
def keyEnds (s : State) : State :=
  match s.tun.ext.sending with
  | none => s
  | some l =>
    match l.cut, l.rest with
    | false, k :: ks =>
      s.setTun { s.tun with ext := { s.tun.ext with
        sending := some { l with key := k, rest := ks, profile := s.tun.irProfile } } }
    | _, _ =>
      match s.tun.ext.waiting with
      | none => s.setTun { s.tun with ext := { s.tun.ext with sending := none } }
      | some (k, ks, owner) =>
        s.setTun { s.tun with ext := { s.tun.ext with
          sending := some { key := k, profile := s.tun.irProfile, rest := ks, sentFor := owner, cut := false },
          waiting := none } }

/-- The IR line `n` nanoseconds after the key in progress began, high as `true`; with none being sent it holds its idle level
(R97, R98). -/
def State.irLine (s : State) (n : Nat) : Bool :=
  match s.tun.ext.sending with
  | none => s.tun.irProfile.idleHigh
  | some l => keyLevel l.profile l.key n

/-- The key in progress is the last of a list sent whole for RECORD: its end is reported to the scheduler (R98). -/
def State.irDoneDue (s : State) : Bool :=
  s.tun.ext.sending.any fun l => !l.cut && l.rest.isEmpty && decide (l.sentFor = .record)

/-! ### The view (R90 to R95, R99) -/

/-- The view record changes, and the line port takes the view source (section 5.7). -/
def setView (v : Option (Nat × ViewSource)) (s : State) : State :=
  let s1 := s.setTun { s.tun with view := v }
  s1.setLpt { s1.lpt with viewSource := v.map Prod.snd }

/-- A source is released by the view (R90). -/
def releaseSource (v : ViewSource) (s : State) : State :=
  match v with
  | .tunerA => clearTuner .a s
  | .tunerB => releaseB s
  | .external => releaseExt s

/-- The view and its source are released (R91 NONE, R99). -/
def releaseView (s : State) : State :=
  match s.tun.view with
  | none => s
  | some (_, v) => setView none (releaseSource v s)

/-- The view is dropped: none, with VIEW_LOST (R93 to R95). -/
def dropView (s : State) : State := raise .viewLost (setView none s)

/-- The source a VIEW of channel `c` would be granted; `none` is TUNER_BUSY (R92, R93). -/
def viewTarget (c : Nat) (s : State) : Option ViewSource :=
  if (s.channel c).any Channel.isExt then
    if s.tun.ext.owner = .record then none else some .external
  else if s.tun.tunerA.owner = .none ∨ s.tun.tunerA.owner = .view then some .tunerA
  else if s.tun.tunerB.owner = .watch then none
  else some .tunerB

/-- The view takes a source for channel `c` (R92, R93): a search on B is suspended, the new source is tuned or keyed,
and the source the view leaves is released. -/
def takeView (c : Nat) (v : ViewSource) (s : State) : State :=
  let old := s.tun.view.map Prod.snd
  let s1 := match v with
    | .tunerA => tuneChannel .a .view c s
    | .tunerB => tuneChannel .b .view c (suspendSearch s)
    | .external => grantExt .view c s
  let s2 := match old with
    | none => s1
    | some w => if w = v then s1 else releaseSource w s1
  setView (some (c, v)) s2

/-- A view on tuner A gives way to RECORD: it moves to tuner B, or is dropped when WATCH holds B (R94). -/
def displaceViewFromA (s : State) : State :=
  match s.tun.view with
  | some (v, .tunerA) =>
    if s.tun.tunerB.owner = .watch then dropView s
    else setView (some (v, .tunerB)) (tuneChannel .b .view v (suspendSearch s))
  | _ => s

/-- RECORD takes the source of a session's channel (R94). -/
def grantRecord (kind : SourceKind) (c : Nat) (s : State) : State :=
  match kind with
  | .air => tuneChannel .a .record c (displaceViewFromA s)
  | .ext =>
    let displaced : Bool := s.tun.ext.owner = .view
    grantExt .record c (if displaced then dropView s else s)

/-- RECORD releases the session's source; an unowned source changes nothing (R94, R101). -/
def releaseRecord (kind : SourceKind) (s : State) : State :=
  match kind with
  | .air => if s.tun.tunerA.owner = .record then clearTuner .a s else s
  | .ext => if s.tun.ext.owner = .record then releaseExt s else s

/-- WATCH takes tuner B for channel `c` (R95). -/
def grantWatch (c : Nat) (s : State) : State :=
  match s.tun.tunerB.owner with
  | .watch => if s.tun.tunerB.channel = some c then s else tuneChannel .b .watch c s
  | .search => tuneChannel .b .watch c (suspendSearch s)
  | .view =>
    let s1 :=
      match s.tun.view with
      | none => s
      | some (v, _) =>
        if s.tun.tunerA.owner = .none then setView (some (v, .tunerA)) (tuneChannel .a .view v s) else dropView s
    tuneChannel .b .watch c s1
  | .none => tuneChannel .b .watch c s
  | .record => tuneChannel .b .watch c s

/-- WATCH releases tuner B (R95). -/
def releaseWatch (s : State) : State := if s.tun.tunerB.owner = .watch then releaseB s else s

/-! ### The channel search (chapter 6) -/

/-- The search ends with a result: IDLE, B released if it owned it, SEARCH_END (R109). -/
def endSearch (result : SearchResult) (s : State) : State :=
  let owned : Bool := s.tun.search.state = .running
  let s1 := modSearch (fun r => { r with state := .idle, result := result, count := 0, network := none }) s
  raise .searchEnd (if owned then clearTuner .b s1 else s1)

/-- The current frequency is raised by `n` and STEP begins there, or the search ends DONE (R104 to R108). -/
def raiseFrequency (n : Nat) (s : State) : State :=
  if 17200 < s.tun.search.frequency + n then endSearch .done s
  else
    searchTune (modSearch (fun r =>
      { r with frequency := r.frequency + n, phase := .step, count := 0, network := none }) s)

/-- The carrier is passed over (R105 to R107); STEP without a carrier raises by the same 5 (R104). -/
def passOver (s : State) : State := raiseFrequency 5 s

/-- CONFIRM begins: the presence detector ABSENT with both runs 0, the count 0 (R105). -/
def enterConfirm (s : State) : State :=
  modSearch (fun r => { r with phase := .confirm, count := 0 })
    (setTuner .b { s.tun.tunerB with present := false, strongRun := 0, weakRun := 0 } s)

/-- TRIM begins (R106). -/
def enterTrim (s : State) : State := modSearch (fun r => { r with phase := .trim, count := 0 }) s

/-- A VALID entry holds this network id (R108). -/
def State.holdsNetwork (s : State) (n : Nat) : Bool := s.tun.channels.any fun c => c.any fun e => e.network = some n

/-- The end of NAME: an addition, a duplicate, or FULL (R108). The count of additions goes on beyond 100 where entries
are cleared meanwhile (log 78). -/
def searchAddition (s : State) : State :=
  let id := s.tun.search.network
  if id.any s.holdsNetwork then raiseFrequency 140 s
  else
    match s.tun.channels.findIdx? Option.isNone with
    | none => endSearch .full s
    | some k =>
      let entry : Channel :=
        { tuning := .air s.tun.search.frequency 0, network := id, cueLine := none, skip := false }
      raiseFrequency 140
        (modSearch (fun r => { r with added := r.added + 1 }) (markRecord (.channel k) (setChannel k (some entry) s)))

/-- The search takes a network id in NAME and NAME ends (R107). -/
def nameFound (n : Nat) (s : State) : State := searchAddition (modSearch (fun r => { r with network := some n }) s)

/-- NAME begins: a cue already current for tuner B ends it at once (R107). -/
def enterName (s : State) : State :=
  let s1 := modSearch (fun r => { r with phase := .name, count := 0, network := none }) s
  match s1.cue.b.current with
  | some cue => nameFound cue.network s1
  | none => s1

/-- The end of TRIM with a carrier: the AFC offset is folded into the frequency (R106). -/
def foldTrim (s : State) : State :=
  let t := s.tun.tunerB
  let folded : Int := s.tun.search.frequency + t.afc
  if 900 ≤ folded ∧ folded ≤ 17200 then
    let f := folded.toNat
    let s1 := modSearch (fun r => { r with frequency := f })
      (setTuner .b { t with frequency := some f, afc := 0 } s)
    enterName (if bandOf f = bandOf s.tun.search.frequency then s1 else sendWord .b .trim s1)
  else passOver s

/-- The limit of the phase, if its count has reached it (R104 to R107). -/
def phaseLimit : SearchPhase → Nat
  | .step => 6 | .confirm => 25 | .trim => 40 | .name => 100

/-- What the count of a phase at its limit does (R104 to R107). -/
def searchLimit (s : State) : State :=
  match s.tun.search.phase with
  | .step => passOver s
  | .confirm => passOver s
  | .trim => foldTrim s
  | .name => searchAddition s

/-- The count of the phase stands at its limit while the search runs. -/
def State.searchLimitDue (s : State) (p : SearchPhase) : Bool :=
  s.tun.search.state = .running ∧ s.tun.search.phase = p ∧ phaseLimit p ≤ s.tun.search.count

/-! ### Field headers at the tuning controller (R85 to R88) -/

/-- The presence detector takes one unmarked header of a strong or a weak field (R88, R89). -/
def Tuner.presence (t : Tuner) (k : Nat) (strong : Bool) : Tuner :=
  if strong then
    let run := if t.strongRun < k then t.strongRun + 1 else t.strongRun
    { t with strongRun := run, weakRun := 0, present := t.present || k ≤ run }
  else
    let run := if t.weakRun < 25 then t.weakRun + 1 else t.weakRun
    { t with strongRun := 0, weakRun := run, present := t.present && run < 25 }

/-- The AFC loop runs for this tuner (R86). -/
def State.afcRuns (s : State) (x : TunerId) : Bool :=
  match (s.tuner x).owner with
  | .record | .watch | .view => true
  | .search => s.tun.search.phase = .trim
  | .none => false

/-- The average of eight readings, truncated toward zero (R87). -/
def afcAverage (readings : List Int) : Int := readings.sum.tdiv 8

/-- What an evaluation does to the offset: the new offset, and the limit indication (R87). -/
def afcEvaluate (afc avg : Int) : Int × Bool :=
  if 16 < avg then (if -24 < afc then (afc - 1, false) else (afc, true))
  else if avg < -16 then (if afc < 24 then (afc + 1, false) else (afc, true))
  else (afc, false)

/-- A reading joins the history; the eighth is evaluated, and a moved offset sends a word with TRIM settling (R86, R87).
The second component is the average, when an evaluation took place. -/
def takeReading (x : TunerId) (reading : Int) (s : State) : State × Option Int :=
  let t := s.tuner x
  let history := t.afcHistory ++ [reading]
  if history.length < 8 then (setTuner x { t with afcHistory := history } s, none)
  else
    let avg := afcAverage history
    let moved := afcEvaluate t.afc avg
    let s1 := setTuner x { t with afcHistory := [], afc := moved.1, afcLimit := moved.2 } s
    (if moved.1 = t.afc then s1 else sendWord x .trim s1, some avg)

/-- A settling header lowers the settle count; at 0 the line port is told the tuner has settled (R85). The second
component tells that the source of a session has settled from its tune (R94). -/
def settleExpires (x : TunerId) (s : State) : State × Bool :=
  (setSettling x .none s, decide (s.settling x = .tune) && decide ((s.tuner x).owner = .record))

/-- A header that arrives marked settling (R85). -/
def settlingHeader (x : TunerId) (s : State) : State × Bool :=
  let t := s.tuner x
  let s1 := setTuner x { t with settle := t.settle - 1 } s
  if t.settle ≤ 1 then settleExpires x s1 else (s1, false)

/-- An unmarked header at the presence detector and the AFC loop, which takes no reading from a weak field (R86, R88). -/
def unmarkedHeader (x : TunerId) (strong : Bool) (afc : Int) (s : State) : State × Option Int :=
  let s1 := setTuner x ((s.tuner x).presence s.sto.options.presenceRun strong) s
  if s.afcRuns x && strong then takeReading x afc s1 else (s1, none)

/-- What an unmarked header of TB brings to the running search besides its count (R104 to R107): the detector's change
and TRIM's evaluation. -/
def searchReacts (wasPresent : Bool) (evaluated : Option Int) (s : State) : State :=
  let present := s.tun.tunerB.present
  match s.tun.search.phase with
  | .step => if present then enterConfirm s else s
  | .confirm => if present then enterTrim s else s
  | .trim =>
    if wasPresent && !present then passOver s
    else if evaluated.any fun a => decide (-16 ≤ a ∧ a ≤ 16) then foldTrim s
    else s
  | .name => if wasPresent && !present then passOver s else s

/-- One more header counted in the phase (R104 to R107). -/
def countHeader (s : State) : State := modSearch (fun r => { r with count := r.count + 1 }) s

/-- The phase, frequency and state of the search are as they were: nothing ended the phase. -/
def sameStretch (s t : State) : Bool :=
  t.tun.search.state = s.tun.search.state ∧ t.tun.search.phase = s.tun.search.phase ∧
  t.tun.search.frequency = s.tun.search.frequency

/-- An unmarked header of TB while the search runs. The last header counted in TRIM or NAME may be taken before or after
what the same header brings to the detector and the loop (R106, R107; log 9). -/
def searchHeader (strong : Bool) (afc : Int) (s : State) : State :=
  let counted := countHeader s
  let limit := counted.searchLimitDue s.tun.search.phase
  let wasPresent := s.tun.tunerB.present
  let twoOrders : Bool := s.tun.search.phase = .trim ∨ s.tun.search.phase = .name
  if limit && twoOrders && Config.limitFirst s.choices then
    let after := (searchLimit counted).choose
    if after.tun.search.state = .running ∧ after.tun.search.phase = .name then
      let r := unmarkedHeader .b strong afc after
      searchReacts wasPresent r.2 r.1
    else after
  else
    let r := unmarkedHeader .b strong afc counted
    let reacted := searchReacts wasPresent r.2 r.1
    let reacted := if limit && twoOrders then reacted.choose else reacted
    if limit && sameStretch counted reacted then searchLimit reacted else reacted

/-- A settling header counts in TRIM, and in NAME after a fold that changed the band (R106, R107). -/
def settlingCount (s : State) : State :=
  if s.tun.search.phase = .trim ∨ s.tun.search.phase = .name then
    let counted := countHeader s
    if counted.searchLimitDue s.tun.search.phase then searchLimit counted else counted
  else s

/-- A field header of a tuner's stream at the tuning controller; the second component reports the session's source
ready (R85 to R88, R94). -/
def tunHeader (x : TunerId) (settling strong : Bool) (afc : Int) (s : State) : State × Bool :=
  let t := s.tuner x
  let searching : Bool := x = .b ∧ t.owner = .search ∧ s.tun.search.state = .running
  if t.owner = .none then (s, false)
  else if settling then
    let r := settlingHeader x s
    if searching && decide (s.settling x = .trim) then (settlingCount r.1, r.2) else r
  else if searching then (searchHeader strong afc s, false)
  else ((unmarkedHeader x strong afc s).1, false)

/-! ### Losses of everything (R99 to R101) -/

/-- Both tuner records and the external-source record are cleared, the IR line at its idle level (R99 to R101). -/
def clearSources (s : State) : State :=
  let s1 := clearTuner .b (clearTuner .a s)
  setView none (s1.setTun { s1.tun with ext := ExtRecord.cleared, staging := none })

end Sys2Proof.Machine
end

