-- ==== Sys2Proof/Machine/Transport.lean ====
section
/-! DEFINITION. The transport controller's own operations (chapter 1): its states, entering and leaving them, the motions,
and the orders of the timer scheduler (R13 to R17). What reports to the scheduler is in TapeOps.lean. -/

namespace Sys2Proof.Machine

/-! ### Kinds of state (R1) -/

/-- The motion states (section 1.1). -/
def TState.isMotion : TState → Bool
  | .dirRead | .play | .record | .lockup | .windFwd | .windBack | .searchFwd | .searchBack | .locate | .dirWrite => true
  | .empty | .loading | .stopped | .playPause | .recordPause | .unloading | .ejected | .dewHold | .fault => false

/-- The threaded states (R1). -/
def TState.isThreaded (t : TState) : Bool :=
  t.isMotion || decide (t = .stopped) || decide (t = .playPause) || decide (t = .recordPause)

/-- The user modes that the halt order stops and that take a new motion command (R9, R13). -/
def TState.isUserMode : TState → Bool
  | .play | .playPause | .windFwd | .windBack | .searchFwd | .searchBack | .locate | .dirRead => true
  | .empty | .loading | .stopped | .record | .recordPause | .lockup | .dirWrite | .unloading | .ejected | .dewHold
  | .fault => false

/-- The states in which the session holds the transport (R13). -/
def TState.isSession : TState → Bool
  | .record | .recordPause | .lockup => true
  | .empty | .loading | .dirRead | .stopped | .play | .playPause | .windFwd | .windBack | .searchFwd | .searchBack
  | .locate | .dirWrite | .unloading | .ejected | .dewHold | .fault => false

/-- The locate record's direction is forward. -/
def Trc.locateForward (t : Trc) : Bool := t.locate.any fun l => decide (l.direction = .forward)

/-- Forward motion (R1). -/
def Trc.forwardMotion (t : Trc) : Bool :=
  match t.state with
  | .play | .record | .windFwd | .searchFwd | .dirRead => true
  | .lockup => t.phase ≠ .backspace
  | .locate => t.locateForward
  | .dirWrite => t.phase ≠ .writeRewind
  | .empty | .loading | .stopped | .playPause | .recordPause | .windBack | .searchBack | .unloading | .ejected
  | .dewHold | .fault => false

/-- Reverse motion: the rest of the motion (R1). -/
def Trc.reverseMotion (t : Trc) : Bool := t.state.isMotion && !t.forwardMotion

/-- The TRC writes on the tape: RECORD, the reserve, and DIR_WRITE while the region is written (R1). -/
def Trc.writing (t : Trc) : Bool :=
  match t.state with
  | .record => true
  | .lockup => t.phase = .reserve
  | .dirWrite => t.phase = .writing
  | .empty | .loading | .dirRead | .stopped | .play | .playPause | .recordPause | .windFwd | .windBack | .searchFwd
  | .searchBack | .locate | .unloading | .ejected | .dewHold | .fault => false

/-! ### Drives (R1, section 1.1): what the outputs show follows from the state, its phase and the supply -/

/-- What the capstan does: it stands, runs at play speed for a tape speed, follows the recorded control track, or runs at a
multiple of play speed (R6, R9, R15, R17, R18). -/
inductive CapstanDrive where
  | off
  | play (speed : Speed)
  | track
  | multiple (d : Direction)
deriving DecidableEq, Repr

/-- The capstan of a state and its phase (R4, R6, R9, R15 to R18; log 49). It stands while the tape winds. -/
def Trc.capstan (t : Trc) : CapstanDrive :=
  match t.state with
  | .play => .track
  | .dirRead => .play .one
  | .searchFwd => .multiple .forward
  | .searchBack => .multiple .reverse
  | .record => .play t.recordingSpeed
  | .lockup =>
    match t.phase with
    | .backspace => .off
    | .forwardRun => .track
    | .lock => .play t.orderedSpeed
    | _ => .play .one
  | .dirWrite => if t.phase = .writeRewind then .off else .play .one
  | .empty | .loading | .stopped | .playPause | .recordPause | .windFwd | .windBack | .locate | .unloading | .ejected
  | .dewHold | .fault => .off

/-- The tape is held with the drum turning (the table of section 1.1). -/
def Trc.heldStill (t : Trc) : Bool := decide (t.state = .playPause) || decide (t.state = .recordPause)

/-- The drum turns while the tape is held still and wherever the capstan drives it; it stands while the tape winds (R7, R9,
R16; for the wind of a backspace, log 63). -/
def Trc.drumTurns (t : Trc) : Bool := t.heldStill || decide (t.capstan ≠ .off)

/-- The reel motors take up the tape in the direction of the motion (R1). -/
def Trc.reelMotors (t : Trc) : Option Direction :=
  if t.forwardMotion then some .forward else if t.reverseMotion then some .reverse else none

/-- The threading motor of a state and its phase: forward while threading, in reverse while unthreading; threading waits for
the tape to be at rest (R2, R8, R19, R20). R1 has no push-out drive and R19 names none: no motor runs in that phase (log 76). -/
def Trc.threadingMotor (t : Trc) : Option Direction :=
  match t.state, t.phase with
  | .loading, _ => if t.atRestMark then none else some .forward
  | .dewHold, .dewRethread => some .forward
  | .unloading, .unthread => some .reverse
  | .dewHold, .dewUnthread => some .reverse
  | _, _ => none

/-- What the TRC drives (R1). -/
structure Drives where
  capstan : CapstanDrive
  drum : Bool
  reels : Option Direction
  threading : Option Direction
  brakes : Bool
  recordEnable : Bool
deriving DecidableEq, Repr

/-- The drives as they stand: brakes while the motors brake after a stop and in FAULT; every motor off and the brakes applied
while the part is asleep (section 1.1, R1, R23, R25, R193). -/
def State.drives (s : State) : Drives :=
  if s.asleep then
    { capstan := .off, drum := false, reels := none, threading := none, brakes := true, recordEnable := false }
  else
    { capstan := s.trc.capstan, drum := s.trc.drumTurns, reels := s.trc.reelMotors, threading := s.trc.threadingMotor,
      brakes := s.trc.atRestMark || decide (s.trc.state = .fault), recordEnable := s.trc.writing }

/-! ### Entering a state -/

/-- 8 s, 3 s, 5 minutes and the reel bound in milliseconds (R2, R6, R7, R21). -/
abbrev limit8s : Nat := 8000
/-- The 3 s lock limits. -/
abbrev limit3s : Nat := 3000
/-- The 5 minutes of the pause timer and the loss timer. -/
abbrev fiveMinutes : Nat := 300000
/-- The bound of the reel watch timers (R21). -/
abbrev reelBound : Nat := 4096

/-- A reel watch timer on entering a state: started on entry to motion from a non-motion state, stopped outside motion
(R21). -/
def watchOnEntry (was : Bool) (st : TState) (t : Timer) : Timer :=
  if st.isMotion then (if was then t else some reelBound) else none

/-- The TRC enters a state: limits and the pause timer of the state left stop, the servo reads UNLOCKED on entry to
motion or STOPPED (R6), the reel watches follow R21, and a new motion awaits its motion-steady event. -/
def Trc.enter (t : Trc) (st : TState) (ph : Phase) : Trc :=
  { t with
    state := st
    phase := ph
    servoLocked := if st.isMotion || decide (st = .stopped) then false else t.servoLocked
    pauseTimer := none
    supplyWatch := watchOnEntry t.state.isMotion st t.supplyWatch
    takeUpWatch := watchOnEntry t.state.isMotion st t.takeUpWatch
    atRestMark := if st.isMotion then false else t.atRestMark
    playLock := none
    lockupLock := none
    dirReadLock := none
    threadingLimit := none
    unthreadingLimit := none
    pushOutLimit := none
    steadyAwaited := st.isMotion
    rewindDue := false }

/-- The TRC enters a state; the steady window closes (R38), and an unfinished directory write is discarded (R61). -/
def enter (st : TState) (ph : Phase) (s : State) : State :=
  let s1 := s.setTcb s.tcb.closeWindow
  let s2 := s1.setDir { s1.dir with writeImage := if st = .dirWrite then s1.dir.writeImage else none }
  s2.setTrc (s2.trc.enter st ph)

/-- The next phase of the sequence running in a state. -/
def setPhase (ph : Phase) (s : State) : State := s.setTrc { s.trc with phase := ph }

/-- A directory read under way is cut (R4, R52). -/
def cutRead (s : State) : State := if s.trc.state = .dirRead then readEnds .cut s else s

/-- The TRC stops and enters STOPPED; the motors brake, with the at-rest mark set, when it was in motion. The locate
record and a seek are removed. -/
def stopTape (s : State) : State :=
  let braking := s.trc.atRestMark || s.trc.state.isMotion
  let s1 := enter .stopped .idle s
  s1.setTrc { s1.trc with atRestMark := braking, locate := none, seek := none }

/-- A motion is ordered in a user mode: what was under way is replaced (R5). -/
def beginMotion (st : TState) (ph : Phase) (s : State) : State :=
  let s1 := enter st ph s
  s1.setTrc { s1.trc with locate := none, seek := none }

/-- PLAY is entered with its 3 s lock limit (R6). -/
def beginPlay (s : State) : State :=
  let s1 := beginMotion .play .idle s
  s1.setTrc { s1.trc with playLock := some limit3s }

/-- The capstan restarts from PLAY_PAUSE: PLAY without a lock limit (R6, R7). -/
def resumePlay (s : State) : State := beginMotion .play .idle s

/-- DIR_READ is entered (R4, R49); a seek under way is kept. -/
def beginDirRead (s : State) : State := readBegins (enter .dirRead .idle s)

/-- The leader sensor ahead in a direction is active (R9, R10). -/
def State.leaderAhead (s : State) : Direction → Bool
  | .forward => s.pins.endSensor
  | .reverse => s.pins.startSensor

/-- The end latch is cleared (R12). -/
def clearLatch (s : State) : State := s.setTrc { s.trc with endLatch := false }

/-- A reverse motion accepted clears the end latch (R9, R10). -/
def clearLatchFor (d : Direction) (s : State) : State :=
  match d with
  | .forward => s
  | .reverse => clearLatch s

/-- LOCATE is entered with its record (R10). -/
def beginLocate (l : LocateTarget) (s : State) : State :=
  let s1 := beginMotion .locate .wind s
  s1.setTrc { s1.trc with locate := some l }

/-- A locate or seek reaches its goal: the record is removed and the end action taken (R10). PLAY is entered as R6 gives:
nothing changes in PLAY, and no lock limit runs from PLAY_PAUSE. It is entered with the end sensor active too, where R6 refuses
the command and R10 says nothing (log 64). -/
def takeEndAction (e : EndAction) (s : State) : State :=
  match e with
  | .stop => stopTape s
  | .play =>
    if s.trc.state = .play then s
    else if s.trc.state = .playPause then resumePlay s
    else beginPlay s

/-! ### Threading and unthreading (R2, R19, R20) -/

/-- The motors brake: the at-rest mark is set, or the state left is a motion state (R8). -/
def Trc.brakingNow (t : Trc) : Bool := t.atRestMark || t.state.isMotion

/-- The threading motor runs forward with its 8 s limit (R2). -/
def runThreading (s : State) : State := s.setTrc { s.trc with threadingLimit := some limit8s }

/-- Threading after insertion, or out of FAULT and at a unit reset; it waits for the at-rest event while the motors brake
(R2, R8, R24). -/
def beginLoading (s : State) : State :=
  let braking := s.trc.brakingNow
  let s1 := enter .loading .idle s
  if braking then s1.setTrc { s1.trc with atRestMark := true } else runThreading s1

/-- The threading motor runs in reverse with its 8 s limit (R19, R20). -/
def runUnthreading (ph : Phase) (s : State) : State :=
  s.setTrc { s.trc with phase := ph, unthreadingLimit := some limit8s }

/-- The cassette is pushed out with its 8 s limit (R19). -/
def beginPushOut (s : State) : State :=
  s.setTrc { s.trc with state := .unloading, phase := .pushOut, unthreadingLimit := none, threadingLimit := none,
                        pushOutLimit := some limit8s }

/-- UNLOADING: unthreading waits for the at-rest event while the motors brake (R19). -/
def beginUnloading (s : State) : State :=
  let braking := s.trc.brakingNow
  let s1 := enter .unloading .unthreadWait s
  if braking then s1.setTrc { s1.trc with atRestMark := true } else runUnthreading .unthread s1

/-- DEW_HOLD: unthreading waits for the tape to be at rest (R20). -/
def beginDewHold (s : State) : State :=
  let braking := s.trc.brakingNow
  let s1 := enter .dewHold .dewBrake s
  let s2 := s1.setTrc { s1.trc with locate := none, seek := none, pausePoint := none }
  if braking then s2.setTrc { s2.trc with atRestMark := true } else runUnthreading .dewUnthread s2

/-- DEW_HOLD from LOADING: the tape does not move, so unthreading begins at once (R3). -/
def dewHoldAtOnce (s : State) : State := runUnthreading .dewUnthread (enter .dewHold .dewUnthread s)

/-- Re-threading in DEW_HOLD, with the 8 s limit of R2 (R20). -/
def beginRethread (s : State) : State :=
  s.setTrc { s.trc with phase := .dewRethread, unthreadingLimit := none, threadingLimit := some limit8s }

/-- The cassette is out: EJECTED, the latch clear, the counter block and the directory told (R12, R19). -/
def enterEjected (s : State) : State :=
  let s1 := enter .ejected .idle s
  dirEjected (tcbEjected (s1.setTrc { s1.trc with endLatch := false, locate := none, seek := none, atRestMark := false }))

/-- The TRC enters FAULT: motors off, the locate record removed, the pause point cleared (R23). A directory read under
way is cut, and the orders it held are dropped. -/
def enterFault (s : State) : State :=
  let s1 := enter .fault .idle (cutRead s)
  s1.setTrc { s1.trc with locate := none, seek := none, pausePoint := none, atRestMark := false, heldHalt := false,
                          heldStart := none, heldPause := false, heldResume := none }

/-- The cassette is found pushed out: EJECTED with the position, the history and the end latch as they stand, and the
directory UNKNOWN (R24, R25, R29, R45, R46; log 65). -/
def foundEjected (s : State) : State :=
  let s1 := enter .ejected .idle s
  dirEjected (s1.setTrc { s1.trc with locate := none, seek := none, atRestMark := false })

/-- The state the switches give (R24); threading and unthreading wait for the tape to be at rest (R8). A slot found OPEN
leaves the directory UNKNOWN, as there is no cassette (R46). -/
def stateBySwitches (s : State) : State :=
  match s.pins.cassette with
  | .slotOpen => dirUnknown (enter .empty .idle s)
  | .partway => foundEjected s
  | .home =>
    if s.pins.threaded then (if s.pins.dew then beginDewHold s else stopTape s) else beginLoading s

/-! ### Lock-up (R15, R17) -/

/-- The lock phase, with its 3 s limit (R15). -/
def beginLockPhase (s : State) : State := s.setTrc { s.trc with phase := .lock, lockupLock := some limit3s }

/-- After the leader: the reserve at speed 1 when the position is EXACT below 75, else the lock phase (R15). -/
def afterLeader (s : State) : State :=
  if s.tcb.exact ∧ s.tcb.absPos < 75 then s.setTrc { s.trc with phase := .reserve, recordingSpeed := .one }
  else beginLockPhase s

/-- Lock-up from STOPPED at a speed, with or without an index mark (R15). -/
def beginLockup (speed : Speed) (index : Bool) (s : State) : State :=
  let s1 := beginMotion .lockup .lock s
  let s2 := s1.setTrc { s1.trc with orderedSpeed := speed, orderedIndex := index, heldStart := none }
  if s.pins.startSensor then setPhase .leaderClear s2 else afterLeader s2

/-- The seamless resume begins with its backspace (R17). -/
def beginBackspace (speed : Speed) (s : State) : State :=
  let s1 := beginMotion .lockup .backspace s
  s1.setTrc { s1.trc with orderedSpeed := speed, orderedIndex := false, backspaceCount := 0 }

/-- RECORD_PAUSE: the pause point noted, the pause timer started (R16); an order kept for the pause is kept no longer. -/
def enterRecordPause (s : State) : State :=
  let s1 := enter .recordPause .idle s
  s1.setTrc { s1.trc with pausePoint := some s.tcb.relCounter, pauseTimer := some fiveMinutes, heldPause := false,
                          heldResume := none }

/-! ### Orders of the scheduler (R13, R16, R17) -/

/-- The halt order (R13). The RECORD that opened the session is not replied. -/
def orderHalt (s : State) : State :=
  if s.trc.state.isUserMode then
    let s1 := stopTape (cutRead s)
    if s1.holds [codeRecord] then s1 else completeHeld .preempted .none s1
  else if s.trc.state = .loading then s.setTrc { s.trc with heldHalt := true }
  else s.setTrc { s.trc with rewindDue := false }

/-- The record start order with the end sensor inactive (R13): from STOPPED at once or at the at-rest event, in LOADING
held until threading ends. -/
def orderStart (speed : Speed) (index : Bool) (s : State) : State :=
  if s.trc.state = .loading ∨ (s.trc.state = .stopped ∧ s.trc.atRestMark) then
    s.setTrc { s.trc with heldStart := some (speed, index) }
  else if s.trc.state = .stopped then beginLockup speed index s
  else s

/-- The record pause order (R15, R16). In lock-up, and while the frame of an order kept is still to be written, it is kept,
and takes the place of a resume kept before it (R166; log 20). -/
def orderPause (s : State) : State :=
  if s.trc.state = .lockup ∨ (s.trc.state = .record ∧ s.trc.heldPause) then
    s.setTrc { s.trc with heldPause := true, heldResume := none }
  else if s.trc.state = .record then enterRecordPause s
  else s

/-- The record resume order (R16, R17). One that meets a pause order still kept follows that order (log 20). -/
def orderResume (speed : Speed) (s : State) : State :=
  if s.trc.state = .recordPause then beginBackspace speed s
  else if s.trc.state = .stopped then
    (if s.trc.atRestMark then s.setTrc { s.trc with heldStart := some (speed, false) } else beginLockup speed false s)
  else if (s.trc.state = .lockup ∨ s.trc.state = .record) ∧ s.trc.heldPause then
    s.setTrc { s.trc with heldResume := some speed }
  else s

/-- The scheduler withdraws the orders the TRC still holds (R156, step 2). -/
def withdrawOrders (s : State) : State :=
  s.setTrc { s.trc with heldHalt := false, heldStart := none, heldPause := false, heldResume := none }

/-- The record stop order (R13): the host RECORD or PAUSE in flight is ABORTED STATE, and the TRC brakes into STOPPED.
The close waits while the at-rest mark is set. -/
def orderStop (s : State) : State :=
  let s1 := if s.holds [codeRecord, codePause] then completeHeld .aborted .state s else s
  if s1.trc.state.isSession then
    let s2 := stopTape s1
    s2.setTrc { s2.trc with atRestMark := true, pausePoint := none, markDue := false }
  else s1

/-- The close's transport step applies in these states (R156, step 2). -/
def TState.takesStop (t : TState) : Bool := t.isSession || decide (t = .stopped)

/-! ### Auto-rewind (R12) -/

/-- The tape is at rest at its end, no session exists and the option asked for it: WIND_BACK with no command in
flight. -/
def autoRewind (s : State) : State :=
  if s.trc.rewindDue ∧ s.trc.state = .stopped ∧ ¬ s.trc.atRestMark ∧ s.sch.session.isNone then
    beginMotion .windBack .idle s
  else s

end Sys2Proof.Machine
end

