-- ==== Sys2Proof/Machine/Scheduler.lean ====
section
/-! DEFINITION. The timer scheduler (chapters 9 and 10): occurrences served and missed, the watch, sessions opened, run
and closed, label control, and the evaluation of the table. -/

namespace Sys2Proof.Machine

/-! ### Occurrences of an entry (R142, R160) -/

/-- Now, in seconds from 01-01-00. -/
def State.nowSeconds (s : State) : Nat := s.clk.now.seconds

/-- Now is before an absolute minute. -/
def State.before (s : State) (m : Nat) : Bool := s.nowSeconds < m * 60

/-- Now is before an absolute minute of the session, which may lie past the wrap of the calendar (R132; log 18). -/
def State.sessionBefore (s : State) (m : Nat) : Bool := s.nowSeconds < minuteSeen s.nowSeconds m * 60

/-- Start and stop of an entry's next occurrence, in absolute minutes. -/
def TimerEntry.occurrence (e : TimerEntry) : Option (Nat × Nat) :=
  match e.defn, e.next with
  | some t, some d => some (t.startOn d, t.stopOn d)
  | _, _ => none

/-- The window opens 15 minutes before the occurrence start (R160). -/
def windowOpening (start : Nat) : Nat := start - 15

/-- The wait limit and overrun deadline: 180 minutes after the occurrence stop (R160). -/
def waitLimit (stop : Nat) : Nat := stop + 180

/-- A label-controlled entry. -/
def TimerEntry.labelled (e : TimerEntry) : Bool := e.defn.any fun t => t.label.isSome

/-- The entry named as origin by the existing session (section 9.1). -/
def State.runningEntry (s : State) : Option Nat := s.sch.session.bind Session.origin

/-- A session exists. -/
def State.hasSession (s : State) : Bool := s.sch.session.isSome

/-- Puts a number into an ascending list. -/
def insertNat (n : Nat) : List Nat → List Nat
  | [] => [n]
  | m :: rest => if n ≤ m then n :: m :: rest else m :: insertNat n rest

/-- Entries of the table that satisfy a test, by earliest occurrence start, the lower index first on a tie (R143). -/
def State.entriesByStart (s : State) (p : Nat → TimerEntry → Bool) : List Nat :=
  let found := (List.range 16).filterMap fun k =>
    match (s.timer k).occurrence with
    | some (a, _) => if p k (s.timer k) then some (a * 16 + k) else none
    | none => none
  (found.foldr insertNat []).map (· % 16)

/-! ### Cues of a channel (R161) -/

/-- Whether a channel is EXT as the table now holds it. -/
def State.channelIsExt (s : State) (c : Nat) : Bool := (s.channel c).any Channel.isExt

/-- The current cue of a tuner tuned to a channel. -/
def CueRecord.cueOf (r : CueRecord) (c : Nat) : Option Cue := if r.tuning = some (some c) then r.current else none

/-- The cue of a channel: tuner A's when both hold one; an EXT channel has none (R161). -/
def State.channelCue (s : State) (c : Nat) : Option Cue :=
  if s.channelIsExt c then none
  else
    match s.cue.a.cueOf c with
    | some cue => some cue
    | none => s.cue.b.cueOf c

/-- A cue matches an entry or a session of a channel and label (R161). -/
def cueMatches (s : State) (c : Nat) (label : Option Label) (cue : Cue) : Bool :=
  label.isSome && decide (cue.label = label) &&
  (match (s.channel c).bind Channel.network with
   | none => true
   | some n => decide (cue.network = n))

/-! ### The watch (R162, R163) -/

/-- A WAITING entry's channel is served by tuner A, or by tuner B owned by VIEW (R162). -/
def State.servedElsewhere (s : State) (c : Nat) : Bool :=
  decide (s.tun.tunerA.channel = some c) ||
  (decide (s.tun.tunerB.owner = .view) && decide (s.tun.tunerB.channel = some c))

/-- An entry needs the watch (R162). -/
def State.needsWatch (s : State) (e : TimerEntry) : Bool :=
  decide (e.state = .waiting) &&
  e.defn.any fun t => (s.channel t.channel).any (fun c => !c.isExt) && !s.servedElsewhere t.channel

/-- The channel of an entry. -/
def State.timerChannel (s : State) (k : Nat) : Option Nat := (s.timer k).defn.map TimerDef.channel

/-- The watch is reassessed (R162); not while the part is asleep (R163). -/
def reassessWatch (s : State) : State :=
  if s.asleep then s
  else
    let needing := s.entriesByStart fun _ e => s.needsWatch e
    if s.sch.watch.isSome && needing.any (fun k => decide (s.timerChannel k = s.sch.watch)) then s
    else
      match needing with
      | k :: _ =>
        let c := (s.timerChannel k).getD 0
        grantWatch c (s.setSch { s.sch with watch := some c })
      | [] => if s.sch.watch.isSome then releaseWatch (s.setSch { s.sch with watch := none }) else s

/-- Changes an entry's state; a change into or out of WAITING is followed at once by a reassessment (R160). -/
def setEntryState (k : Nat) (st : EntryState) (s : State) : State :=
  let was := (s.timer k).state
  let s1 := modTimer k (fun e => { e with state := st }) s
  if was ≠ st ∧ (was = .waiting ∨ st = .waiting) then reassessWatch s1 else s1

/-! ### Served and missed (R144) -/

/-- The entry's state after an occurrence was served or missed, its next occurrence and its cleared flags (R144). -/
def afterOccurrence (served : Bool) (now : Nat) (e : TimerEntry) : TimerEntry :=
  match e.defn with
  | none => e
  | some t =>
    match t.rep with
    | .once _ => { e with state := if served then .done else .missed, deferred := false, interrupted := false }
    | _ =>
      { e with state := .armed, next := t.occurrenceAfter (e.next.getD 0) now, deferred := false, interrupted := false }

/-- An occurrence of entry `k` was served or missed (R144). -/
def occurrenceEnds (k : Nat) (served : Bool) (s : State) : State :=
  let was := (s.timer k).state
  let s1 := modTimer k (afterOccurrence served s.nowSeconds) s
  let s2 := if was = .waiting then reassessWatch s1 else s1
  if served then s2 else raise .entryMissed s2

/-- The outcome of a missed occurrence that had no session (R144). -/
def missedOutcome (reason : EndReason) (s : State) : TimerOutcome :=
  { lastStart := none, lastStop := s.clk.now, reason := reason, entryNo := none, notIndexed := false,
    seamUnlocked := false, switched := false }

/-- The outcome of an entry whose occurrence is missed with a reason (R144): written by the scheduler where the occurrence
had no session; an interrupted one had a session and keeps the outcome that its close wrote, with the reason of the miss
(log 66). -/
def outcomeOfMiss (reason : EndReason) (s : State) (e : TimerEntry) : TimerOutcome :=
  match e.interrupted, e.outcome with
  | true, some o => { o with reason := reason }
  | _, _ => missedOutcome reason s

/-- An occurrence is missed otherwise than at a close (R144). One that was interrupted is missed too, though an earlier session
of it may have reached ACTIVE (log 73). -/
def missOccurrence (k : Nat) (reason : EndReason) (s : State) : State :=
  occurrenceEnds k false (modTimer k (fun e => { e with outcome := some (outcomeOfMiss reason s e) }) s)

/-- An interrupted occurrence reaches its end: served when the outcome's last start is present, else missed MAINS
(R159, R172). -/
def interruptedEnds (k : Nat) (s : State) : State :=
  if (s.timer k).outcome.any (fun o => o.lastStart.isSome) then occurrenceEnds k true s
  else missOccurrence k .mains s

/-! ### Opening a session (R146, R149) -/

/-- The hindrance that an attempt meets (R146, rows 3 to 9). -/
def State.hindrance (s : State) : Option EndReason :=
  if s.asleep then some .mains
  else if s.trc.state = .empty ∨ s.trc.state = .ejected then some .noCassette
  else if s.pins.tab = .tabOut then some .writeProtected
  else if s.trc.endLatch then some .tapeEnd
  else if s.trc.state = .dewHold then some .dew
  else if s.trc.state = .dirWrite ∨ s.trc.state = .unloading then some .noCassette
  else if s.trc.state = .fault then some .transport
  else none

/-- Speed of a timer entry before R150 chooses: AUTO counts as 1 (R149). -/
def TimerSpeed.before : TimerSpeed → Speed
  | .auto => .one | .one => .one | .two => .two

/-- A new session record (R149, R165). -/
def newSession (origin : Option Nat) (channel : Nat) (source : SourceKind) (occurrence : Option (Nat × Nat))
    (rule : StopRule) (label : Option Label) (speed : Speed) : Session :=
  { origin := origin, channel := channel, source := source, occurrence := occurrence, state := .starting,
    startPhase := .source, firstSpeed := none, currentSpeed := speed, autoMark := false, switchFrame := none,
    pauseCause := none, stopRule := rule,
    deadline := if label.isSome then occurrence.map fun o => waitLimit o.2 else none,
    label := label, entryNo := none, notIndexed := false, seamUnlocked := false, switched := false, closeReason := none,
    clearNote := false, holdPending := false, cueLoss := false, lossTimer := none, startedAt := none, irWait := none,
    byUnitReset := false, byMains := false }

/-- A session opens: the record with its current speed (R44), the halt order, the request for the source, and the
reassessment that follows the grant (R149, R163). -/
def openSession (x : Session) (s : State) : State :=
  reassessWatch (grantRecord x.source x.channel (orderHalt (evalNearEnd (s.setSch { s.sch with session := some x }))))

/-- The source of a timer session's channel at opening (R148). -/
def State.sourceKind (s : State) (c : Nat) : SourceKind := if s.channelIsExt c then .ext else .air

/-- The session of timer entry `k` opens with a stop rule; its deferred flag is cleared. The interrupted mark stays until the
occurrence is served, is missed or has passed its stop (R149, R159, R165, R172). -/
def openTimerSession (k : Nat) (rule : StopRule) (s : State) : State :=
  match (s.timer k).defn, (s.timer k).occurrence with
  | some t, some occ =>
    openSession (newSession (some k) t.channel (s.sourceKind t.channel) (some occ) rule t.label t.speed.before)
      (modTimer k (fun e => { e with deferred := false }) s)
  | _, _ => s

/-- An attempt to start entry `k` (R146); an interrupted entry that meets MAINS is not missed (R159), and one that meets
another hindrance is, whatever its earlier session reached (log 73). -/
def attempt (k : Nat) (rule : StopRule) (s : State) : State :=
  if s.clk.status = .unset then s
  else if s.hasSession then modTimer k (fun e => { e with deferred := true }) s
  else
    match s.hindrance with
    | none => openTimerSession k rule s
    | some r =>
      if r = .mains ∧ (s.timer k).interrupted then s else missOccurrence k r s

/-- A WAITING entry is tested (R163). -/
def testWaiting (k : Nat) (s : State) : State :=
  match (s.timer k).defn, (s.timer k).occurrence with
  | some t, some (start, stop) =>
    match s.channelCue t.channel with
    | some cue =>
      if cueMatches s t.channel t.label cue && decide (cue.status = .run) then attempt k .label s else s
    | none => if ¬ s.before start ∧ s.before stop then attempt k .clock s else s
  | _, _ => s

/-! ### Choosing the speed (R150, R153) -/

/-- The frames needed to the occurrence stop: whole seconds from now times 25, 0 when the stop is not after now
(R150, R153). -/
def State.framesNeeded (s : State) (stop : Nat) : Nat := (minuteSeen s.nowSeconds stop * 60 - s.nowSeconds) * 25

/-- The first speed of a session (R150, R151). -/
def State.chooseSpeed (s : State) (x : Session) : Speed × Bool :=
  match x.origin.bind fun k => (s.timer k).defn with
  | none => (x.currentSpeed, false)
  | some t =>
    match t.speed with
    | .one => (.one, false)
    | .two => (.two, false)
    | .auto =>
      match s.sch.settledFigure, x.occurrence with
      | some m, some (_, stop) => (if s.framesNeeded stop ≤ m then .one else .two, true)
      | _, _ => (.one, true)

/-! ### Closing a session (R155 to R158) -/

/-- What a session's close makes of its timer entry (R157): the outcome, then served, missed, EMPTY or ARMED interrupted. An
entry that becomes EMPTY raises no ENTRY_MISSED, whether or not the session reached ACTIVE (log 74). -/
def closeEntryOf (x : Session) (entryNo : Option Nat) (k : Nat) (s : State) : State :=
  let reason := x.closeReason.getD .done
  let reached := x.startedAt.isSome
  if x.clearNote then
    let s1 := modTimer k (fun _ => TimerEntry.empty) s
    reassessWatch (markRecord (.timer k) s1)
  else
    let outcome : TimerOutcome :=
      { lastStart := x.startedAt, lastStop := s.clk.now,
        reason := if reason = .done ∧ ¬ reached then .clock else reason,
        entryNo := entryNo, notIndexed := x.notIndexed, seamUnlocked := x.seamUnlocked, switched := x.switched }
    let s1 := modTimer k (fun e => { e with outcome := some outcome }) s
    if x.byUnitReset || x.byMains then
      setEntryState k .armed (modTimer k (fun e => { e with interrupted := true }) s1)
    else occurrenceEnds k reached s1

/-- A deferred entry at step 6 of a close (R147, R172); past its stop it is missed OVERLAP also when it is interrupted (log 21). -/
def takeDeferred (k : Nat) (s : State) : State :=
  if ¬ (s.timer k).deferred ∨ s.hasSession then s
  else
    match (s.timer k).occurrence with
    | none => s
    | some (_, stop) =>
      if (s.timer k).labelled then
        if s.before (waitLimit stop) then testWaiting k s else missOccurrence k .overlap s
      else if s.before stop then attempt k .clock s
      else missOccurrence k .overlap s

/-- The deferred entries are missed or attempted in order of occurrence start; once one has opened a session, the
entries after it remain deferred (R147, R172). -/
def takeAllDeferred (s : State) : State :=
  (s.entriesByStart fun _ e => e.deferred).foldl (fun acc k => takeDeferred k acc) s

/-- Host commands waiting on the close complete: STOP, then each CLEAR TIMER (R156, step 6). -/
def completeWaiting (s : State) : State :=
  let s1 := if s.holds [codeStop] then completeHeld .done .none s else s
  let ids := s1.sch.clears
  ids.foldl (fun acc id => complete id .done .none acc) (s1.setSch { s1.sch with clears := [] })

/-- The session record is removed; the current speed may change with it (R44, R156). -/
def removeSession (s : State) : State := evalNearEnd (completeWaiting (s.setSch { s.sch with session := none }))

/-- Steps 3 to 6 of a close, with the transport step done (R156); then auto-rewind, if the tape stopped at its end
(R12). -/
def finishClose (s : State) : State :=
  match s.sch.session with
  | none => s
  | some x =>
    let told := closeNotice (x.closeReason.getD .done) s
    let s1 := releaseRecord x.source told.1
    let s2 := reassessWatch (s1.setLpt { s1.lpt with sessionSource := none })
    let s3 := match x.origin with
      | none => s2
      | some k => closeEntryOf x told.2 k s2
    autoRewind (takeAllDeferred (removeSession (raise .sessionClose s3)))

/-- Steps 1 and 2 of a close (R156): the first cause gives the reason, later ones change nothing (R155). -/
def beginClose (r : EndReason) (s : State) : State :=
  match s.sch.session with
  | none => s
  | some x =>
    if x.state = .closing then s
    else
      let s1 := withdrawOrders
        (s.setSch { s.sch with session := some { x with state := .closing, closeReason := some r } })
      if s1.trc.state.takesStop then
        let s2 := orderStop s1
        if s2.trc.atRestMark then s2 else finishClose s2
      else finishClose s1

/-- The mains failure's close, in the backup domain: no transport step and no source step (R158). A close under way
keeps its reason. -/
def closeByMains (s : State) : State :=
  match s.sch.session with
  | none => s
  | some x =>
    let r := if x.state = .closing then x.closeReason.getD .mains else .mains
    let told := closeNotice r s
    let y := { x with state := .closing, closeReason := some r, byMains := true }
    let s2 := match x.origin with
      | none => told.1
      | some k => closeEntryOf y told.2 k told.1
    let s3 := raise .sessionClose s2
    takeAllDeferred (evalNearEnd (s3.setSch { s3.sch with session := none, clears := [] }))

/-- A report of the TRC that ends a session (fault, dew, unit reset): it begins the close, or lets a close go on that was
waiting for a rest that no longer comes (R155, R156). -/
def reportClose (r : EndReason) (s : State) : State :=
  match s.sch.session with
  | none => s
  | some x => if x.state = .closing ∧ ¬ s.trc.state.takesStop then finishClose s else beginClose r s

/-! ### Running: first frame, pauses, the switch (R150, R152, R153, R165) -/

/-- A record pause order with cause LABEL (R166). -/
def labelPause (s : State) : State :=
  let s1 := orderPause (modSession (fun x => { x with state := .paused, pauseCause := some .label }) s)
  match s1.runningEntry with
  | none => s1
  | some k => setEntryState k .paused s1

/-- A record resume order at the current speed after a label pause (R166, R167, R171). -/
def labelResume (s : State) : State :=
  let s1 := orderResume s.currentSpeed (modSession (fun x => { x with state := .active, pauseCause := none }) s)
  match s1.runningEntry with
  | none => s1
  | some k => setEntryState k .recording s1

/-- The cue-loss mark is taken, if it is clear, and the loss timer started at 5 minutes (R169). -/
def takeCueLoss (s : State) : State :=
  modSession (fun x => if x.cueLoss then x else { x with cueLoss := true, lossTimer := some fiveMinutes }) s

/-- The cue-loss mark is cleared and its timer stopped (R166, R169). -/
def clearCueLoss (s : State) : State := modSession (fun x => { x with cueLoss := false, lossTimer := none }) s

/-- A session under LABEL whose channel has no cue takes the cue-loss mark (R169). -/
def checkCueLoss (s : State) : State :=
  match s.sch.session with
  | none => s
  | some x =>
    if x.stopRule = .label ∧ x.state ≠ .closing ∧ (s.channelCue x.channel).isNone then takeCueLoss s else s

/-- The content of a cue at a session under LABEL (R165 while STARTING, R166 afterwards). -/
def labelContent (cue : Cue) (s : State) : State :=
  match s.sch.session with
  | none => s
  | some x =>
    if x.state = .closing then s
    else if ¬ cueMatches s x.channel x.label cue ∨ cue.status = .clear then beginClose .doneLabel s
    else
      let s1 := clearCueLoss s
      match x.state, cue.status with
      | .starting, .hold => modSession (fun y => { y with holdPending := true }) s1
      | .starting, _ => modSession (fun y => { y with holdPending := false }) s1
      | .active, .hold => labelPause s1
      | .paused, .run => if x.pauseCause = some .label then labelResume s1 else s1
      | _, _ => s1

/-- A session under CLOCK of a label-controlled entry meets a cue: a matching RUN or HOLD changes it to LABEL, and the
content is then taken (R168). -/
def clockContent (cue : Cue) (s : State) : State :=
  match s.sch.session with
  | none => s
  | some x =>
    if x.state ≠ .closing ∧ cueMatches s x.channel x.label cue ∧ cue.status ≠ .clear then
      labelContent cue (modSession (fun y => { y with stopRule := .label, cueLoss := false, lossTimer := none }) s)
    else s

/-- The cue of the session's channel, as found, at a session under CLOCK (R168). -/
def testSessionCue (s : State) : State :=
  match s.sch.session with
  | none => s
  | some x =>
    if x.stopRule = .clock ∧ x.label.isSome then
      match s.channelCue x.channel with
      | some cue => clockContent cue s
      | none => s
    else s

/-- The hold-pending mark is taken when the session becomes ACTIVE, as a matching HOLD is: the session is PAUSED at once, and
the pause order is kept until one frame is written (R165, R166; log 67). -/
def takeHoldPending (s : State) : State :=
  let s1 := modSession (fun y => { y with holdPending := false }) s
  clearCueLoss (labelPause (s1.setTrc { s1.trc with heldPause := true }))

/-- The first frame is recorded: ACTIVE, the open notice, SESSION_OPEN, and the label's part (R150, R165). -/
def activateSession (s : State) : State :=
  match s.sch.session with
  | none => s
  | some x =>
    let s1 := modSession (fun y => { y with state := .active, startedAt := some s.clk.now }) s
    let s2 := openNotice x ((s.channel x.channel).bind Channel.network) s1
    let s3 := match x.origin with
      | none => s2
      | some k => setEntryState k .recording s2
    let s4 := raise .sessionOpen s3
    checkCueLoss (if x.holdPending then takeHoldPending s4 else s4)

/-- A SETTLED estimate is fewer than the frames needed: an ACTIVE AUTO session at speed 1 switches once (R153). -/
def autoSwitch (m : Nat) (s : State) : State :=
  match s.sch.session with
  | none => s
  | some x =>
    match x.occurrence with
    | none => s
    | some (_, stop) =>
      if x.state = .active ∧ x.autoMark ∧ x.currentSpeed = .one ∧ ¬ x.switched ∧ m < s.framesNeeded stop then
        orderResume .two
          (orderPause (modSession (fun y => { y with switched := true, currentSpeed := .two }) s))
      else s

/-- An estimate update reaches the scheduler: the settled figure, then the switch test (R150, R153). -/
def estimateUpdate (s : State) : State :=
  match estimateStatus s.tcb.history with
  | .none => s.setSch { s.sch with settledFigure := none }
  | .partly => s
  | .settled =>
    let m := estimateOf s.tcb.history
    autoSwitch m (s.setSch { s.sch with settledFigure := some m })

/-! ### The source is ready (R149, R150) -/

/-- Record start with the end sensor active: latch, TAPE_END, and the close (R13). -/
def startAtTapeEnd (s : State) : State :=
  beginClose .tapeEnd (raise .tapeEnd (s.setTrc { s.trc with endLatch := true }))

/-- The session's source is ready: the line port's session source, the first speed, and the record start order
(R149, R150). -/
def sourceReady (s : State) : State :=
  match s.sch.session with
  | none => s
  | some x =>
    if x.state = .starting ∧ x.startPhase ≠ .lockup then
      let choice := s.chooseSpeed x
      let s1 := modSession (fun y => { y with startPhase := .lockup, firstSpeed := some choice.1,
                                              currentSpeed := choice.1, autoMark := choice.2, irWait := none }) s
      let s2 := evalNearEnd (s1.setLpt { s1.lpt with sessionSource := some x.source })
      if s2.pins.endSensor then startAtTapeEnd s2 else orderStart choice.1 true s2
    else s

/-- The IR-done report of a session's key list: the 2 s wait begins (R149). -/
def irDone (s : State) : State :=
  match s.sch.session with
  | none => s
  | some x =>
    if x.state = .starting ∧ x.startPhase = .source ∧ x.source = .ext then
      modSession (fun y => { y with startPhase := .irWait, irWait := some 2000 }) s
    else s

/-! ### Cue notices (R164 to R169) -/

/-- A cue-change notice at the session of its channel (R165, R166, R168). -/
def sessionCueChange (c : Nat) (cue : Cue) (s : State) : State :=
  match s.sch.session with
  | none => s
  | some x =>
    if x.channel = c ∧ x.label.isSome ∧ ¬ s.channelIsExt c then
      match x.stopRule with
      | .label => labelContent cue s
      | .clock => clockContent cue s
      | .manual => s
    else s

/-- A cue-change notice at the WAITING entries of its channel, in order of occurrence start (R164). -/
def waitingCueChange (c : Nat) (cue : Cue) (s : State) : State :=
  if s.channelIsExt c then s
  else
    (s.entriesByStart fun k e => decide (e.state = .waiting) && decide (s.runningEntry ≠ some k) &&
        decide (s.timerChannel k = some c)).foldl (fun acc k =>
      if (acc.timer k).state = .waiting ∧ acc.runningEntry ≠ some k
          ∧ cueMatches acc c ((acc.timer k).defn.bind TimerDef.label) cue ∧ cue.status = .run then
        attempt k .label acc
      else acc) s

/-- A cue-change notice (R115): the session of the channel first, and then the WAITING entries on it, an order that the rules
of the two leave open (R164, R166, R168; log 75). -/
def cueChangeNotice (channel : Option Nat) (cue : Cue) (s : State) : State :=
  match channel with
  | none => s
  | some c => waitingCueChange c cue (sessionCueChange c cue s)

/-- A cue-absent notice (R116, R169). -/
def cueAbsentNotice (channel : Option Nat) (s : State) : State :=
  match channel, s.sch.session with
  | some c, some x => if x.channel = c then checkCueLoss s else s
  | _, _ => s

/-! ### Evaluation (R143, R154, R160, R168 to R170) -/

/-- The session's clock-timed stop (R154). -/
def evalClockStop (s : State) : State :=
  match s.sch.session with
  | none => s
  | some x =>
    match x.stopRule, x.occurrence with
    | .clock, some (_, stop) => if s.sessionBefore stop then s else beginClose .done s
    | _, _ => s

/-- The overrun deadline (R170). -/
def evalOverrun (s : State) : State :=
  match s.sch.session with
  | none => s
  | some x =>
    match x.deadline with
    | some d => if s.sessionBefore d then s else beginClose .doneOverrun s
    | none => s

/-- The loss timer has run out and now is at or after the occurrence stop (R169). -/
def evalCueLoss (s : State) : State :=
  match s.sch.session with
  | none => s
  | some x =>
    match x.occurrence with
    | some (_, stop) =>
      if x.stopRule = .label ∧ x.cueLoss ∧ x.lossTimer = none ∧ ¬ s.sessionBefore stop then beginClose .done s else s
    | none => s

/-- The session at an evaluation: its cue, its cue-loss mark, its clock-timed stop, its deadline, its loss
(R154, R168 to R170; log 22). -/
def evalSession (s : State) : State :=
  match s.sch.session with
  | none => s
  | some x =>
    if x.state = .closing then s
    else evalCueLoss (evalOverrun (evalClockStop (checkCueLoss (testSessionCue s))))

/-- A clock-timed entry at an evaluation (R143, R159). -/
def evalClockEntry (k : Nat) (start stop : Nat) (s : State) : State :=
  let e := s.timer k
  if e.deferred then (if s.before stop then s else missOccurrence k .overlap s)
  else if e.interrupted then (if s.before stop then attempt k .clock s else interruptedEnds k s)
  else if s.before start then s
  else if s.before stop then attempt k .clock s
  else missOccurrence k .clock s

/-- A label-controlled entry at an evaluation (R160, R172). -/
def evalLabelEntry (k : Nat) (start stop : Nat) (s : State) : State :=
  let e := s.timer k
  if ¬ s.before (waitLimit stop) then
    if e.deferred then missOccurrence k .overlap s
    else if e.interrupted then interruptedEnds k s
    else missOccurrence k .late s
  else if s.before (windowOpening start) then
    (if e.state = .waiting then setEntryState k .armed s else s)
  else testWaiting k (setEntryState k .waiting s)

/-- One entry at an evaluation (R143): EMPTY, DONE and MISSED take no part, and the running entry's stop is its
session's. -/
def evalEntry (k : Nat) (s : State) : State :=
  let e := s.timer k
  if s.runningEntry = some k then s
  else
    match e.state, e.occurrence with
    | .armed, some (start, stop) | .waiting, some (start, stop) | .recording, some (start, stop)
    | .paused, some (start, stop) =>
      if e.labelled then evalLabelEntry k start stop s else evalClockEntry k start stop s
    | _, _ => s

/-- The evaluation of the whole table (R143): the session, the entries by occurrence start, the watch (R163). -/
def evaluateTable (s : State) : State :=
  if s.clk.status = .unset then s
  else
    let s1 := evalSession s
    reassessWatch ((s1.entriesByStart fun _ _ => true).foldl (fun acc k => evalEntry k acc) s1)

/-! ### The clock's notices (R128, R129, R145) -/

/-- The next occurrence of an ARMED entry computed afresh at the leaving of UNSET; a ONCE entry already stopped is
missed CLOCK (R145). -/
def recomputeEntry (k : Nat) (s : State) : State :=
  match (s.timer k).state, (s.timer k).defn with
  | .armed, some t =>
    let s1 := modTimer k (fun e => { e with next := t.newOccurrence s.nowSeconds }) s
    match t.rep, (s1.timer k).occurrence with
    | .once _, some (_, stop) => if s1.before stop then s1 else missOccurrence k .clock s1
    | _, _ => s1
  | _, _ => s

/-- What moved the clock (R129). -/
inductive ClockCause where
  | manual | broadcast | wrap
deriving DecidableEq, Repr

/-- A clock-moved notice (R129). -/
structure ClockNotice where
  old : DateTime
  oldStatus : ClockStatus
  new : DateTime
  newStatus : ClockStatus
  cause : ClockCause
deriving DecidableEq, Repr

/-- The notice of a move from one clock record to the next (R129). -/
def clockNotice (old new : Clk) (cause : ClockCause) : ClockNotice :=
  { old := old.now, oldStatus := old.status, new := new.now, newStatus := new.status, cause := cause }

/-- A next occurrence past the end of the calendar is, once the clock has been moved to the first half, one of the present
round (R132, R145; log 18). -/
def TimerEntry.wrapped (now : Nat) (e : TimerEntry) : TimerEntry := { e with next := e.next.map (daySeen now) }

/-- The scheduler takes a clock-moved notice (R129, R145). -/
def clockMoved (n : ClockNotice) (s : State) : State :=
  let s1 := s.setSch { s.sch with timers := s.sch.timers.map (TimerEntry.wrapped n.new.seconds) }
  let s2 :=
    if n.oldStatus = .unset ∧ n.newStatus ≠ .unset then (List.range 16).foldl (fun acc k => recomputeEntry k acc) s1
    else s1
  evaluateTable s2

/-- The clock status that a cause gives: the wrap keeps it (R130 to R132). -/
def ClockCause.status (old : ClockStatus) : ClockCause → ClockStatus
  | .manual => .setManual
  | .broadcast => .setBroadcast
  | .wrap => old

/-- The clock applies a set: the value, the day of week, the second phase, the status, CLOCK_SET and the notice
(R130, R131). -/
def applySet (t : DateTime) (cause : ClockCause) (s : State) : State :=
  let set : Clk := { s.clk with now := t, dow := t.date.dow, phase := 0, status := cause.status s.clk.status }
  clockMoved (clockNotice s.clk set cause) (raise .clockSet (s.setClk set))

/-- A confirmed time cue at the clock; it is ignored while the store is read at cold start (R131). -/
def timeCue (t : DateTime) (s : State) : State :=
  if s.starting then s
  else if s.clk.autoSet ∧ (s.clk.status = .unset ∨ 2 ≤ secondsApart t s.clk.now) then applySet t .broadcast s
  else s

/-- One second event (R125, R128, R132). -/
def secondEvent (s : State) : State :=
  if s.clk.now = lastSecond then
    let wrapped : Clk := { s.clk with now := s.clk.now.tick, dow := (s.clk.now.tick).date.dow }
    clockMoved (clockNotice s.clk wrapped .wrap) (s.setClk wrapped)
  else
    let next := s.clk.now.tick
    let s1 := s.setClk { s.clk with now := next, dow := next.date.dow }
    if next.second = 0 then evaluateTable s1 else s1

/-! ### Losses of sources (R101, R163) -/

/-- The session's source is lost (R101). -/
def sourceLost (s : State) : State := beginClose .userStop s

/-- The watch is lost: none, and reassessed (R163). -/
def watchLost (s : State) : State := reassessWatch (s.setSch { s.sch with watch := none })

/-! ### Unit reset and failures (R158, R159, R173) -/

/-- An entry at an SCH unit reset: run states return to ARMED, deferred flags are cleared (R159). -/
def entryAtReset (e : TimerEntry) : TimerEntry :=
  { e with
    state := match e.state with
      | .waiting | .recording | .paused => .armed
      | .empty => .empty
      | .armed => .armed
      | .done => .done
      | .missed => .missed
    deferred := false }

/-- The SCH unit reset (R159): the clear notes dropped, the watch and the staging record cleared, the entries returned to
ARMED, and the session closed USER_STOP. -/
def schReset (s : State) : State :=
  let s1 := modSession (fun x => { x with clearNote := false }) (releaseWatch (s.setSch { s.sch with
    timers := s.sch.timers.map entryAtReset, staging := none, watch := none, clears := [] }))
  match s1.sch.session with
  | none => s1
  | some x =>
    if x.state = .closing then s1
    else beginClose .userStop (modSession (fun y => { y with byUnitReset := true }) s1)

end Sys2Proof.Machine
end

