-- ==== Sys2Proof/Machine/TapeOps.lean ====
section
/-! DEFINITION. What the transport does together with the scheduler and the directory: entry to RECORD, the ends of the
tape, the end of a directory read, faults, dew, and the stages a control pulse or a sensor moves on (chapter 1). -/

namespace Sys2Proof.Machine

/-! ### RECORD is entered (R15 to R17, R150, R153) -/

/-- A session's first speed-2 frame is noted in the open entry (R55, R153). -/
def noteSpeedChange (s : State) : State :=
  if s.sch.session.any (fun x => x.switched) ∧ s.trc.recordingSpeed = .one ∧ s.trc.orderedSpeed = .two then noteSwitch s
  else s

/-- A pause order kept through lock-up is taken once a single frame is written, and a resume order kept behind it follows
(R15; log 20). -/
def takeHeldPause (s : State) : State :=
  if s.trc.heldPause then
    match s.trc.heldResume with
    | none => enterRecordPause s
    | some speed => orderResume speed (enterRecordPause s)
  else s

/-- Record and erase are enabled and RECORD is entered: the recording speed, the mark of the first frame, the steady
window (R15, R17, R38); then the report of the first frame, or the end of a manual resume. -/
def enterRecord (s : State) : State :=
  let s1 := noteSpeedChange s
  let s2 := enter .record .idle s1
  let s3 := openWindow (s2.setTrc { s2.trc with
    recordingSpeed := s.trc.orderedSpeed, markDue := s.trc.orderedIndex, pausePoint := none, steadyAwaited := false })
  let s4 := if s3.sch.session.any (fun x => decide (x.state = .starting)) then activateSession s3 else s3
  if s4.holds [codeRecord, codePause] then completeHeld .done .none s4 else s4

/-- The seam of a seamless resume: writing starts, locked or not (R17, R152). -/
def seam (s : State) : State :=
  enterRecord (if s.trc.servoLocked then s else modSession (fun x => { x with seamUnlocked := true }) s)

/-- The forward run of a seamless resume begins (R17). -/
def beginForwardRun (s : State) : State :=
  let s1 := setPhase .forwardRun s
  if s1.trc.backspaceCount = 0 then seam s1 else s1

/-! ### The ends of the tape (R12) -/

/-- The end sensor becomes active in forward motion (R12). -/
def tapeEnd (s : State) : State :=
  let s1 := stopTape (cutRead s)
  let s2 := raise .tapeEnd (s1.setTrc { s1.trc with
    endLatch := true, pausePoint := none, markDue := false, rewindDue := s.sto.options.autoRewind })
  beginClose .tapeEnd (completeHeld .failed .notReached s2)

/-- SEEK ENTRY goes on from the leader with its directory read (R11); its locate record stays, now forward (log 15). -/
def seekReads (s : State) : State :=
  beginDirRead (s.setTrc { s.trc with locate := s.trc.locate.map fun l => { l with direction := .forward } })

/-- The start sensor becomes active in reverse motion (R12): three stages go on from it. -/
def tapeStart (s : State) : State :=
  let s1 := exactAtZero (raise .tapeStart s)
  match s.trc.state, s.trc.phase with
  | .dirWrite, _ => setPhase .writeLead s1
  | .locate, .seekRewind => seekReads s1
  | .lockup, _ => beginForwardRun s1
  | _, _ => completeHeld .failed .notReached (stopTape s1)

/-! ### Locate and seek (R10, R11) -/

/-- The direction from a current value to a target (R10). -/
def directionTo (current target : Int) : Direction := if current < target then .forward else .reverse

/-- A locate with its command already in flight: the rest of an ABSOLUTE LOCATE (R10, R11). -/
def continueLocate (target : Int) (e : EndAction) (s : State) : State :=
  if (s.tcb.absPos : Int) = target then completeHeld .done .none (takeEndAction e s)
  else
    let d := directionTo s.tcb.absPos target
    let s1 := clearLatchFor d s
    if s.leaderAhead d then completeHeld .failed .notReached (stopTape s1)
    else
      beginLocate { kind := .absolute, target := some target, remaining := 0, direction := d, endAction := e } s1

/-- Entry `k` of the directory, if it is held. -/
def State.entry (s : State) (k : Nat) : Option DirEntry := if k = 0 then none else s.dir.image[k - 1]?

/-- SEEK ENTRY goes on from the end of its read (R11). -/
def continueSeek (x : SeekEntry) (s : State) : State :=
  match s.dir.state with
  | .damaged | .unknown => completeHeld .failed .unreadable s
  | .valid | .blank =>
    match s.entry x.entry with
    | none => completeHeld .failed .range s
    | some e => continueLocate e.start x.endAction s

/-- A directory read ends and the TRC stops; a seek goes on (R4, R11, R52). -/
def finishRead (ending : ReadEnding) (s : State) : State :=
  let s1 := stopTape (readEnds ending s)
  match s.trc.seek with
  | none => s1
  | some x => continueSeek x s1

/-- The target of a locate is reached: the end action, and DONE (R10). -/
def targetReached (l : LocateTarget) (s : State) : State := completeHeld .done .none (takeEndAction l.endAction s)

/-- The locate record's target is reached, as the counters now stand (R10). -/
def State.targetStands (s : State) (l : LocateTarget) : Bool :=
  decide (s.trc.state = .locate) && decide (s.trc.phase = .wind) &&
  (match l.kind with
   | .counter => decide (l.target = some s.tcb.relCounter)
   | .absolute => decide (l.target = some (s.tcb.absPos : Int))
   | .index => decide (l.remaining = 0))

/-- A marked pulse lowers the remaining marks of an INDEX record (R10, R30). -/
def countMark (marked : Bool) (s : State) : State :=
  match s.trc.locate with
  | some l =>
    if marked ∧ l.kind = .index then s.setTrc { s.trc with locate := some { l with remaining := l.remaining - 1 } } else s
  | none => s

/-- The locate's part of a pulse (R10). -/
def locatePulse (marked : Bool) (s : State) : State :=
  let s1 := countMark marked s
  match s1.trc.locate with
  | some l => if s1.targetStands l then targetReached l s1 else s1
  | none => s1

/-! ### Faults and dew (R20 to R23) -/

/-- The TRC enters FAULT with a reply for the command in flight, and reports a transport fault (R23). -/
def faultWith (o : ReplyOutcome) (r : Reason) (s : State) : State :=
  reportClose .transport (completeHeld o r (enterFault s))

/-- Dew in a threaded state (R20). -/
def dewStop (s : State) : State :=
  reportClose .dew (beginDewHold (completeHeld .failed .dew (cutRead s)))

/-! ### Directory write (R18, R61) -/

/-- DIR_WRITE: the wind back to the start sensor, or the forward part at once when the tape is there: no
TAPE_START then, since the sensor does not become active (R12, log 77). -/
def beginDirWrite (s : State) : State :=
  let s1 := beginMotion .dirWrite .writeRewind s
  if s.pins.startSensor then setPhase .writeLead (exactAtZero s1) else s1

/-- Writing reaches absolute 75: the write is complete and the cassette is unloaded (R18, R61). -/
def dirWriteCompletes (s : State) : State := beginUnloading (writeCompletes s)

/-- The leader is left in DIR_WRITE: writing begins with the servo locked, else EJECT fails LOCK (R18, R61). -/
def leaveLeaderToWrite (s : State) : State :=
  if s.trc.servoLocked then setPhase .writing (buildWriteImage s)
  else completeHeld .failed .lock (stopTape s)

/-! ### One control pulse (R10, R15, R17, R18, R26 to R31, R51, R55) -/

/-- Whether the pulse is marked: the pulses the TRC writes carry the mark it orders (R15, R17). -/
def State.pulseMark (s : State) (marked : Bool) : Bool := if s.trc.writing then (s.trc.state = .record && s.trc.markDue) else marked

/-- The counters, the blank tests and the written end take a pulse (R26 to R31, R51, R55). -/
def countPulse (dir : Direction) (marked : Bool) (s : State) : State :=
  let s1 := s.setTcb (s.tcb.pulse dir (s.pulseMark marked))
  let s2 := s1.setDir { s1.dir with blankTest := none }
  if s2.trc.state = .record then followWriting (s2.setTrc { s2.trc with markDue := false }) else s2

/-- The reserve reaches absolute 75 (R15). -/
def State.reserveDone (s : State) : Bool := decide (s.trc.phase = .reserve) && decide (75 ≤ s.tcb.absPos)

/-- The directory region is passed (R4). -/
def State.regionPassed (s : State) : Bool := decide (s.trc.state = .dirRead) && s.tcb.exact && decide (75 ≤ s.tcb.absPos)

/-- The last frame of the region is frame 74 (R74). -/
def RecField.closesRegion (f : RecField) : Bool := decide (f.parity = .second) && f.frame.any fun n => decide (74 ≤ n)

/-- The directory is written: the position is 75, and both fields of frame 74 have been given to REC (R18, R74). -/
def State.dirWritten (s : State) : Bool :=
  decide (s.trc.phase = .writing) && decide (75 ≤ s.tcb.absPos) && s.lpt.recField.any RecField.closesRegion

/-- The lock-up's part of a pulse (R15, R17). -/
def lockupPulse (s : State) : State :=
  match s.trc.phase with
  | .reserve => if s.reserveDone then beginLockPhase s else s
  | .backspace =>
    let s1 := s.setTrc { s.trc with backspaceCount := s.trc.backspaceCount + 1 }
    if 50 ≤ s1.trc.backspaceCount then beginForwardRun s1 else s1
  | .forwardRun =>
    let s1 := s.setTrc { s.trc with backspaceCount := s.trc.backspaceCount - 1 }
    if s1.trc.backspaceCount = 0 then seam s1 else s1
  | _ => s

/-- One control pulse. The directory write is not complete with it: the two fields of its last frame follow (R74; log 31). -/
def controlPulse (dir : Direction) (marked : Bool) (s : State) : State :=
  let s1 := countPulse dir marked s
  match s.trc.state with
  | .lockup => lockupPulse s1
  | .dirRead => if s1.regionPassed then finishRead .passed s1 else s1
  | .locate => locatePulse marked s1
  | .record => takeHeldPause s1
  | .play | .windFwd | .windBack | .searchFwd | .searchBack | .dirWrite | .stopped | .playPause | .recordPause | .empty
  | .loading | .unloading | .ejected | .dewHold | .fault => s1

/-! ### Rest (R8, R12, R13, R19, R20) -/

/-- A record start order held for the at-rest event is taken (R13). -/
def takeHeldStart (s : State) : State :=
  match s.trc.heldStart with
  | none => s
  | some (speed, index) => if s.trc.state = .stopped then beginLockup speed index s else s

/-- The session is CLOSING. -/
def State.closing (s : State) : Bool := s.sch.session.any fun x => decide (x.state = .closing)

/-- The motors have come to rest (R8, R13, R19, R20). -/
def atRest (s : State) : State :=
  let s1 := s.setTrc { s.trc with atRestMark := false }
  match s.trc.state with
  | .stopped =>
    if s1.closing then finishClose s1
    else
      let s2 := if s1.holds [codeStop] then completeHeld .done .none s1 else s1
      autoRewind (takeHeldStart s2)
  | .loading => runThreading s1
  | .unloading => runUnthreading .unthread s1
  | .dewHold => runUnthreading .dewUnthread s1
  | .empty | .dirRead | .play | .playPause | .record | .recordPause | .lockup | .windFwd | .windBack
  | .searchFwd | .searchBack | .locate | .dirWrite | .ejected | .fault => s1

/-! ### Threading ends (R3) -/

/-- The threaded switch closes in LOADING (R3). -/
def threadingEnds (s : State) : State :=
  if s.pins.dew then reportClose .dew (dewHoldAtOnce s)
  else
    let s0 := s.setTrc { s.trc with heldHalt := false }
    if s.pins.startSensor then
      if s.hasSession then takeHeldStart (dirUnknown (enter .stopped .idle s0)) else beginDirRead s0
    else takeHeldStart (dirUnknown (positionUnknown (enter .stopped .idle s0)))

/-- The unthreaded switch closes in DEW_HOLD: the cassette is pushed out for an EJECT, else the re-threading waits for
the dew to clear (R20). -/
def dewUnthreaded (s : State) : State :=
  if s.holds [codeEject] then beginPushOut s
  else if s.pins.dew then s.setTrc { s.trc with phase := .dewWait, unthreadingLimit := none }
  else beginRethread s

end Sys2Proof.Machine
end

