-- ==== Sys2Proof/Machine/TransportCommands.lean ====
section
/-! DEFINITION. The meanings of the transport commands and SET SPEED (R5 to R11, R14, R16, R18). -/

namespace Sys2Proof.Machine

/-! ### The checks of R5 -/

/-- Checks 1 to 7 of R5, in their order, for the command of a code. -/
def trcCheck (code : Nat) (s : State) : Option Reason :=
  if s.sto.power = .standby ∧ code ≠ codeEject then some .notOn
  else if s.trc.state = .empty ∨ s.trc.state = .ejected then some .noCassette
  else if s.trc.state = .fault ∧ code ≠ codeStop then some .fault
  else if s.trc.state = .dewHold ∧ code ≠ codeEject then some .dew
  else if s.trc.state = .loading ∨ s.trc.state = .dirWrite ∨ s.trc.state = .unloading then some .busy
  else if s.trc.state = .lockup ∧ code ≠ codeStop then some .busy
  else if s.hasSession ∧ code ≠ codeStop ∧ code ≠ codePause ∧ code ≠ codeRecord then some .running
  else none

/-- A transport command: STARTING, then the checks of R5, then its own rule (R5, R177). -/
def trcCommand (op : Cmd → State → State) : Cmd → State → State :=
  owned fun c s =>
    match trcCheck c.code s with
    | some r => refuse c r s
    | none => op c s

/-- The states in which a new motion or a RECORD is accepted: STOPPED and the user modes (R6, R9, R14). -/
def Trc.takesMotion (t : Trc) : Bool := t.state.isUserMode || decide (t.state = .stopped)

/-! ### PLAY, WIND, PICTURE SEARCH -/

/-- PLAY (R6). -/
def playOp (c : Cmd) (s : State) : State :=
  if s.pins.endSensor ∨ ¬ s.trc.takesMotion then refuse c .state s
  else if s.trc.state = .playPause then atOnce c resumePlay .done .none s
  else if s.trc.state = .play then atOnce c id .done .none s
  else holdTransport c (fun t => beginPlay (cutRead t)) s

/-- A wind or a picture search into a motion state, in a direction (R9). -/
def windOp (st : TState) (d : Direction) (c : Cmd) (s : State) : State :=
  if s.leaderAhead d ∨ ¬ s.trc.takesMotion then refuse c .state s
  else holdTransport c (fun t => beginMotion st .idle (clearLatchFor d (cutRead t))) s

/-- PICTURE SEARCH (R9, section 13.1). -/
def pictureOp (c : Cmd) (s : State) : State :=
  match parsePicture c.args with
  | none => refuse c .range s
  | some false => windOp .searchFwd .forward c s
  | some true => windOp .searchBack .reverse c s

/-! ### LOCATE, SEEK INDEX, SEEK ENTRY -/

/-- A locate to a target of a kind, its arguments in range (R10). -/
def locateOp (kind : LocateKind) (target : Int) (e : EndAction) (c : Cmd) (s : State) : State :=
  let current : Int := if kind = .counter then s.tcb.relCounter else s.tcb.absPos
  let d := directionTo current target
  if ¬ s.trc.takesMotion ∨ (kind = .absolute ∧ ¬ s.tcb.exact) then refuse c .state s
  else if current = target then atOnce c (fun t => takeEndAction e (cutRead t)) .done .none s
  else if s.leaderAhead d then
    atOnce c (fun t => stopTape (clearLatchFor d (cutRead t))) .failed .notReached s
  else
    holdTransport c (fun t => beginLocate
      { kind := kind, target := some target, remaining := 0, direction := d, endAction := e }
      (clearLatchFor d (cutRead t))) s

/-- LOCATE (R10). -/
def locateCommand (c : Cmd) (s : State) : State :=
  match parseLocate c.args with
  | none => refuse c .range s
  | some (kind, target, e) => locateOp kind target e c s

/-- SEEK INDEX (R10). -/
def seekIndexOp (c : Cmd) (s : State) : State :=
  match parseSeekIndex c.args with
  | none => refuse c .range s
  | some (marks, e) =>
    let d : Direction := if 0 < marks then .forward else .reverse
    if ¬ s.trc.takesMotion then refuse c .state s
    else if s.leaderAhead d then
      atOnce c (fun t => stopTape (clearLatchFor d (cutRead t))) .failed .notReached s
    else
      holdTransport c (fun t => beginLocate
        { kind := .index, target := none, remaining := marks.natAbs, direction := d, endAction := e }
        (clearLatchFor d (cutRead t))) s

/-- SEEK ENTRY's wind back to the start sensor; on the leader already, the read begins at once, without TAPE_START
(R11, R12, log 77). R11 does not name the state of that wind: the model's is LOCATE, with its own phase (log 15). -/
def beginSeek (k : Nat) (e : EndAction) (s : State) : State :=
  let s1 := beginMotion .locate .seekRewind (clearLatch (cutRead s))
  let s2 := s1.setTrc { s1.trc with
    seek := some { entry := k, endAction := e }
    locate := some { kind := .absolute, target := none, remaining := 0, direction := .reverse, endAction := e } }
  if s.pins.startSensor then seekReads (exactAtZero s2) else s2

/-- SEEK ENTRY (R11). -/
def seekEntryOp (c : Cmd) (s : State) : State :=
  match parseSeekEntry c.args with
  | none => refuse c .range s
  | some (k, e) =>
    if ¬ s.trc.takesMotion then refuse c .state s
    else if s.dir.state ≠ .unknown ∧ s.tcb.exact then
      match s.entry k with
      | none => refuse c .range s
      | some x => locateOp .absolute x.start e c s
    else holdTransport c (beginSeek k e) s

/-! ### STOP, PAUSE, RECORD -/

/-- A lock-up from STOPPED that has not yet written a session frame (R8). -/
def Trc.inFirstLockup (t : Trc) : Bool :=
  decide (t.state = .lockup) &&
  (decide (t.phase = .leaderClear) || decide (t.phase = .reserve) || decide (t.phase = .lock))

/-- The close reason of a host STOP (R8). -/
def stopReason (s : State) (x : Session) : EndReason :=
  if x.state = .starting ∨ s.trc.inFirstLockup then .failedStart else .userStop

/-- STOP leaves FAULT for the state the switches give (R24). Where that is EJECTED it is entered by a command, not kept
through a unit reset: the end latch and the history are cleared (R12, R42; log 65). -/
def leaveFault (s : State) : State :=
  let t := stateBySwitches s
  if t.trc.state = .ejected then clearHistory (clearLatch t) else t

/-- STOP (R8). -/
def stopOp (c : Cmd) (s : State) : State :=
  if s.trc.state = .fault then atOnce c leaveFault .done .none s
  else
    match s.sch.session with
    | some x => holdTransport c (beginClose (stopReason s x)) s
    | none =>
      if s.trc.state = .stopped then atOnce c id .done .none s
      else if s.trc.state = .playPause then atOnce c stopTape .done .none s
      else holdTransport c (fun t => stopTape (cutRead t)) s

/-- The manual resume of a session paused by the host (R16, R17). -/
def manualResume (s : State) : State :=
  let speed := s.currentSpeed
  let s1 := modSession (fun x => { x with state := .active, pauseCause := none }) s
  let s2 := match s1.runningEntry with
    | none => s1
    | some k => setEntryState k .recording s1
  beginBackspace speed s2

/-- The manual pause of a recording session (R16, R152). -/
def manualPause (s : State) : State :=
  let s1 := modSession (fun x => { x with state := .paused, pauseCause := some .manual }) (enterRecordPause s)
  match s1.runningEntry with
  | none => s1
  | some k => setEntryState k .paused s1

/-- PLAY_PAUSE with its pause timer (R7). -/
def enterPlayPause (s : State) : State :=
  let s1 := beginMotion .playPause .idle s
  s1.setTrc { s1.trc with pauseTimer := some fiveMinutes }

/-- The session is paused by the host. -/
def Session.pausedManual (x : Session) : Bool := x.state = .paused ∧ x.pauseCause = some .manual

/-- PAUSE (R7, R16). -/
def pauseOp (c : Cmd) (s : State) : State :=
  match s.sch.session with
  | some x =>
    if s.trc.state = .record ∧ x.state ≠ .paused then atOnce c manualPause .done .none s
    else if s.trc.state = .recordPause ∧ x.pausedManual then holdTransport c manualResume s
    else refuse c .state s
  | none =>
    if s.trc.state = .play then atOnce c enterPlayPause .done .none s
    else if s.trc.state = .playPause then holdTransport c resumePlay s
    else refuse c .state s

/-- The channel a manual session records: the view channel, else tuner A's (R151). -/
def State.manualChannel (s : State) : Option Nat :=
  match s.tun.view with
  | some (c, _) => some c
  | none => s.tun.tunerA.channel

/-- The source of a manual session: its channel's source, or for an EMPTY entry the source the view is on (R148;
log 13). -/
def State.manualSource (s : State) (c : Nat) : SourceKind :=
  match s.channel c with
  | some x => if x.isExt then .ext else .air
  | none => if s.tun.view.any (fun v => decide (v.2 = .external)) then .ext else .air

/-- A manual session opens (R151). -/
def openManual (c : Nat) (s : State) : State :=
  openSession (newSession none c (s.manualSource c) none .manual none s.trc.speedSetting) s

/-- RECORD with no session (R14). -/
def recordFresh (c : Cmd) (s : State) : State :=
  if s.pins.tab = .tabOut then refuse c .writeProtected s
  else if s.pins.endSensor ∨ ¬ s.trc.takesMotion then refuse c .state s
  else
    match s.manualChannel with
    | none => refuse c .state s
    | some n => holdTransport c (openManual n) s

/-- RECORD (R14, R16; for a label-paused session, log 16). -/
def recordOp (c : Cmd) (s : State) : State :=
  match s.sch.session with
  | none => recordFresh c s
  | some x =>
    if s.trc.state = .recordPause ∧ x.pausedManual then holdTransport c manualResume s
    else if x.state = .paused ∧ x.pauseCause = some .label then refuse c .state s
    else refuse c .running s

/-! ### EJECT, SET SPEED -/

/-- EJECT writes the directory first (R18). -/
def State.writesBeforeEject (s : State) : Bool :=
  s.dir.dirty && decide (s.pins.tab = .tabIn) && decide (s.dir.state ≠ .unknown)

/-- EJECT in DEW_HOLD waits for the unthreading, then pushes the cassette out (R20). Taken in re-threading it unthreads first,
and waits for a new UNTHREADED_SWITCH event even when that switch is still closed (log 23). -/
def ejectFromDew (s : State) : State :=
  match s.trc.phase with
  | .dewWait => beginPushOut s
  | .dewRethread => beginUnloading s
  | _ => s

/-- EJECT (R18 to R20). -/
def ejectOp (c : Cmd) (s : State) : State :=
  if s.trc.state = .dewHold then holdTransport c ejectFromDew s
  else
    holdTransport c (fun t =>
      let t1 := cutRead t
      if t1.writesBeforeEject then beginDirWrite t1
      else
        let t2 := t1.setTrc { t1.trc with locate := none, seek := none }
        beginUnloading t2) s

/-- SET SPEED (R14); the current speed may change with it (R43, R44). -/
def setSpeedOp (c : Cmd) (s : State) : State :=
  if c.args = [1] then done c (evalNearEnd (s.setTrc { s.trc with speedSetting := .one }))
  else if c.args = [2] then done c (evalNearEnd (s.setTrc { s.trc with speedSetting := .two }))
  else refuse c .range s

/-! ### Meanings -/

/-- PLAY (R6). -/
def execPlay (tag : Byte) (args : List Byte) (s : State) : Host.Outcome State Fault Refusal :=
  .next (takeCommand tag 1 args (trcCommand (noArgs playOp)) s)

/-- RECORD (R14, R16). -/
def execRecord (tag : Byte) (args : List Byte) (s : State) : Host.Outcome State Fault Refusal :=
  .next (takeCommand tag 2 args (trcCommand (noArgs recordOp)) s)

/-- PAUSE (R7, R16). -/
def execPause (tag : Byte) (args : List Byte) (s : State) : Host.Outcome State Fault Refusal :=
  .next (takeCommand tag 3 args (trcCommand (noArgs pauseOp)) s)

/-- STOP (R8). -/
def execStop (tag : Byte) (args : List Byte) (s : State) : Host.Outcome State Fault Refusal :=
  .next (takeCommand tag 4 args (trcCommand (noArgs stopOp)) s)

/-- WIND FORWARD (R9). -/
def execWindForward (tag : Byte) (args : List Byte) (s : State) : Host.Outcome State Fault Refusal :=
  .next (takeCommand tag 5 args (trcCommand (noArgs (windOp .windFwd .forward))) s)

/-- WIND BACK (R9). -/
def execWindBack (tag : Byte) (args : List Byte) (s : State) : Host.Outcome State Fault Refusal :=
  .next (takeCommand tag 6 args (trcCommand (noArgs (windOp .windBack .reverse))) s)

/-- PICTURE SEARCH (R9). -/
def execPictureSearch (tag : Byte) (args : List Byte) (s : State) : Host.Outcome State Fault Refusal :=
  .next (takeCommand tag 7 args (trcCommand pictureOp) s)

/-- LOCATE (R10). -/
def execLocate (tag : Byte) (args : List Byte) (s : State) : Host.Outcome State Fault Refusal :=
  .next (takeCommand tag 8 args (trcCommand locateCommand) s)

/-- SEEK INDEX (R10). -/
def execSeekIndex (tag : Byte) (args : List Byte) (s : State) : Host.Outcome State Fault Refusal :=
  .next (takeCommand tag 9 args (trcCommand seekIndexOp) s)

/-- SEEK ENTRY (R11). -/
def execSeekEntry (tag : Byte) (args : List Byte) (s : State) : Host.Outcome State Fault Refusal :=
  .next (takeCommand tag 10 args (trcCommand seekEntryOp) s)

/-- EJECT (R18, R19). -/
def execEject (tag : Byte) (args : List Byte) (s : State) : Host.Outcome State Fault Refusal :=
  .next (takeCommand tag 11 args (trcCommand (noArgs ejectOp)) s)

/-- SET SPEED (R14). -/
def execSetSpeed (tag : Byte) (args : List Byte) (s : State) : Host.Outcome State Fault Refusal :=
  .next (takeCommand tag 12 args (owned setSpeedOp) s)

end Sys2Proof.Machine
end

