-- ==== Sys2Proof/Machine/TapeCommands.lean ====
section
/-! DEFINITION. The meanings of the tape counter block's and the tape directory's commands (R32 to R37, R60). -/

namespace Sys2Proof.Machine

/-- ZERO COUNTER is refused BUSY in these states (R32). -/
def Trc.comparesCounter (t : Trc) : Bool :=
  decide (t.state = .lockup) || decide (t.state = .recordPause) ||
  (decide (t.state = .locate) && t.locate.any fun l => decide (l.kind = .counter))

/-- ZERO COUNTER (R32). -/
def zeroCounterOp (c : Cmd) (s : State) : State :=
  if s.trc.comparesCounter then refuse c .busy s
  else
    reply c .done .none (bytes3s s.tcb.relCounter ++ bytes3s s.tcb.indexCount)
      (s.setTcb { s.tcb with relCounter := 0, indexCount := 0 })

/-- The points part `p` writes into the staging record's slots (R34). -/
def stagePoints (p : Nat) (points : List Nat) (x : ProfileStaging) : ProfileStaging :=
  let first := (partSlots p).1
  { x with slots := x.slots.take first ++ points.map some ++ x.slots.drop (first + points.length) }

/-- STAGE PROFILE with its part number split off (R34). -/
def stageProfilePart (p : Nat) (rest : List Byte) (c : Cmd) (s : State) : State :=
  if 8 < p then refuse c .range s
  else if p = 0 then
    match rest with
    | [index, code] =>
      if 7 < index.toNat then refuse c .range s
      else
        done c (s.setTcb { s.tcb with
          staging := { header := some (index.toNat, code.toNat), slots := List.replicate 33 none } })
    | _ => refuse c .range s
  else if rest.length ≠ 3 * (partSlots p).2 then refuse c .range s
  else if s.tcb.staging.header.isNone then refuse c .state s
  else done c (s.setTcb { s.tcb with staging := stagePoints p (parsePoints rest) s.tcb.staging })

/-- STAGE PROFILE (R34). -/
def stageProfileOp (c : Cmd) (s : State) : State :=
  match c.args with
  | p :: rest => stageProfilePart p.toNat rest c s
  | [] => refuse c .range s

/-- COMMIT PROFILE (R35); a commit to the selected profile clears the history (R37). -/
def commitProfileOp (c : Cmd) (s : State) : State :=
  match s.tcb.staging.header with
  | none => refuse c .incomplete s
  | some (index, code) =>
    if s.tcb.staging.slots.any Option.isNone then refuse c .incomplete s
    else
      let points := s.tcb.staging.slots.map fun x => x.getD 0
      if ¬ pointsInRange points then refuse c .range s
      else
        let s1 := setProfileEntry index { valid := true, code := code, points := points } s
        let s2 := markRecord (.profile index) (s1.setTcb { s1.tcb with staging := ProfileStaging.empty })
        done c (if s.tcb.selected = index then clearHistory s2 else s2)

/-- READ PROFILE (R36). -/
def readProfileOp (c : Cmd) (s : State) : State :=
  match c.args with
  | [index, part] =>
    if 7 < index.toNat ∨ 8 < part.toNat then refuse c .range s
    else
      let p := s.profile index.toNat
      if part = 0 then
        reply c .done .none
          [index, flagByte p.valid, Byte.ofNat p.code, flagByte (s.tcb.selected = index.toNat)] s
      else reply c .done .none (pointBytes (p.part part.toNat)) s
  | _ => refuse c .range s

/-- A cassette is threaded: the transport is in a threaded state of R1. FAULT and UNLOADING do not count, though the tape may
still be round the drum there, which R37 leaves open (log 70). -/
def State.threadedCassette (s : State) : Bool := s.trc.state.isThreaded

/-- SET PROFILE (R37); the directory's header follows while a cassette is threaded (R59). -/
def setProfileOp (c : Cmd) (s : State) : State :=
  match oneByte c.args with
  | none => refuse c .range s
  | some p =>
    if 7 < p then refuse c .range s
    else
      let s1 := selectProfile p s
      done c (if s.threadedCassette then headerFollows p s1 else s1)

/-- READ ENTRY (R60). -/
def readEntryOp (c : Cmd) (s : State) : State :=
  match oneByte c.args with
  | none => refuse c .range s
  | some k =>
    if 24 < k then refuse c .range s
    else if k = 0 then reply c .done .none (dirSummary s.dir) s
    else if s.dir.state = .unknown then refuse c .state s
    else
      match s.entry k with
      | none => refuse c .range s
      | some e => reply c .done .none (entryResult e) s

/-- The image without entry `k` (R60). -/
def removeEntry (k : Nat) (image : List DirEntry) : List DirEntry := image.eraseIdx (k - 1)

/-- DELETE ENTRY (R60). -/
def deleteEntryOp (c : Cmd) (s : State) : State :=
  match oneByte c.args with
  | none => refuse c .range s
  | some k =>
    if 24 < k ∨ k = 0 then refuse c .range s
    else if s.dir.state = .unknown then refuse c .state s
    else
      match s.entry k with
      | none => refuse c .range s
      | some e =>
        if s.trc.state = .dirWrite ∨ s.trc.state = .unloading then refuse c .busy s
        else if s.pins.tab = .tabOut then refuse c .writeProtected s
        else if e.isOpen then refuse c .running s
        else done c (setImage (removeEntry k s.dir.image) s)

/-! ### Meanings -/

/-- ZERO COUNTER (R32). -/
def execZeroCounter (tag : Byte) (args : List Byte) (s : State) : Host.Outcome State Fault Refusal :=
  .next (takeCommand tag 13 args (owned (noArgs zeroCounterOp)) s)

/-- STAGE PROFILE (R34). -/
def execStageProfile (tag : Byte) (args : List Byte) (s : State) : Host.Outcome State Fault Refusal :=
  .next (takeCommand tag 14 args (owned stageProfileOp) s)

/-- COMMIT PROFILE (R35). -/
def execCommitProfile (tag : Byte) (args : List Byte) (s : State) : Host.Outcome State Fault Refusal :=
  .next (takeCommand tag 15 args (owned (noArgs commitProfileOp)) s)

/-- READ PROFILE (R36). -/
def execReadProfile (tag : Byte) (args : List Byte) (s : State) : Host.Outcome State Fault Refusal :=
  .next (takeCommand tag 16 args (owned readProfileOp) s)

/-- SET PROFILE (R37). -/
def execSetProfile (tag : Byte) (args : List Byte) (s : State) : Host.Outcome State Fault Refusal :=
  .next (takeCommand tag 17 args (owned setProfileOp) s)

/-- READ ENTRY (R60). -/
def execReadEntry (tag : Byte) (args : List Byte) (s : State) : Host.Outcome State Fault Refusal :=
  .next (takeCommand tag 18 args (owned readEntryOp) s)

/-- DELETE ENTRY (R60). -/
def execDeleteEntry (tag : Byte) (args : List Byte) (s : State) : Host.Outcome State Fault Refusal :=
  .next (takeCommand tag 19 args (owned deleteEntryOp) s)

end Sys2Proof.Machine
end

