-- ==== Sys2Proof/Machine/TunerCommands.lean ====
section
/-! DEFINITION. The meanings of the tuning controller's, the channel search's and cue capture's commands (R79 to R81, R91,
R96, R102, R109, R110, R118, R119). -/

namespace Sys2Proof.Machine

/-! ### VIEW (R91 to R93) -/

/-- Code of a view source: A, B, EXT (R91). -/
def ViewSource.code : ViewSource → Nat
  | .tunerA => 0 | .tunerB => 1 | .external => 2

/-- A VALID entry with its skip flag clear. -/
def State.scannable (s : State) (c : Nat) : Bool := (s.channel c).any fun x => !x.skip

/-- The channels of a NEXT scan: upward from the one after the view channel, wrapping, round to it (R91). -/
def nextOrder (view : Option Nat) : List Nat :=
  let first := match view with
    | none => 0
    | some v => v + 1
  (List.range 100).map fun i => (first + i) % 100

/-- The channels of a PREVIOUS scan (R91). -/
def previousOrder (view : Option Nat) : List Nat :=
  let first := match view with
    | none => 99
    | some v => v + 99
  (List.range 100).map fun i => (first + 100 - i) % 100

/-- VIEW of a channel found (R91 to R93). -/
def viewChannel (n : Nat) (c : Cmd) (s : State) : State :=
  match viewTarget n s with
  | none => refuse c .tunerBusy s
  | some v =>
    let result := [Byte.ofNat n, Byte.ofNat v.code]
    if s.tun.view = some (n, v) then reply c .done .none result s
    else reply c .done .none result (takeView n v s)

/-- A scan's channel is viewed, or refused STATE when it finds none (R91). -/
def viewScan (order : List Nat) (c : Cmd) (s : State) : State :=
  match order.find? s.scannable with
  | none => refuse c .state s
  | some n => viewChannel n c s

/-- VIEW (R91): 0 to 99, 253 NEXT, 254 PREVIOUS, 255 NONE (section 13.1). NONE has no channel and no source for R91's two bytes:
its DONE carries an empty result (log 71). -/
def viewOp (c : Cmd) (s : State) : State :=
  if s.sto.power = .standby then refuse c .notOn s
  else
    match oneByte c.args with
    | none => refuse c .range s
    | some n =>
      let viewed := s.tun.view.map Prod.fst
      if n = 253 then viewScan (nextOrder viewed) c s
      else if n = 254 then viewScan (previousOrder viewed) c s
      else if n = 255 then done c (releaseView s)
      else if 99 < n then refuse c .range s
      else if (s.channel n).isNone then refuse c .state s
      else viewChannel n c s

/-! ### Channels (R79 to R81) -/

/-- STAGE CHANNEL (R79). -/
def stageChannelOp (c : Cmd) (s : State) : State :=
  match parseChannel c.args with
  | none => refuse c .range s
  | some x => done c (s.setTun { s.tun with staging := some x })

/-- COMMIT CHANNEL (R80). -/
def commitChannelOp (c : Cmd) (s : State) : State :=
  match oneByte c.args with
  | none => refuse c .range s
  | some n =>
    if 99 < n then refuse c .range s
    else
      match s.tun.staging with
      | none => refuse c .state s
      | some x =>
        if x.inRange then
          let s1 := setChannel n (some x) s
          done c (markRecord (.channel n) (s1.setTun { s1.tun with staging := none }))
        else refuse c .range s

/-- A timer entry that is not EMPTY names channel `n` (R81). -/
def State.channelReferenced (s : State) (n : Nat) : Bool :=
  s.sch.timers.any fun e => decide (e.state ≠ .empty) && e.defn.any fun t => decide (t.channel = n)

/-- CLEAR CHANNEL (R81). -/
def clearChannelOp (c : Cmd) (s : State) : State :=
  match oneByte c.args with
  | none => refuse c .range s
  | some n =>
    if 99 < n then refuse c .range s
    else if (s.channel n).isNone then done c s
    else if s.channelReferenced n then refuse c .referenced s
    else done c (markRecord (.channel n) (setChannel n none s))

/-- READ CHANNEL (R81): the state, 0 EMPTY or 1 VALID, and the fields. -/
def readChannelOp (c : Cmd) (s : State) : State :=
  match oneByte c.args with
  | none => refuse c .range s
  | some n =>
    if 99 < n then refuse c .range s
    else
      match s.channel n with
      | none => reply c .done .none [0] s
      | some x => reply c .done .none (1 :: channelFields x) s

/-- LOAD IR PROFILE (R96). -/
def loadIrOp (c : Cmd) (s : State) : State :=
  match parseIr c.args with
  | none => refuse c .range s
  | some p => done c (markRecord .irProfile (s.setTun { s.tun with irProfile := p }))

/-! ### Channel search (R102, R109, R110) -/

/-- The start frequency of START SEARCH: 900 when absent (R102). -/
def searchStart : List Byte → Option Nat
  | [] => some 900
  | [h, l] => if 900 ≤ nat2 h l ∧ nat2 h l ≤ 17200 then some (nat2 h l) else none
  | _ => none

/-- The search record of an accepted START SEARCH, and the request for tuner B (R102, R103). -/
def beginSearch (f : Nat) (s : State) : State :=
  let s1 := modSearch (fun _ =>
    { state := .suspended, frequency := f, phase := .step, count := 0, network := none, added := 0, result := .none }) s
  if s.tun.tunerB.owner = .none then searchTakesB s1 else s1

/-- START SEARCH (R102). -/
def startSearchOp (c : Cmd) (s : State) : State :=
  match searchStart c.args with
  | none => refuse c .range s
  | some f =>
    if s.tun.search.isRunning then refuse c .busy s
    else reply c .started .none [] (beginSearch f s)

/-- END SEARCH (R109). -/
def endSearchOp (c : Cmd) (s : State) : State :=
  if s.tun.search.isRunning then done c (endSearch .stopped s) else refuse c .state s

/-- The code of a search state. -/
def SearchState.code : SearchState → Nat
  | .idle => 0 | .running => 1 | .suspended => 2

/-- The code of a search phase. -/
def SearchPhase.code : SearchPhase → Nat
  | .step => 0 | .confirm => 1 | .trim => 2 | .name => 3

/-- The code of a search's last result. -/
def SearchResult.code : SearchResult → Nat
  | .none => 0 | .done => 1 | .stopped => 2 | .full => 3 | .cancelled => 4 | .mains => 5

/-- READ SEARCH (R110). -/
def readSearchOp (c : Cmd) (s : State) : State :=
  let r := s.tun.search
  reply c .done .none ([Byte.ofNat r.state.code, Byte.ofNat r.phase.code] ++ bytes2 r.frequency ++
    [Byte.ofNat r.added, Byte.ofNat r.result.code, Byte.ofNat r.count]) s

/-! ### The cue ring (R118, R119) -/

/-- The code of a cue status. -/
def CueStatus.code : CueStatus → Nat
  | .run => 0 | .hold => 1 | .clear => 2

/-- The code of a tuner. -/
def tunerCode : TunerId → Nat
  | .a => 0 | .b => 1

/-- A ring entry in the order of READ CUE's result (R118). -/
def ringBytes (e : RingEntry) : List Byte :=
  [Byte.ofNat (tunerCode e.tuner), Byte.ofNat (channelCode e.channel)] ++ bytes2 e.cue.network ++ labelBytes e.cue.label ++
  [Byte.ofNat e.cue.status.code] ++ e.at_.date.bytes ++
  [Byte.ofNat e.at_.hour, Byte.ofNat e.at_.minute, Byte.ofNat e.at_.second, Byte.ofNat e.status.code]

/-- READ CUE (R118). -/
def readCueOp (c : Cmd) (s : State) : State :=
  match s.cue.ring with
  | [] => refuse c .state s
  | e :: _ => reply c .done .none (Byte.ofNat s.cue.ring.length :: ringBytes e) s

/-- RELEASE CUE (R119). -/
def releaseCueOp (c : Cmd) (s : State) : State :=
  match s.cue.ring with
  | [] => refuse c .state s
  | _ :: rest => reply c .done .none [Byte.ofNat rest.length] (s.setCue { s.cue with ring := rest })

/-! ### Meanings -/

/-- VIEW (R91). -/
def execView (tag : Byte) (args : List Byte) (s : State) : Host.Outcome State Fault Refusal :=
  .next (takeCommand tag 20 args (owned viewOp) s)

/-- STAGE CHANNEL (R79). -/
def execStageChannel (tag : Byte) (args : List Byte) (s : State) : Host.Outcome State Fault Refusal :=
  .next (takeCommand tag 21 args (owned stageChannelOp) s)

/-- COMMIT CHANNEL (R80). -/
def execCommitChannel (tag : Byte) (args : List Byte) (s : State) : Host.Outcome State Fault Refusal :=
  .next (takeCommand tag 22 args (owned commitChannelOp) s)

/-- CLEAR CHANNEL (R81). -/
def execClearChannel (tag : Byte) (args : List Byte) (s : State) : Host.Outcome State Fault Refusal :=
  .next (takeCommand tag 23 args (owned clearChannelOp) s)

/-- READ CHANNEL (R81). -/
def execReadChannel (tag : Byte) (args : List Byte) (s : State) : Host.Outcome State Fault Refusal :=
  .next (takeCommand tag 24 args (owned readChannelOp) s)

/-- LOAD IR PROFILE (R96). -/
def execLoadIrProfile (tag : Byte) (args : List Byte) (s : State) : Host.Outcome State Fault Refusal :=
  .next (takeCommand tag 25 args (owned loadIrOp) s)

/-- START SEARCH (R102). -/
def execStartSearch (tag : Byte) (args : List Byte) (s : State) : Host.Outcome State Fault Refusal :=
  .next (takeCommand tag 26 args (owned startSearchOp) s)

/-- END SEARCH (R109). -/
def execEndSearch (tag : Byte) (args : List Byte) (s : State) : Host.Outcome State Fault Refusal :=
  .next (takeCommand tag 27 args (owned (noArgs endSearchOp)) s)

/-- READ SEARCH (R110). -/
def execReadSearch (tag : Byte) (args : List Byte) (s : State) : Host.Outcome State Fault Refusal :=
  .next (takeCommand tag 28 args (owned (noArgs readSearchOp)) s)

/-- READ CUE (R118). -/
def execReadCue (tag : Byte) (args : List Byte) (s : State) : Host.Outcome State Fault Refusal :=
  .next (takeCommand tag 29 args (owned (noArgs readCueOp)) s)

/-- RELEASE CUE (R119). -/
def execReleaseCue (tag : Byte) (args : List Byte) (s : State) : Host.Outcome State Fault Refusal :=
  .next (takeCommand tag 30 args (owned (noArgs releaseCueOp)) s)

end Sys2Proof.Machine
end

