-- ==== Sys2Proof/Machine/TimerCommands.lean ====
section
/-! DEFINITION. The meanings of the clock's and the timer scheduler's commands (R130, R133, R136 to R141). -/

namespace Sys2Proof.Machine

/-! ### Clock (R130, R133) -/

/-- SET CLOCK (R130). -/
def setClockOp (c : Cmd) (s : State) : State :=
  match parseClock c.args with
  | none => refuse c .range s
  | some t => reply c .done .none [Byte.ofNat t.date.dow] (applySet t .manual s)

/-- READ CLOCK (R133). -/
def readClockOp (c : Cmd) (s : State) : State :=
  let k := s.clk
  reply c .done .none (k.now.date.bytes ++
    [Byte.ofNat k.dow, Byte.ofNat k.now.hour, Byte.ofNat k.now.minute, Byte.ofNat k.now.second,
     Byte.ofNat k.status.code, onOffByte k.autoSet]) s

/-! ### STAGE TIMER, COMMIT TIMER (R136 to R139, R171) -/

/-- STAGE TIMER (R136). -/
def stageTimerOp (c : Cmd) (s : State) : State :=
  match parseTimer c.args with
  | none => refuse c .range s
  | some t => done c (s.setSch { s.sch with staging := some t })

/-- Two definitions differ in what a commit onto the running entry may not change (R137, order 8). -/
def TimerDef.differsRunning (t u : TimerDef) : Bool :=
  decide (t.channel ≠ u.channel) || decide (t.rep ≠ u.rep) || decide (t.startHour ≠ u.startHour) ||
  decide (t.startMinute ≠ u.startMinute) || decide (t.speed ≠ u.speed)

/-- A ONCE repeat. -/
def Repeat.isOnce : Repeat → Bool
  | .once _ => true
  | .daily => false
  | .weekdays => false
  | .weekly _ => false

/-- The refusal of COMMIT TIMER k, by the order of R137. -/
def commitTimerCheck (k : Nat) (s : State) : Option Reason :=
  if 15 < k then some .range
  else
    match s.sch.staging with
    | none => some .state
    | some t =>
      if ¬ t.inRange then some .range
      else
        match s.channel t.channel with
        | none => some .referenced
        | some ch =>
          if t.label.isSome ∧ ch.isExt then some .range
          else if t.rep.isOnce ∧ s.clk.status = .unset then some .unsetClock
          else if s.runningEntry = some k then
            if s.closing then some .busy
            else if (s.timer k).defn.all (fun u => t.differsRunning u) then some .running
            else none
          else none

/-- A commit onto an entry that is not running (R138); the reassessment of R163 follows in `commitTimerOp`. -/
def commitIdle (k : Nat) (t : TimerDef) (s : State) : State :=
  let was := (s.timer k).state
  let s1 := modTimer k (fun e =>
    { e with defn := some t, deferred := false, interrupted := false, state := .armed,
             next := t.newOccurrence s.nowSeconds }) s
  let s2 := if was = .waiting then reassessWatch s1 else s1
  if s2.clk.status = .unset then s2
  else
    match t.rep, (s2.timer k).occurrence with
    | .once _, some (_, stop) => if s2.before stop then evalEntry k s2 else missOccurrence k .clock s2
    | _, _ => evalEntry k s2

/-- The new stop of the session's occurrence, on the occurrence's own date (R139). -/
def newOccurrenceOf (t : TimerDef) (old : Nat × Nat) : Nat × Nat := (old.1, t.stopOn (old.1 / 1440))

/-- The label of the running entry changes (R171): the new label, rule CLOCK, marks cleared; a label pause is resumed;
the new label's deadline, and its cue. -/
def relabel (label : Option Label) (s : State) : State :=
  let paused : Bool := s.sch.session.any fun x => decide (x.state = .paused) && decide (x.pauseCause = some .label)
  let s1 := modSession (fun x =>
    { x with label := label, stopRule := .clock, holdPending := false, cueLoss := false, lossTimer := none,
             deadline := if label.isSome then x.occurrence.map fun o => waitLimit o.2 else none }) s
  let s2 := if paused then labelResume s1 else s1
  if label.isSome then testSessionCue s2 else s2

/-- A commit onto the running entry (R139, R171). -/
def commitRunning (k : Nat) (t : TimerDef) (s : State) : State :=
  let oldLabel := (s.timer k).defn.bind TimerDef.label
  let s1 := modTimer k (fun e => { e with defn := some t }) s
  let s2 := modSession (fun x =>
    let occ := x.occurrence.map (newOccurrenceOf t)
    { x with occurrence := occ, deadline := if x.deadline.isSome then occ.map fun o => waitLimit o.2 else none }) s1
  let s3 := if oldLabel = t.label then s2 else relabel t.label s2
  evalClockStop s3

/-- COMMIT TIMER (R137). The completions that its effects bring come before its own DONE, an order R138 leaves open
(log 53). -/
def commitTimerOp (c : Cmd) (s : State) : State :=
  match oneByte c.args with
  | none => refuse c .range s
  | some k =>
    match commitTimerCheck k s, s.sch.staging with
    | some r, _ => refuse c r s
    | none, none => refuse c .state s
    | none, some t =>
      let s1 := s.setSch { s.sch with staging := none }
      let s2 := if s.runningEntry = some k then commitRunning k t s1 else commitIdle k t s1
      done c (markRecord (.timer k) (reassessWatch s2))

/-! ### READ TIMER (R141, section 13.6) -/

/-- The code of an entry state, its place in the table of R135. -/
def EntryState.code : EntryState → Nat
  | .empty => 0 | .armed => 1 | .waiting => 2 | .recording => 3 | .paused => 4 | .done => 5 | .missed => 6

/-- A date and time in six bytes. -/
def dateTimeBytes (t : DateTime) : List Byte :=
  t.date.bytes ++ [Byte.ofNat t.hour, Byte.ofNat t.minute, Byte.ofNat t.second]

/-- READ TIMER k, part 0. An entry whose next occurrence is not computed yet gives zeros (log 24). -/
def timerPart0 (e : TimerEntry) : List Byte :=
  match e.defn with
  | none => [Byte.ofNat e.state.code]
  | some t =>
    [Byte.ofNat e.state.code] ++ timerFields t ++
    (match e.next with
     | none => [0, 0, 0]
     | some d => (dateOfDay d).bytes) ++ [flagByte e.deferred, flagByte e.interrupted]

/-- READ TIMER k, part 1. -/
def timerPart1 (e : TimerEntry) : List Byte :=
  match e.outcome with
  | none => [0]
  | some o =>
    [1, flagByte o.lastStart.isSome] ++
    (match o.lastStart with
     | none => [0, 0, 0, 0, 0, 0]
     | some t => dateTimeBytes t) ++
    dateTimeBytes o.lastStop ++
    [Byte.ofNat o.reason.code, Byte.ofNat (o.entryNo.getD 0), flagBits [o.notIndexed, o.seamUnlocked, o.switched]]

/-- The code of a source kind. -/
def SourceKind.code : SourceKind → Nat
  | .air => 0 | .ext => 1

/-- The code of a start phase. -/
def StartPhase.code : StartPhase → Nat
  | .source => 0 | .irWait => 1 | .lockup => 2

/-- The code of a pause cause; 0 while not PAUSED. -/
def pauseCauseCode : Option PauseCause → Nat
  | some .label => 1
  | some .manual => 0
  | none => 0

/-- The code of a stop rule. -/
def StopRule.code : StopRule → Nat
  | .clock => 0 | .label => 1 | .manual => 2

/-- READ TIMER 16, part 0: the start phase and the pause cause are shown as they last stood (log 59). -/
def sessionPart0 (x : Session) : List Byte :=
  [Byte.ofNat (originCode x.origin), Byte.ofNat x.channel, Byte.ofNat x.source.code, Byte.ofNat x.state.code,
   Byte.ofNat x.startPhase.code, Byte.ofNat ((x.firstSpeed.map Speed.toNat).getD 0), Byte.ofNat x.currentSpeed.toNat,
   flagByte x.autoMark, Byte.ofNat (pauseCauseCode x.pauseCause), Byte.ofNat x.stopRule.code,
   flagBits [x.notIndexed, x.seamUnlocked, x.switched, x.holdPending, x.cueLoss, x.clearNote],
   Byte.ofNat (x.entryNo.getD 0), Byte.ofNat (reasonCode x.closeReason)] ++ bytes3 (x.switchFrame.getD 0)

/-- Five bytes of an absolute minute; zeros when absent. -/
def minuteBytes : Option Nat → List Byte
  | none => [0, 0, 0, 0, 0]
  | some m =>
    let t := dateTimeOfMinute m
    t.date.bytes ++ [Byte.ofNat t.hour, Byte.ofNat t.minute]

/-- READ TIMER 16, part 1. -/
def sessionPart1 (x : Session) : List Byte :=
  minuteBytes (x.occurrence.map Prod.fst) ++ minuteBytes (x.occurrence.map Prod.snd) ++ minuteBytes x.deadline ++
  labelBytes x.label

/-- READ TIMER (R141). -/
def readTimerOp (c : Cmd) (s : State) : State :=
  match c.args with
  | [k, part] =>
    if 16 < k.toNat ∨ 1 < part.toNat then refuse c .range s
    else if k.toNat = 16 then
      match s.sch.session with
      | none => refuse c .state s
      | some x => reply c .done .none (if part = 0 then sessionPart0 x else sessionPart1 x) s
    else
      let e := s.timer k.toNat
      reply c .done .none (if part = 0 then timerPart0 e else timerPart1 e) s
  | _ => refuse c .range s

/-! ### CLEAR TIMER (R140) -/

/-- An idle entry is emptied (R140). -/
def clearIdle (k : Nat) (s : State) : State :=
  if (s.timer k).state = .empty then s
  else
    markRecord (.timer k) (modTimer k (fun _ => TimerEntry.empty) s)

/-- CLEAR TIMER of the running entry is held in flight on the close, refused FULL with both places held (R140, R178);
then the close begins, or the clear note joins a close under way. -/
def clearRunning (c : Cmd) (s : State) : State :=
  if s.clu.inFlight.length < 2 then
    let s1 := enlist c .sch s
    let s2 := s1.setSch { s1.sch with clears := s1.sch.clears ++ [c.id] }
    reassessWatch (beginClose .deleted (modSession (fun x => { x with clearNote := true }) s2))
  else refuse c .full s

/-- CLEAR TIMER (R140). -/
def clearTimerOp (c : Cmd) (s : State) : State :=
  match oneByte c.args with
  | none => refuse c .range s
  | some k =>
    if 15 < k then refuse c .range s
    else if s.runningEntry = some k then clearRunning c s
    else done c (reassessWatch (clearIdle k s))

/-! ### Meanings -/

/-- SET CLOCK (R130). -/
def execSetClock (tag : Byte) (args : List Byte) (s : State) : Host.Outcome State Fault Refusal :=
  .next (takeCommand tag 31 args (owned setClockOp) s)

/-- READ CLOCK (R133). -/
def execReadClock (tag : Byte) (args : List Byte) (s : State) : Host.Outcome State Fault Refusal :=
  .next (takeCommand tag 32 args (owned (noArgs readClockOp)) s)

/-- STAGE TIMER (R136). -/
def execStageTimer (tag : Byte) (args : List Byte) (s : State) : Host.Outcome State Fault Refusal :=
  .next (takeCommand tag 33 args (owned stageTimerOp) s)

/-- COMMIT TIMER (R137). -/
def execCommitTimer (tag : Byte) (args : List Byte) (s : State) : Host.Outcome State Fault Refusal :=
  .next (takeCommand tag 34 args (owned commitTimerOp) s)

/-- READ TIMER (R141). -/
def execReadTimer (tag : Byte) (args : List Byte) (s : State) : Host.Outcome State Fault Refusal :=
  .next (takeCommand tag 35 args (owned readTimerOp) s)

/-- CLEAR TIMER (R140). -/
def execClearTimer (tag : Byte) (args : List Byte) (s : State) : Host.Outcome State Fault Refusal :=
  .next (takeCommand tag 36 args (owned clearTimerOp) s)

end Sys2Proof.Machine
end

