-- ==== Sys2Proof/Machine/CueCapture.lean ====
section
/-! DEFINITION. Cue capture (chapter 7): decoding, confirmation, the age, and the handing-on of a tuner's field headers. -/

namespace Sys2Proof.Machine

/-! ### Decodes (R113, R120; layouts of section 13.2) -/

/-- The status of a status byte (R113). -/
def cueStatusOf (b : Byte) : Option CueStatus :=
  if b = 0 then some .run else if b = 1 then some .hold else if b = 2 then some .clear else none

/-- The label of a CUE decode: `none` for a failed decode, `some none` for NONE (R113). -/
def cueLabelOf (day month hour minute : Nat) : Option (Option Label) :=
  if day = 0 ∧ month = 0 then (if hour = 0 ∧ minute = 0 then some none else none)
  else
    let l : Label := { day := day, month := month, hour := hour, minute := minute }
    if l.inRange then some (some l) else none

/-- A CUE decode of the 16 content bytes; `none` when it is not valid (R113). -/
def decodeCue (l : List Byte) : Option Cue :=
  match cueStatusOf (l.getD 6 0), cueLabelOf (byteAt l 3) (byteAt l 4) (byteAt l 5) (byteAt l 6) with
  | some status, some label => some { network := numAt l 1 2, label := label, status := status }
  | _, _ => none

/-- A TIME decode of the 16 content bytes; `none` when it is not valid (R120). -/
def decodeTime (l : List Byte) : Option TimeDecode :=
  let t : DateTime :=
    { date := { day := byteAt l 1, month := byteAt l 2, year := byteAt l 3 }, hour := byteAt l 4, minute := byteAt l 5,
      second := byteAt l 6 }
  let offset := (l.getD 6 0).toInt
  if t.valid ∧ -24 ≤ offset ∧ offset ≤ 24 then some { at_ := t, offset := offset } else none

/-! ### CUE lines (R114, R115, R117) -/

/-- A change of a current cue joins the ring, or finds it full (R117). -/
def appendRing (x : TunerId) (channel : Option Nat) (cue : Cue) (s : State) : State :=
  if s.cue.ring.length < 8 then
    s.setCue { s.cue with ring := s.cue.ring ++
      [{ tuner := x, channel := channel, cue := cue, at_ := s.clk.now, status := s.clk.status }] }
  else raise .cueRingFull s

/-- The search is listening for a name on this tuner (R107). -/
def State.searchNaming (s : State) (x : TunerId) : Bool :=
  decide (x = .b) && decide (s.tun.search.state = .running) && decide (s.tun.search.phase = .name)

/-- A cue that became current for tuner B ends the NAME that was listening there; otherwise the tuning controller ignores
it (R107, R115). -/
def cueToSearch (naming : Bool) (x : TunerId) (cue : Cue) (s : State) : State :=
  if naming && s.searchNaming x then nameFound cue.network s else s

/-- A confirmation of content other than the current cue (R115). Of the three things, which R115 leaves without an order, the
ring comes first, then the scheduler's notice with all its effects, then the search, if it was in NAME on this tuner when the
cue was confirmed (log 72). -/
def becomesCurrent (x : TunerId) (cue : Cue) (s : State) : State :=
  let r := s.cueRecord x
  let channel := r.tuning.bind id
  let s1 := setCueRecord x { r with current := some cue } s
  cueToSearch (s.searchNaming x) x cue (cueChangeNotice channel cue (appendRing x channel cue s1))

/-- A valid CUE decode (R114). -/
def takeCue (x : TunerId) (cue : Cue) (s : State) : State :=
  let r := s.cueRecord x
  let s1 := setCueRecord x { r with lastCue := some cue, age := 0 } s
  if r.lastCue = some cue ∧ r.current ≠ some cue then becomesCurrent x cue s1 else s1

/-! ### TIME lines (R121, R122) -/

/-- Two TIME decodes agree (R121). -/
def timesAgree (old new : TimeDecode) : Bool :=
  decide (old.at_.date = new.at_.date) && decide (old.at_.hour = new.at_.hour) &&
  decide (old.at_.minute = new.at_.minute) && decide (old.offset = new.offset) &&
  (decide (new.at_.second = old.at_.second) || decide (new.at_.second = old.at_.second + 1))

/-- A valid TIME decode: kept, and passed to the clock as local time when confirmed (R121, R122). -/
def takeTime (x : TunerId) (t : TimeDecode) (s : State) : State :=
  let r := s.cueRecord x
  let s1 := setCueRecord x { r with lastTime := some t } s
  if r.lastTime.any fun old => timesAgree old t then
    match localTime t with
    | some l => timeCue l s1
    | none => s1
  else s1

/-- A CUE or TIME line handed on by the line port; WAITING and UNTUNED tuners take none (R112). -/
def cueLineTaken (x : TunerId) (kind : Byte) (content : List Byte) (s : State) : State :=
  if (s.cueRecord x).tuning.isSome ∧ (s.cueRecord x).taking then
    if kind = 1 then
      match decodeCue content with
      | some cue => takeCue x cue s
      | none => s
    else
      match decodeTime content with
      | some t => takeTime x t s
      | none => s
  else s

/-! ### Headers and the age (R112, R116) -/

/-- The current cue becomes ABSENT with a notice, if it was present (R116, R124). -/
def cueLost (x : TunerId) (s : State) : State :=
  let r := s.cueRecord x
  match r.current with
  | none => s
  | some _ => cueAbsentNotice (r.tuning.bind id) (setCueRecord x { r with current := none } s)

/-- The age has reached 125: the last decode is discarded and the cue lost (R116). -/
def ageExpires (x : TunerId) (s : State) : State :=
  cueLost x (setCueRecord x { s.cueRecord x with lastCue := none } s)

/-- The age stands at its limit with something left to lose. -/
def CueRecord.expired (r : CueRecord) : Bool := decide (125 ≤ r.age) && (r.lastCue.isSome || r.current.isSome)

/-- A field header of a tuner's stream at cue capture (R112, R116). -/
def cueHeader (x : TunerId) (settling : Bool) (s : State) : State :=
  let r := s.cueRecord x
  if r.tuning.isNone || settling then s
  else
    let s1 := setCueRecord x { r with taking := true, age := min 125 (r.age + 1) } s
    if (s1.cueRecord x).expired then ageExpires x s1 else s1

/-- The header at the tuning controller, and the scheduler's part when a session's source has settled (R85, R94). -/
def tunerHeader (x : TunerId) (settling strong : Bool) (afc : Int) (s : State) : State :=
  let r := tunHeader x settling strong afc s
  if r.2 then sourceReady r.1 else r.1

/-- A header of TA or TB is handed to the tuning controller and to cue capture. The two are not ordered (R66): where the
order can be seen, because the header retunes the tuner or ends the cue's age, it is a free choice (log 9). -/
def receiveHeader (x : TunerId) (strong : Bool) (afc : Int) (s : State) : State :=
  let settling : Bool := s.settling x ≠ .none
  let cueFirst := tunerHeader x settling strong afc (cueHeader x settling s)
  let tunFirst := tunerHeader x settling strong afc s
  let seen := !settling && (decide ((s.cueRecord x).age = 124) || decide (tunFirst.cueRecord x ≠ s.cueRecord x))
  if seen then
    if Config.cueFirst s.choices then cueFirst.choose else (cueHeader x settling tunFirst).choose
  else cueHeader x settling tunFirst

/-- RESET UNIT naming CUE, at one tuner (R124). -/
def cueResetTuner (x : TunerId) (s : State) : State :=
  cueLost x (setCueRecord x { s.cueRecord x with lastCue := none, lastTime := none, age := 0 } s)

/-- RESET UNIT naming CUE (R124). -/
def cueReset (s : State) : State :=
  cueResetTuner .b (cueResetTuner .a (s.setCue { s.cue with ring := [] }))

end Sys2Proof.Machine
end

