-- ==== Sys2Proof/Machine/Supply.lean ====
section
/-! DEFINITION. The supply (R193 to R195): mains failure, warm return, reset input and cold start, with each block's part
(R25, R45, R63, R77, R99, R100, R111, R123, R134, R158, R159, R173, R187). -/

namespace Sys2Proof.Machine

/-- The threshold voltage of a mains threshold level, in millivolts (section 6 of 00_scope.md). -/
def thresholdOf (level : Nat) : Nat := 900 + 100 * level

/-- The sense lies below the threshold in force (R193). -/
def State.mainsLow (s : State) : Bool := s.pins.mainsSense < thresholdOf s.sto.options.mainsLevel

/-! ### Failure (R193) -/

/-- The TRC at a mains failure (R25): motors off, the in-flight command dropped; a directory read is cut and a position in
motion becomes UNKNOWN. -/
def trcFails (s : State) : State :=
  let moving := s.trc.state.isMotion
  let s1 := enter (if s.trc.state.isThreaded then .stopped else s.trc.state) .idle (cutRead s)
  let s2 := s1.setTrc { s1.trc with
    locate := none, seek := none, pausePoint := none, atRestMark := false, held := none, heldHalt := false,
    heldStart := none, heldPause := false, heldResume := none, markDue := false }
  if moving then positionUnknown s2 else s2

/-- The TCB at a mains failure and at every start (R45). -/
def tcbCut (s : State) : State :=
  s.setTcb { s.tcb.closeWindow with supplyPeriod := none, takeUpPeriod := none, staging := ProfileStaging.empty }

/-- The directory's parts that no backup keeps (R63). -/
def dirCut (s : State) : State :=
  s.setDir { s.dir with copies := emptyCopies, collecting := false, blankTest := none, blankTested := false,
                        writeImage := none }

/-- The scheduler at a mains failure: the session closed in the backup domain, the watch none (R158, R159, R173). -/
def schFails (s : State) : State :=
  let s1 := closeByMains (s.setSch { s.sch with watch := none })
  s1.setSch { s1.sch with staging := none, settledFigure := none, clears := [] }

/-- The channel search at a mains failure leaves one mark (R111). -/
def searchFails (s : State) : State :=
  s.setTun { s.tun with searchCut := s.tun.searchCut || s.tun.search.isRunning, search := Search.reset }

/-- The channel search at the reset input ends CANCELLED, and keeps its record (R111). -/
def searchCancelled (s : State) : State := if s.tun.search.isRunning then endSearch .cancelled s else s

/-- The line port at a failure: the bus is ignored and nothing is sent (R77). -/
def stoppedField : FieldRecord := { FieldRecord.reset with silence := none }

/-- The line port while the bus is ignored (R77). -/
def lptFails (s : State) : State :=
  s.setLpt { Lpt.reset with ta := stoppedField, tb := stoppedField, aux := stoppedField, play := stoppedField,
                            ctrl := stoppedField }

/-- The control line unit drops everything but the sticky events (R187). -/
def cluDrops (s : State) : State :=
  s.setClu { Clu.reset with sticky := s.clu.sticky, nextId := s.clu.nextId }

/-- The effects of a mains failure or of the reset input's assertion on every block, the supply state already changed
(R193, R194). The tuners and the cues are gone before the session closes, so that no cue reaches an entry (R158, R173;
log 56). -/
def failBlocks (search : State → State) (s : State) : State :=
  let s1 := clearSources (search (tcbCut (trcFails s)))
  let s2 := dirCut (schFails (s1.setCue CueBlock.reset))
  let s3 := cluDrops (lptFails s2)
  let s4 := abandonWrite s3
  s4.setSto { s4.sto with reading := none }

/-- The part enters BACKUP (R193). While the reset input is asserted the blocks have failed already, but for the search
record, which the reset input keeps and BACKUP loses (R111). -/
def mainsFails (s : State) : State :=
  let s1 := s.setSto { s.sto with heldPower := s.sto.power, power := .backup }
  if s.sto.resetAsserted then searchFails s1 else failBlocks searchFails s1

/-- The reset input is asserted: as a mains failure, the power state kept (R194). In BACKUP only the input changes. -/
def resetAsserts (s : State) : State :=
  let s1 := s.setSto { s.sto with resetAsserted := true }
  if s.sto.power = .backup then s1 else failBlocks searchCancelled s1

/-! ### Return (R194) -/

/-- The state and phase that the switches give at a start (R24, R25). -/
def startState (p : Pins) : TState × Phase :=
  match p.cassette with
  | .slotOpen => (.empty, .idle)
  | .partway => (.ejected, .idle)
  | .home => if p.threaded then (if p.dew then (.dewHold, .dewUnthread) else (.stopped, .idle)) else (.loading, .idle)

/-- The TRC after a start: the state by the switches with its 8 s limit, the end latch and speed setting as given
(R25). -/
def Trc.started (p : Pins) (endLatch : Bool) (setting : Speed) : Trc :=
  { Trc.reset with
    state := (startState p).1
    phase := (startState p).2
    threadingLimit := if (startState p).1 = .loading then some limit8s else none
    unthreadingLimit := if (startState p).1 = .dewHold then some limit8s else none
    endLatch := endLatch
    speedSetting := setting }

/-- The search record after a warm return: MAINS and SEARCH_END when the cut mark was set (R111). -/
def searchReturns (s : State) : State :=
  if s.tun.searchCut then
    raise .searchEnd (s.setTun { s.tun with search := { Search.reset with result := .mains }, searchCut := false })
  else s.setTun { s.tun with search := Search.reset }

/-- What a warm return and the reset input's release have in common (R194). -/
def returnBlocks (s : State) : State :=
  let s1 := s.setTrc (Trc.started s.pins s.trc.endLatch s.trc.speedSetting)
  let s2 := clearSources (dirCut (tcbCut s1))
  let s3 := cluDrops ((s2.setCue CueBlock.reset).setLpt Lpt.reset)
  s3.setSch { s3.sch with staging := none, settledFigure := none, watch := none, clears := [] }

/-- A warm return (R194): MAINS_RETURN, the pending writes resumed, and the table evaluated. -/
def warmReturn (s : State) : State :=
  evaluateTable (startWrite (raise .mainsReturn (searchReturns (returnBlocks
    (s.setSto { s.sto with power := s.sto.heldPower })))))

/-- The release of the reset input with the validity mark set (R194): a warm return without MAINS_RETURN; the search
record is kept, a mark of a cut search included (R111, log 25). -/
def resetReturn (s : State) : State := evaluateTable (startWrite (returnBlocks s))

/-! ### Cold start (R195) -/

/-- A cold start begins: every block at its cold-start values, the inputs as they stand, the read at its first
record. -/
def coldStart (s : State) : State :=
  { State.reset with
    pins := s.pins, trc := Trc.started s.pins false .one, choices := s.choices, pending := s.pending }

/-- The backup supply fails to hold the domain: what it retained and the validity mark are lost (R194). The next return
is a cold start. -/
def domainLost (s : State) : State :=
  let c := coldStart s
  c.setSto { c.sto with power := .backup, reading := none, resetAsserted := s.sto.resetAsserted }

/-- Mains has returned (R194, R195); while the reset input is asserted the return waits for its release, and a search-cut
mark stays for a later return (R111, log 25). -/
def mainsReturns (s : State) : State :=
  if s.sto.resetAsserted then s.setSto { s.sto with power := s.sto.heldPower }
  else if s.sto.validity then warmReturn s
  else coldStart s

/-- The reset input is released (R194). In BACKUP only the input changes. -/
def resetReleases (s : State) : State :=
  let s1 := s.setSto { s.sto with resetAsserted := false }
  if s.sto.power = .backup then s1 else if s.sto.validity then resetReturn s1 else coldStart s1

/-! ### STANDBY (R192) -/

/-- The TRC's part of entering STANDBY (R25, R192). -/
def trcStandby (s : State) : State :=
  if s.trc.state.isUserMode then completeHeld .aborted .notOn (stopTape (cutRead s)) else s

/-- STANDBY is entered (R99, R192). -/
def enterStandby (s : State) : State :=
  let s1 := releaseView (trcStandby s)
  s1.setSto { s1.sto with power := .standby }

end Sys2Proof.Machine
end

