-- ==== Sys2Proof/Machine/ControlCommands.lean ====
section
/-! DEFINITION. The meanings of SET OPTION, POWER, ACKNOWLEDGE and RESET UNIT (R184 to R186, R191, R192), of a code that
names no command (R175), and the table from codes to operations by which command lines reach their owners (R177). -/

namespace Sys2Proof.Machine

/-! ### SET OPTION, POWER (R191, R192) -/

/-- What a new option value acts on at once: the clock's copy of auto-set, and the mains sense (R191). -/
def optionActs (i : Nat) (s : State) : State :=
  if i = 1 then s.setClk { s.clk with autoSet := s.sto.options.clockAutoSet }
  else if i = 5 ∧ s.mainsLow then mainsFails s
  else s

/-- SET OPTION (R191). -/
def setOptionOp (c : Cmd) (s : State) : State :=
  match c.args with
  | [i, v] =>
    match setOptionValue s.sto.options i.toNat v.toNat with
    | none => refuse c .range s
    | some o =>
      let s1 := s.setSto { s.sto with options := o }
      let s2 := if o = s.sto.options then s1 else markRecord .options s1
      optionActs i.toNat (done c s2)
  | _ => refuse c .range s

/-- The refusal of POWER STANDBY in ON (R192). -/
def standbyCheck (s : State) : Option Reason :=
  if s.hasSession then some .running
  else if s.trc.state = .loading ∨ s.trc.state = .dirWrite ∨ s.trc.state = .unloading then some .busy
  else none

/-- POWER (R192): 0 ON, 1 STANDBY. -/
def powerOp (c : Cmd) (s : State) : State :=
  if c.args = [0] then done c (s.setSto { s.sto with power := .on })
  else if c.args = [1] then
    if s.sto.power = .standby then done c s
    else
      match standbyCheck s with
      | some r => refuse c r s
      | none => done c (enterStandby s)
  else refuse c .range s

/-! ### ACKNOWLEDGE (R184) -/

/-- ACKNOWLEDGE (R184). -/
def acknowledgeOp (c : Cmd) (s : State) : State :=
  match parseMask c.args with
  | none => refuse c .range s
  | some m =>
    reply c .done .none (maskBytes (s.clu.sticky &&& m)) (s.setClu { s.clu with sticky := s.clu.sticky &&& ~~~m })

/-! ### RESET UNIT (R185, R186) -/

/-- The commands in flight of an owner are completed CANCELLED, in the order of the list (R185). -/
def cancelOwner (o : OwnerBlock) (s : State) : State :=
  (s.clu.inFlight.filter fun f => f.owner = o).foldl (fun acc f => complete f.id .cancelled .none acc) s

/-- The TRC unit reset (R25): all motion stopped, the command forgotten, the state by the switches; then the report of a
transport fault. -/
def trcReset (s : State) : State :=
  let s1 := stateBySwitches (cutRead s)
  reportClose .transport (s1.setTrc { s1.trc with
    held := none, locate := none, seek := none, pausePoint := none, heldHalt := false, heldStart := none,
    heldPause := false, heldResume := none, markDue := false })

/-- The TUN unit reset (R101): the search CANCELLED, the sources cleared, and the scheduler told what it lost. -/
def tunReset (s : State) : State :=
  let recordHeld : Bool := s.tun.tunerA.owner = .record ∨ s.tun.ext.owner = .record
  let watchHeld : Bool := s.tun.tunerB.owner = .watch
  let s1 := clearSources (searchCancelled s)
  let s2 := if recordHeld then sourceLost s1 else s1
  if watchHeld then watchLost s2 else s2

/-- The CLU unit reset (R186): the reply queue and the in-flight list emptied, and a fresh place for its own reply. -/
def cluReset (c : Cmd) (s : State) : State :=
  s.setClu { s.clu with ready := [], inFlight := [], reserved := if c.tag = 0 then [] else [c.id] }

/-- RESET UNIT (R185): the CANCELLED replies, the reset with its DONE, then the completions that come from the reset. -/
def resetUnitOp (c : Cmd) (s : State) : State :=
  match oneByte c.args with
  | some 0 => trcReset (done c (cancelOwner .trc s))
  | some 1 => tunReset (done c s)
  | some 2 => schReset (done c (cancelOwner .sch s))
  | some 3 => cueReset (done c s)
  | some 4 => done c (cluReset c s)
  | _ => refuse c .range s

/-- A code that names no command (R175). -/
def unknownOp (c : Cmd) (s : State) : State := refuse c .range s

/-! ### The catalogue (section 11.8) -/

/-- The operation of a command code, as its owner takes it (R177). -/
def commandOp (code : Nat) : Cmd → State → State :=
  match code with
  | 1 => trcCommand (noArgs playOp)
  | 2 => trcCommand (noArgs recordOp)
  | 3 => trcCommand (noArgs pauseOp)
  | 4 => trcCommand (noArgs stopOp)
  | 5 => trcCommand (noArgs (windOp .windFwd .forward))
  | 6 => trcCommand (noArgs (windOp .windBack .reverse))
  | 7 => trcCommand pictureOp
  | 8 => trcCommand locateCommand
  | 9 => trcCommand seekIndexOp
  | 10 => trcCommand seekEntryOp
  | 11 => trcCommand (noArgs ejectOp)
  | 12 => owned setSpeedOp
  | 13 => owned (noArgs zeroCounterOp)
  | 14 => owned stageProfileOp
  | 15 => owned (noArgs commitProfileOp)
  | 16 => owned readProfileOp
  | 17 => owned setProfileOp
  | 18 => owned readEntryOp
  | 19 => owned deleteEntryOp
  | 20 => owned viewOp
  | 21 => owned stageChannelOp
  | 22 => owned commitChannelOp
  | 23 => owned clearChannelOp
  | 24 => owned readChannelOp
  | 25 => owned loadIrOp
  | 26 => owned startSearchOp
  | 27 => owned (noArgs endSearchOp)
  | 28 => owned (noArgs readSearchOp)
  | 29 => owned (noArgs readCueOp)
  | 30 => owned (noArgs releaseCueOp)
  | 31 => owned setClockOp
  | 32 => owned (noArgs readClockOp)
  | 33 => owned stageTimerOp
  | 34 => owned commitTimerOp
  | 35 => owned readTimerOp
  | 36 => owned clearTimerOp
  | 37 => owned setOptionOp
  | 38 => owned powerOp
  | 39 => acknowledgeOp
  | 40 => resetUnitOp
  | _ => unknownOp

/-! ### Meanings -/

/-- SET OPTION (R191). -/
def execSetOption (tag : Byte) (args : List Byte) (s : State) : Host.Outcome State Fault Refusal :=
  .next (takeCommand tag 37 args (owned setOptionOp) s)

/-- POWER (R192). -/
def execPower (tag : Byte) (args : List Byte) (s : State) : Host.Outcome State Fault Refusal :=
  .next (takeCommand tag 38 args (owned powerOp) s)

/-- ACKNOWLEDGE (R184). -/
def execAcknowledge (tag : Byte) (args : List Byte) (s : State) : Host.Outcome State Fault Refusal :=
  .next (takeCommand tag 39 args acknowledgeOp s)

/-- RESET UNIT (R185). -/
def execResetUnit (tag : Byte) (args : List Byte) (s : State) : Host.Outcome State Fault Refusal :=
  .next (takeCommand tag 40 args resetUnitOp s)

/-- A command code that names no command (R175). A code of the catalogue is no such command: its own row takes it, and
the line that carries it reaches the operation of its code. -/
def execUnknownCommand (tag code : Byte) (args : List Byte) (s : State) : Host.Outcome State Fault Refusal :=
  .next (takeCommand tag code.toNat args (commandOp code.toNat) s)

end Sys2Proof.Machine
end

