-- ==== Sys2Proof/Machine/LinePort.lean ====
section
/-! DEFINITION. The line port (chapter 4) and the command lines of the control line unit (R174, R175): field headers, line
packets, silences, and the three outbound streams. -/

namespace Sys2Proof.Machine

/-! ### Field records (section 4.1) -/

/-- The field record of an inbound stream. -/
def Lpt.field (l : Lpt) : Inbound → FieldRecord
  | .ta => l.ta | .tb => l.tb | .aux => l.aux | .play => l.play | .ctrl => l.ctrl

/-- Replaces the field record of an inbound stream. -/
def setField (i : Inbound) (f : FieldRecord) (s : State) : State :=
  match i with
  | .ta => s.setLpt { s.lpt with ta := f }
  | .tb => s.setLpt { s.lpt with tb := f }
  | .aux => s.setLpt { s.lpt with aux := f }
  | .play => s.setLpt { s.lpt with play := f }
  | .ctrl => s.setLpt { s.lpt with ctrl := f }

/-- The tuner of a stream. -/
def tunerOf : Inbound → Option TunerId
  | .ta => some .a
  | .tb => some .b
  | .aux => none
  | .play => none
  | .ctrl => none

/-- The other parity. -/
def otherParity : Parity → Parity
  | .first => .second
  | .second => .first

/-! ### Selections (R71, R73) -/

/-- What an outbound stream carries. -/
inductive Choice where
  | nothing | blank | stream (i : Inbound)
deriving DecidableEq, Repr

/-- The stream of a view source (section 5.7). -/
def viewStream : ViewSource → Inbound
  | .tunerA => .ta | .tunerB => .tb | .external => .aux

/-- The stream of a session source (section 4.4). -/
def sessionStream : SourceKind → Inbound
  | .air => .ta | .ext => .aux

/-- The content of MON (R71). -/
def State.monChoice (s : State) : Choice :=
  if s.asleep then .nothing
  else if s.sto.power = .standby then .blank
  else
    match s.trc.state with
    | .play | .playPause | .searchFwd | .searchBack | .dirRead => .stream .play
    | .empty | .loading | .stopped | .record | .recordPause | .lockup | .windFwd | .windBack | .locate | .dirWrite
    | .unloading | .ejected | .dewHold | .fault =>
      match s.lpt.viewSource, s.lpt.sessionSource with
      | some v, _ => .stream (viewStream v)
      | none, some k => .stream (sessionStream k)
      | none, none => .blank

/-- The session source that REC carries: none, and a source whose owner was lost, are treated as silent (R73, R77). -/
def State.recordSource (s : State) : Choice :=
  match s.lpt.sessionSource with
  | some .air => if s.tun.tunerA.owner = .record then .stream .ta else .blank
  | some .ext => if s.tun.ext.owner = .record then .stream .aux else .blank
  | none => .blank

/-- The content of REC (R73). -/
def State.recChoice (s : State) : Choice :=
  if s.asleep then .nothing
  else
    match s.trc.state with
    | .record => s.recordSource
    | .lockup => if s.trc.phase = .reserve then .blank else s.recordSource
    | .empty | .loading | .dirRead | .stopped | .play | .playPause | .recordPause | .windFwd | .windBack | .searchFwd
    | .searchBack | .locate | .dirWrite | .unloading | .ejected | .dewHold | .fault => .blank

/-! ### Data lines as they travel (section 4.2) -/

/-- The number of ones in a byte. -/
def onesOf (b : Byte) : Nat := ((List.range 8).filter fun i => b.getLsbD i).length

/-- A byte and its parity bit hold an odd number of ones (section 4.2). -/
def oddParity (x : Byte × Bool) : Bool := (onesOf x.1 + (if x.2 then 1 else 0)) % 2 = 1

/-- A byte with the parity bit that makes the ones odd (section 4.2). -/
def withParity (b : Byte) : Byte × Bool := (b, onesOf b % 2 = 0)

/-- A data line with a parity bit for every byte (section 4.2, R76). -/
def travels (l : List Byte) : DataLine := l.map withParity

/-! ### Outbound fields (R72 to R74, R76) -/

/-- The reply field that begins with a MON field: up to two replies leave the queue, and the status line is taken after
them (R76, R180, R182). -/
def beginReplyField (p : Parity) (s : State) : State :=
  let taken := s.clu.ready.take 2
  let s1 := s.setClu { s.clu with ready := s.clu.ready.drop 2 }
  let field : RplField :=
    { parity := p, grade := 15, status := (statusLines s1).map travels,
      replyLines := ((taken.map Reply.lines).flatten).map travels }
  s1.setLpt { s1.lpt with rpl := some field }

/-- Line `n` of a reply field: the STATUS lines from line 1, the reply lines from line 5, black video lines elsewhere (R76). -/
def RplField.line (f : RplField) (n : Nat) : OutLine :=
  match (f.status ++ f.replyLines)[n - 1]? with
  | some l => if 1 ≤ n then .passed n (.data l) else .black n
  | none => .black n

/-- A MON field begins, and with it a reply field (R72, R76). -/
def beginMon (p : Parity) (grade : Nat) (source : Option Inbound) (s : State) : State :=
  beginReplyField p
    (s.setLpt { s.lpt with
      mon := some { parity := p, grade := grade, source := source, sending := source.isSome, lines := [] } })

/-- The TRC writes the directory region (R18, R74). -/
def State.writesDirectory (s : State) : Bool := decide (s.trc.state = .dirWrite) && decide (s.trc.phase = .writing)

/-- A REC field begins with its own lines 9 and 10, and with its frame's number while the directory is written (R73,
R74). -/
def beginRec (p : Parity) (grade : Nat) (source : Option Inbound) (s : State) : State :=
  let image := if s.writesDirectory then s.dir.writeImage else none
  let field : RecField :=
    { parity := p, grade := grade, source := source, sending := source.isSome,
      frame := if s.writesDirectory then s.frameNumber else none
      line9 := travels (dirLineFor image s.frameNumber p 9), line10 := travels (dirLineFor image s.frameNumber p 10)
      lines := [] }
  s.setLpt { s.lpt with recField := some field }

/-- The field of stream `i` that MON was sending is finished. -/
def MonField.finishedBy (i : Inbound) (f : MonField) : MonField := if f.source = some i then { f with sending := false } else f

/-- The field of stream `i` that REC was sending is finished. -/
def RecField.finishedBy (i : Inbound) (f : RecField) : RecField := if f.source = some i then { f with sending := false } else f

/-- The fields of stream `i` that MON and REC were sending are finished (R72, R73). -/
def finishFields (i : Inbound) (s : State) : State :=
  s.setLpt { s.lpt with mon := s.lpt.mon.map (MonField.finishedBy i), recField := s.lpt.recField.map (RecField.finishedBy i) }

/-- A field of a stream is being sent until it is finished; with its stream SILENT nothing more of it comes (log 32). -/
def State.fieldGoesOn (s : State) (source : Option Inbound) (sending : Bool) : Bool :=
  sending && source.all fun i => decide ((s.lpt.field i).presence ≠ .silent)

/-- MON is still sending a field of a stream (R72). -/
def State.monSending (s : State) : Bool := s.lpt.mon.any fun f => s.fieldGoesOn f.source f.sending

/-- REC is still sending a field of a stream (R72, R73). -/
def State.recSending (s : State) : Bool := s.lpt.recField.any fun f => s.fieldGoesOn f.source f.sending

/-- A field of stream `i` begins the fields of the outbound streams that carry it. A field of the stream left is finished
first, and the next field of the new one is the next that begins after that. A substitute field is sent as a generated blank
field, with the parity of the substitute field, which R72 does not state (R72, R73; log 68). -/
def outboundFields (i : Inbound) (h : Header) (real : Bool) (s : State) : State :=
  let grade := if real then h.grade else 15
  let source := if real then some i else none
  let s1 := finishFields i s
  let s2 := if s1.monChoice = .stream i ∧ ¬ s1.monSending then beginMon h.parity grade source s1 else s1
  if s2.recChoice = .stream i ∧ ¬ s2.recSending then beginRec h.parity grade source s2 else s2

/-- The parity of the next generated blank field (R72). -/
def blankParity (last : Option Parity) : Parity :=
  match last with
  | none => .first
  | some p => otherParity p

/-- A directory write whose two last fields are on REC is complete when the next field begins (R74; log 31). -/
def endDirWrite (s : State) : State := if s.trc.state = .dirWrite ∧ s.dirWritten then dirWriteCompletes s else s

/-- A generated blank field on an outbound stream (R72 to R74). The field of a stream that is still being sent is finished
first, so no blank field begins under it (R72; log 32). -/
def generateBlank (out : Outbound) (s : State) : State :=
  match out with
  | .mon => if s.monSending then s else beginMon (blankParity (s.lpt.mon.map MonField.parity)) 15 none s
  | .recStream =>
    if s.recSending then s
    else beginRec (blankParity (s.lpt.recField.map RecField.parity)) 15 none (endDirWrite s)

/-! ### Field headers (R64 to R66) -/

/-- A new CTRL field begins at the control line unit (R174). -/
def newCtrlField (s : State) : State :=
  let s1 := s.setClu { s.clu with lineCount := 0, pendingLine := none }
  if s.clu.pendingLine.isSome then raise .checkFail s1 else s1

/-- A field is strong at or above the presence threshold; a substitute field is weak whatever the threshold (R88; for the AFC
loop, log 69). -/
def State.strongField (s : State) (h : Header) (real : Bool) : Bool :=
  real && decide (s.sto.options.presenceThreshold ≤ h.grade)

/-- A header, real or substitute, is handed on (R66). -/
def handOn (i : Inbound) (h : Header) (real : Bool) (s : State) : State :=
  match i with
  | .ta => receiveHeader .a (s.strongField h real) h.afc s
  | .tb => receiveHeader .b (s.strongField h real) h.afc s
  | .aux => s
  | .play => s
  | .ctrl => newCtrlField s

/-- A real field header (R64). -/
def fieldHeader (i : Inbound) (p : Parity) (grade : Nat) (afc : Int) (s : State) : State :=
  let h : Header := { parity := p, grade := grade, afc := afc }
  outboundFields i h true
    (handOn i h true (setField i { presence := .live, header := some h, lastLine := none, silence := some 40 } s))

/-- A substitute field of a silent stream (R65). -/
def substituteField (i : Inbound) (s : State) : State :=
  let f := s.lpt.field i
  let h : Header := { parity := blankParity (f.header.map Header.parity), grade := 0, afc := 0 }
  outboundFields i h false
    (handOn i h false (setField i { f with header := some h, lastLine := none } s))

/-! ### Command lines (R174, R175) -/

/-- A line of CTRL that is discarded with a report (R68, R174): it counts, and discards a pending first line. -/
def reportLine (s : State) : State :=
  raise .checkFail (s.setClu { s.clu with lineCount := s.clu.lineCount + 1, pendingLine := none })

/-- A complete command is summed, and taken when the sum is 0 (R175 to R177). -/
def checkCommand (tag code length check : Byte) (args : List Byte) (s : State) : State :=
  if sumBytes ([tag, code, length] ++ args ++ [check]) = 0 then
    takeCommand tag code.toNat args (commandOp code.toNat) s
  else raise .checkFail s

/-- A first line of kind CMD within the first two lines of its field, with no line pending (R174). -/
def firstLine (tag code length check : Byte) (content : List Byte) (s : State) : State :=
  if length.toNat ≤ 16 then checkCommand tag code length check (content.take length.toNat) s
  else if length.toNat ≤ 24 ∧ s.clu.lineCount = 1 then
    let line : PendingLine := { tag := tag, code := code, length := length, check := check, args := content }
    s.setClu { s.clu with pendingLine := some line }
  else raise .checkFail s

/-- A CMD line handed on by the line port (R174). -/
def commandLine (tag code length check : Byte) (content : List Byte) (s : State) : State :=
  let s1 := s.setClu { s.clu with lineCount := s.clu.lineCount + 1, pendingLine := none }
  if 2 < s1.clu.lineCount then raise .checkFail s1
  else firstLine tag code length check content (if s.clu.pendingLine.isSome then raise .checkFail s1 else s1)

/-- A continuation line (R174). -/
def continuationLine (content : List Byte) (s : State) : State :=
  let s1 := s.setClu { s.clu with lineCount := s.clu.lineCount + 1, pendingLine := none }
  if 2 < s1.clu.lineCount then raise .checkFail s1
  else
    match s.clu.pendingLine with
    | none => raise .checkFail s1
    | some p => checkCommand p.tag p.code p.length p.check (p.args ++ content.take (p.length.toNat - 16)) s1

/-! ### Line packets (R64, R67, R68) -/

/-- A passing DATA line of CTRL (R68, R174). -/
def ctrlData (l : List Byte) (s : State) : State :=
  let content := l.drop 5
  if l.getD 0 0 = 4 then commandLine (l.getD 1 0) (l.getD 2 0) (l.getD 3 0) (l.getD 4 0) content s
  else if l.getD 0 0 = 5 then continuationLine content s
  else reportLine s

/-- A passing DATA line of a tuner (R67, R69). -/
def tunerData (x : TunerId) (line : Nat) (l : List Byte) (s : State) : State :=
  if s.cueLine x = some line ∧ s.settling x = .none ∧ (l.getD 0 0 = 1 ∨ l.getD 0 0 = 2) then
    cueLineTaken x (l.getD 0 0) (l.drop 5) s
  else s

/-- Whether a DIR line carries a fragment, by its second head byte (section 13.2; log 12). -/
def carriesFragment (b : Byte) : Bool :=
  if b = 0 then true else if b = 1 then false else Config.dirMarkCarries b.toNat

/-- A passing DATA line of PLAY (R67, R75). -/
def playData (line : Nat) (l : List Byte) (s : State) : State :=
  if l.getD 0 0 = 3 ∧ (line = 9 ∨ line = 10) ∧ s.trc.state = .dirRead ∧ s.tcb.exact ∧ s.tcb.pulseSinceExact
      ∧ carriesFragment (l.getD 1 0) then
    match s.lpt.play.header, s.frameNumber with
    | some h, some frame => fileLine frame h.parity line (l.drop 5) s
    | _, _ => s
  else s

/-- No line of a field can follow line 313 (R64). -/
def moreAfter (line : Nat) : Bool := decide (line ≠ 313)

/-- A taken line joins the MON field that carries its stream, while it is being sent; TUNE settling blanks it (R70 to R72). -/
def monLine (i : Inbound) (line : Nat) (payload : Payload) (s : State) : State :=
  match s.lpt.mon with
  | none => s
  | some f =>
    if f.source = some i ∧ f.sending then
      let blanked := (tunerOf i).any fun x => decide (s.settling x = .tune)
      let out := if blanked then OutLine.black line else OutLine.passed line payload
      s.setLpt { s.lpt with mon := some { f with lines := f.lines ++ [out], sending := moreAfter line } }
    else s

/-- A taken line joins the REC field that carries its stream, while it is being sent, but for lines 9 and 10 (R73). -/
def recLine (i : Inbound) (line : Nat) (payload : Payload) (s : State) : State :=
  match s.lpt.recField with
  | none => s
  | some f =>
    if f.source = some i ∧ f.sending ∧ line ≠ 9 ∧ line ≠ 10 then
      s.setLpt { s.lpt with
        recField := some { f with lines := f.lines ++ [.passed line payload], sending := moreAfter line } }
    else s

/-- A passing DATA line is handed on by its stream (R67, R68). -/
def handData (i : Inbound) (line : Nat) (l : List Byte) (s : State) : State :=
  match i with
  | .ta => tunerData .a line l s
  | .tb => tunerData .b line l s
  | .aux => s
  | .play => playData line l s
  | .ctrl => ctrlData l s

/-- A taken line of a stream is handed on (R67, R68). -/
def handLine (i : Inbound) (line : Nat) (payload : Payload) (s : State) : State :=
  match payload with
  | .video _ => if i = .ctrl then reportLine s else s
  | .data bytes => handData i line (bytes.map Prod.fst) s

/-- A payload passes when it is video, or every byte of its data passes parity (R67). -/
def passes : Payload → Bool
  | .video _ => true
  | .data bytes => bytes.all oddParity

/-- A field of the stream is open. R64 names the AWAITING stream as the one without; a stream that fell SILENT before its first
header has had no field either, and has none open until a substitute field is made for it (log 51). -/
def FieldRecord.isOpen (f : FieldRecord) : Bool := decide (f.presence ≠ .awaiting) && f.header.isSome

/-- A line is taken into the open field of its stream (R64; what counts as open, log 51). -/
def lineFits (f : FieldRecord) (line : Nat) : Bool :=
  f.isOpen && decide (1 ≤ line ∧ line ≤ 313) && f.lastLine.all fun last => decide (last < line)

/-- A line taken is carried outbound and handed on; one failing parity is discarded, and on CTRL reported (R67, R68). -/
def lineTaken (i : Inbound) (line : Nat) (payload : Payload) (s : State) : State :=
  if passes payload then handLine i line payload (recLine i line payload (monLine i line payload s))
  else if i = .ctrl then reportLine s
  else s

/-- A line packet (R64). One discarded for its number on CTRL is reported (R68); one that finds no field open is not. -/
def linePacket (i : Inbound) (line : Nat) (payload : Payload) (s : State) : State :=
  let f := s.lpt.field i
  if lineFits f line then lineTaken i line payload (setField i { f with lastLine := some line } s)
  else if i = .ctrl ∧ f.isOpen then reportLine s
  else s

/-! ### Meanings -/

/-- An event of the bus or of the sensors acts only while the part takes them (R77, R193, R194). -/
def awake (f : State → State) (s : State) : State := if s.asleep then s else f s

/-- A field header arrives (R64). -/
def execFieldHeader (i : Inbound) (p : Parity) (grade : Fin 16) (afc : Byte) (s : State) :
    Host.Outcome State Fault Refusal :=
  .next (awake (fieldHeader i p grade.val afc.toInt) s)

/-- A line packet arrives (R64). -/
def execLinePacket (i : Inbound) (line : BitVec 16) (payload : Payload) (s : State) : Host.Outcome State Fault Refusal :=
  .next (awake (linePacket i line.toNat payload) s)

/-- The 40 ms silence timer of a stream runs out (R65). -/
def execStreamSilenceTimeout (i : Inbound) (s : State) : Host.Outcome State Fault Refusal :=
  .next (awake (fun t =>
    let f := t.lpt.field i
    if f.silence.isSome then setField i { f with presence := .silent, silence := none } t else t) s)

/-- 20 ms of silence bring a substitute field; CTRL makes none (R65). -/
def execSubstituteField (i : Inbound) (s : State) : Host.Outcome State Fault Refusal :=
  .next (awake (fun t => if (t.lpt.field i).presence = .silent ∧ i ≠ .ctrl then substituteField i t else t) s)

/-- The 20 ms pacing timer makes a generated blank field (R72, R73). -/
def execGeneratedBlankField (out : Outbound) (s : State) : Host.Outcome State Fault Refusal :=
  .next (awake (generateBlank out) s)

end Sys2Proof.Machine
end

