-- ==== Sys2Proof/Machine/SensorEvents.lean ====
section
/-! DEFINITION. The meanings of the switches, sensors, reel and control pulses, servo and motor events (chapters 1 and 2). -/

namespace Sys2Proof.Machine

/-! ### Switches (R1 to R3, R19, R20) -/

/-- The cassette-in switch at its new position (R1, R2, R19); `was` is the position before. -/
def cassetteMoves (was pos : CassettePos) (s : State) : State :=
  match s.trc.state, pos with
  | .empty, .home | .ejected, .home => newCassette (beginLoading s)
  | .ejected, .slotOpen => enter .empty .idle s
  | .empty, _ | .ejected, _ => s
  | st, _ =>
    if st = .unloading ∧ s.trc.phase = .pushOut then
      if pos = .partway ∧ s.trc.pushOutLimit.isSome then
        completeHeld .done .none (enterEjected s)
      else s
    else if was = .home ∧ pos ≠ .home then faultWith .failed .fault s
    else s

/-- CASSETTE_IN_SWITCH (R1, R2, R19). -/
def execCassetteInSwitch (pos : CassettePos) (s : State) : Host.Outcome State Fault Refusal :=
  .next (awake (cassetteMoves s.pins.cassette pos) (s.setPins { s.pins with cassette := pos }))

/-- The threaded switch at its new position (R1, R3, R20). -/
def threadedMoves (closed : Bool) (s : State) : State :=
  if closed then
    if s.trc.state = .loading ∧ s.trc.threadingLimit.isSome then threadingEnds s
    else if s.trc.state = .dewHold ∧ s.trc.phase = .dewRethread then positionUnknown (enter .stopped .idle s)
    else s
  else if s.trc.state.isThreaded then faultWith .failed .fault s
  else s

/-- THREADED_SWITCH (R1, R3, R20). -/
def execThreadedSwitch (closed : Bool) (s : State) : Host.Outcome State Fault Refusal :=
  .next (awake (threadedMoves closed) (s.setPins { s.pins with threaded := closed }))

/-- The unthreaded switch at its new position (R19, R20). -/
def unthreadedMoves (closed : Bool) (s : State) : State :=
  if closed ∧ s.trc.unthreadingLimit.isSome then
    match s.trc.state, s.trc.phase with
    | .unloading, .unthread => beginPushOut s
    | .dewHold, .dewUnthread => dewUnthreaded s
    | _, _ => s
  else s

/-- UNTHREADED_SWITCH (R19, R20). -/
def execUnthreadedSwitch (closed : Bool) (s : State) : Host.Outcome State Fault Refusal :=
  .next (awake (unthreadedMoves closed) (s.setPins { s.pins with unthreaded := closed }))

/-- WRITE_PROTECT_TAB (R1). -/
def execWriteProtectTab (tab : Tab) (s : State) : Host.Outcome State Fault Refusal :=
  .next (s.setPins { s.pins with tab := tab })

/-! ### Leader and dew sensors (R12, R20, R28) -/

/-- START_SENSOR_ACTIVE (R12). -/
def execStartSensorActive (s : State) : Host.Outcome State Fault Refusal :=
  .next (awake (fun t => if t.trc.reverseMotion then tapeStart t else t) (s.setPins { s.pins with startSensor := true }))

/-- DIR_READ's 3 s limit starts unless the servo has locked already (R4). -/
def startReadLock (s : State) : State :=
  s.setTrc { s.trc with dirReadLock := if s.trc.servoLocked then none else some limit3s }

/-- The start sensor clears in forward motion: the position is EXACT at 0, and the stage that waited for it goes on (R4,
R15, R18, R28, R51). -/
def leaveLeader (s : State) : State :=
  let s1 := exactAtZero s
  match s.trc.state, s.trc.phase with
  | .dirRead, _ => startBlankTest (startReadLock s1)
  | .lockup, .leaderClear => afterLeader s1
  | .dirWrite, .writeLead => leaveLeaderToWrite s1
  | _, _ => s1

/-- START_SENSOR_INACTIVE (R28). -/
def execStartSensorInactive (s : State) : Host.Outcome State Fault Refusal :=
  .next (awake (fun t => if t.trc.forwardMotion then leaveLeader t else t)
    (s.setPins { s.pins with startSensor := false }))

/-- END_SENSOR_ACTIVE (R12). -/
def execEndSensorActive (active : Bool) (s : State) : Host.Outcome State Fault Refusal :=
  .next (awake (fun t => if active ∧ t.trc.forwardMotion then tapeEnd t else t)
    (s.setPins { s.pins with endSensor := active }))

/-- Dew acts in a threaded state, and stops a re-threading, which unthreads again and waits for a new UNTHREADED_SWITCH event
even when that switch is still closed (R20; log 23). -/
def dewActs (s : State) : State :=
  if s.trc.state.isThreaded then dewStop s
  else if s.trc.state = .dewHold ∧ s.trc.phase = .dewRethread then
    runUnthreading .dewUnthread (s.setTrc { s.trc with threadingLimit := none })
  else s

/-- DEW_SENSOR_ACTIVE (R20). -/
def execDewSensorActive (s : State) : Host.Outcome State Fault Refusal :=
  .next (awake dewActs (s.setPins { s.pins with dew := true }))

/-- DEW_SENSOR_CLEAR (R20). -/
def execDewSensorClear (s : State) : Host.Outcome State Fault Refusal :=
  .next (awake (fun t => if t.trc.state = .dewHold ∧ t.trc.phase = .dewWait then beginRethread t else t)
    (s.setPins { s.pins with dew := false }))

/-! ### Pulses (R21, R26 to R31, R38 to R44) -/

/-- A reel watch timer restarts at a pulse of its reel (R21). -/
def restartWatch (t : Timer) : Timer := if t.isSome then some reelBound else none

/-- SUPPLY_REEL_PULSE (R21, R38). -/
def execSupplyReelPulse (ms : Nat) (s : State) : Host.Outcome State Fault Refusal :=
  .next (awake (fun t =>
    (t.setTrc { t.trc with supplyWatch := restartWatch t.trc.supplyWatch }).setTcb (t.tcb.supplyPulse ms)) s)

/-- A measurement joins the history, and the estimate update follows (R42 to R44). -/
def takeMeasurement (e : Nat) (s : State) : State :=
  evalNearEnd (estimateUpdate (evalNearEnd
    (s.setTcb { s.tcb with history := appendHistory s.tcb.history e })))

/-- A take-up pulse: the watch, the period, and in the window a measurement (R21, R38, R39). -/
def takeUpPulse (ms : Nat) (s : State) : State :=
  let s1 := (s.setTrc { s.trc with takeUpWatch := restartWatch s.trc.takeUpWatch }).setTcb (s.tcb.takeUpPulse ms)
  if s1.tcb.steadyOpen then
    match s1.tcb.measure with
    | some e => takeMeasurement e s1
    | none => s1
  else s1

/-- TAKE_UP_REEL_PULSE (R39). -/
def execTakeUpReelPulse (ms : Nat) (s : State) : Host.Outcome State Fault Refusal := .next (awake (takeUpPulse ms) s)

/-- CONTROL_PULSE (R26). -/
def execControlPulse (dir : Direction) (marked : Bool) (s : State) : Host.Outcome State Fault Refusal :=
  .next (awake (controlPulse dir marked) s)

/-! ### Servo and motors (R6 to R9, R15, R38) -/

/-- The servo locks: LOCKED, and what waited for it (R4, R6, R15). The event's LOCKED stands after RECORD is entered
(log 26). -/
def servoLocks (s : State) : State :=
  let s1 := s.setTrc { s.trc with servoLocked := true }
  match s.trc.state with
  | .play =>
    if s.trc.playLock.isSome then
      let s2 := s1.setTrc { s1.trc with playLock := none }
      if s2.holds [1] then completeHeld .done .none s2 else s2
    else s1
  | .dirRead => s1.setTrc { s1.trc with dirReadLock := none }
  | .lockup =>
    if s.trc.phase = .lock ∧ s.trc.lockupLock.isSome then
      let s2 := enterRecord s1
      s2.setTrc { s2.trc with servoLocked := true }
    else s1
  | .empty | .loading | .stopped | .playPause | .record | .recordPause | .windFwd | .windBack | .searchFwd | .searchBack
  | .locate | .dirWrite | .unloading | .ejected | .dewHold | .fault => s1

/-- SERVO_LOCKED (R6). -/
def execServoLocked (s : State) : Host.Outcome State Fault Refusal := .next (awake servoLocks s)

/-- SERVO_UNLOCKED (R6). -/
def execServoUnlocked (s : State) : Host.Outcome State Fault Refusal :=
  .next (awake (fun t => t.setTrc { t.trc with servoLocked := false }) s)

/-- The commands that the motion-steady event completes in a state: the winds and the picture search (R9), and PAUSE
leaving PLAY_PAUSE (R7). -/
def steadyCodes : TState → List Nat
  | .windFwd | .windBack => [5, 6]
  | .searchFwd | .searchBack => [7]
  | .play => [codePause]
  | .empty | .loading | .dirRead | .stopped | .playPause | .record | .recordPause | .lockup | .locate | .dirWrite
  | .unloading | .ejected | .dewHold | .fault => []

/-- The steady window opens in PLAY, SEARCH and WIND (R38). -/
def TState.measures : TState → Bool
  | .play | .windFwd | .windBack | .searchFwd | .searchBack => true
  | .empty | .loading | .dirRead | .stopped | .playPause | .record | .recordPause | .lockup | .locate | .dirWrite
  | .unloading | .ejected | .dewHold | .fault => false

/-- The motors reach the speed of a newly ordered mode (R7, R9, R38). -/
def motionSteady (s : State) : State :=
  if s.trc.steadyAwaited then
    let s1 := s.setTrc { s.trc with steadyAwaited := false }
    let s2 := if s.trc.state.measures then openWindow s1 else s1
    if s2.holds (steadyCodes s.trc.state) then completeHeld .done .none s2 else s2
  else s

/-- MOTION_STEADY (R9). -/
def execMotionSteady (s : State) : Host.Outcome State Fault Refusal := .next (awake motionSteady s)

/-- AT_REST (R8). -/
def execAtRest (s : State) : Host.Outcome State Fault Refusal :=
  .next (awake (fun t => if t.trc.atRestMark then atRest t else t) s)

end Sys2Proof.Machine
end

