-- ==== Sys2Proof/Machine/LimitEvents.lean ====
section
/-! DEFINITION. The meanings of the limits and timers that run out, of the places where a count stands at its end, and of the
upsets (chapters 1 to 7, 10). A timer's row acts while that timer runs; a count's row acts while the count stands at its
end (log 2). -/

namespace Sys2Proof.Machine

/-- What a timer's expiry does while it runs. -/
def whenRunning (t : Timer) (f : State → State) (s : State) : State := if t.isSome then f s else s

/-! ### Limits of the transport (R2, R4, R6, R7, R15, R16, R19 to R21) -/

/-- THREADING_LIMIT (R2, R20). -/
def execThreadingLimit (s : State) : Host.Outcome State Fault Refusal :=
  .next (awake (whenRunning s.trc.threadingLimit (faultWith .failed .fault)) s)

/-- UNTHREADING_LIMIT (R19, R20). -/
def execUnthreadingLimit (s : State) : Host.Outcome State Fault Refusal :=
  .next (awake (whenRunning s.trc.unthreadingLimit (faultWith .failed .fault)) s)

/-- PUSH_OUT_LIMIT (R19). -/
def execPushOutLimit (s : State) : Host.Outcome State Fault Refusal :=
  .next (awake (whenRunning s.trc.pushOutLimit (faultWith .failed .fault)) s)

/-- The pause timer runs out: the drum stops; in RECORD_PAUSE the pause point is cleared and the limit reported, which
ends a manual pause (R7, R16, R152, R167). -/
def pauseExpires (s : State) : State :=
  let s1 := stopTape s
  if s.trc.state = .recordPause then
    let s2 := s1.setTrc { s1.trc with pausePoint := none }
    if s2.sch.session.any Session.pausedManual then beginClose .pauseLimit s2 else s2
  else s1

/-- PAUSE_TIMER_EXPIRY (R7, R16). -/
def execPauseTimerExpiry (s : State) : Host.Outcome State Fault Refusal :=
  .next (awake (whenRunning s.trc.pauseTimer pauseExpires) s)

/-- PLAY_LOCK_LIMIT (R6). -/
def execPlayLockLimit (s : State) : Host.Outcome State Fault Refusal :=
  .next (awake (whenRunning s.trc.playLock fun t => completeHeld .failed .lock (stopTape t)) s)

/-- The lock-up fails (R15). -/
def lockupFails (s : State) : State := beginClose .failedStart (completeHeld .failed .lock (stopTape s))

/-- LOCKUP_LOCK_LIMIT (R15). -/
def execLockupLockLimit (s : State) : Host.Outcome State Fault Refusal :=
  .next (awake (whenRunning s.trc.lockupLock lockupFails) s)

/-- DIR_READ_NO_LOCK (R4). -/
def execDirReadNoLock (s : State) : Host.Outcome State Fault Refusal :=
  .next (awake (whenRunning s.trc.dirReadLock (finishRead .cut)) s)

/-- The watch timer of a reel. -/
def Trc.watch (t : Trc) : Reel → Timer
  | .supply => t.supplyWatch
  | .takeUp => t.takeUpWatch

/-- REEL_STALL (R21). -/
def execReelStall (reel : Reel) (s : State) : Host.Outcome State Fault Refusal :=
  .next (awake (whenRunning (s.trc.watch reel) (faultWith .failed .stall)) s)

/-- BLANK_TEST_EXPIRY (R51). -/
def execBlankTestExpiry (s : State) : Host.Outcome State Fault Refusal :=
  .next (awake (whenRunning s.dir.blankTest fun t => if t.trc.state = .dirRead then finishRead .blank t else t) s)

/-- BLANK_FLAG_TIMEOUT (R31). -/
def execBlankFlagTimeout (s : State) : Host.Outcome State Fault Refusal :=
  .next (awake (whenRunning s.tcb.blankTimer fun t =>
    if t.tcb.steadyOpen ∧ t.trc.state.measures then t.setTcb { t.tcb with blankFlag := true, blankTimer := none } else t) s)

/-! ### Counts at their ends (R4, R10, R15, R17, R18) -/

/-- RESERVE_COMPLETE (R15). -/
def execReserveComplete (s : State) : Host.Outcome State Fault Refusal :=
  .next (awake (fun t => if t.trc.state = .lockup ∧ t.reserveDone then beginLockPhase t else t) s)

/-- BACKSPACE_COMPLETE (R17). -/
def execBackspaceComplete (s : State) : Host.Outcome State Fault Refusal :=
  .next (awake (fun t =>
    if t.trc.state = .lockup ∧ t.trc.phase = .backspace ∧ 50 ≤ t.trc.backspaceCount then beginForwardRun t else t) s)

/-- SEAM_WRITE_FRAME (R17). -/
def execSeamWriteFrame (s : State) : Host.Outcome State Fault Refusal :=
  .next (awake (fun t =>
    if t.trc.state = .lockup ∧ t.trc.phase = .forwardRun ∧ t.trc.backspaceCount = 0 then seam t else t) s)

/-- REGION_PASSED (R4). -/
def execRegionPassed (s : State) : Host.Outcome State Fault Refusal :=
  .next (awake (fun t => if t.regionPassed then finishRead .passed t else t) s)

/-- DIR_WRITE_COMPLETE (R61). -/
def execDirWriteComplete (s : State) : Host.Outcome State Fault Refusal := .next (awake endDirWrite s)

/-- A locate whose target stands is done (R10). -/
def locateReached (s : State) : State :=
  match s.trc.locate with
  | some l => if s.targetStands l then targetReached l s else s
  | none => s

/-- LOCATE_TARGET_REACHED (R10). -/
def execLocateTargetReached (s : State) : Host.Outcome State Fault Refusal := .next (awake locateReached s)

/-! ### Upsets (R22) -/

/-- SINGLE_UPSET (R22). -/
def execSingleUpset (s : State) : Host.Outcome State Fault Refusal := .next (awake (raise .stateCorrected) s)

/-- DOUBLE_UPSET (R22). -/
def execDoubleUpset (s : State) : Host.Outcome State Fault Refusal :=
  .next (awake (fun t => faultWith .aborted .fault (raise .stateAbort t)) s)

/-! ### Cue capture, tuners, search, keys (R85, R98, R104 to R107, R116) -/

/-- CUE_AGE_EXPIRY (R116). -/
def execCueAgeExpiry (x : TunerId) (s : State) : Host.Outcome State Fault Refusal :=
  .next (awake (fun t => if (t.cueRecord x).expired then ageExpires x t else t) s)

/-- A settle count that stands at 0 with the tuner still settling runs out (R85). -/
def settleRunsOut (x : TunerId) (s : State) : State :=
  if s.settling x ≠ .none ∧ (s.tuner x).settle = 0 then
    let r := settleExpires x s
    if r.2 then sourceReady r.1 else r.1
  else s

/-- SETTLE_COUNT_EXPIRY (R85). -/
def execSettleCountExpiry (x : TunerId) (s : State) : Host.Outcome State Fault Refusal :=
  .next (awake (settleRunsOut x) s)

/-- A key is complete; the end of a whole list for RECORD is reported to the scheduler (R98, R149). -/
def irKeyComplete (s : State) : State := if s.irDoneDue then irDone (keyEnds s) else keyEnds s

/-- IR_KEY_COMPLETE (R98). -/
def execIrKeyComplete (s : State) : Host.Outcome State Fault Refusal := .next (awake irKeyComplete s)

/-- IR_WAIT_EXPIRY (R149). -/
def execIrWaitExpiry (s : State) : Host.Outcome State Fault Refusal :=
  .next (awake (fun t => if t.sch.session.any (fun x => x.irWait.isSome) then sourceReady t else t) s)

/-- STEP_OBSERVATION_LIMIT (R104). -/
def execStepObservationLimit (s : State) : Host.Outcome State Fault Refusal :=
  .next (awake (fun t => if t.searchLimitDue .step then passOver t else t) s)

/-- CONFIRM_LIMIT (R105). -/
def execConfirmLimit (s : State) : Host.Outcome State Fault Refusal :=
  .next (awake (fun t => if t.searchLimitDue .confirm then passOver t else t) s)

/-- TRIM_LIMIT (R106). -/
def execTrimLimit (s : State) : Host.Outcome State Fault Refusal :=
  .next (awake (fun t => if t.searchLimitDue .trim then foldTrim t else t) s)

/-- NAME_LIMIT (R107). -/
def execNameLimit (s : State) : Host.Outcome State Fault Refusal :=
  .next (awake (fun t => if t.searchLimitDue .name then searchAddition t else t) s)

/-- The loss timer runs out: the session closes once now is at or after its occurrence stop (R169). -/
def lossExpires (s : State) : State := evalCueLoss (modSession (fun x => { x with lossTimer := none }) s)

/-- CUE_LOSS_TIMER_EXPIRY (R169). -/
def execCueLossTimerExpiry (s : State) : Host.Outcome State Fault Refusal :=
  .next (awake (fun t => if t.sch.session.any (fun x => x.lossTimer.isSome) then lossExpires t else t) s)

end Sys2Proof.Machine
end

