-- ==== Sys2Proof/Machine/SupplyEvents.lean ====
section
/-! DEFINITION. The meanings of the supply's events, the store's ends and the timebase's second (chapters 8 and 12). -/

namespace Sys2Proof.Machine

/-- MAINS_FAILURE (R193): the sense is now `mv`; below the threshold, out of BACKUP, it is a failure. -/
def execMainsFailure (mv : Nat) (s : State) : Host.Outcome State Fault Refusal :=
  let t := s.setPins { s.pins with mainsSense := mv }
  .next (if t.mainsLow ∧ t.sto.power ≠ .backup then mainsFails t else t)

/-- MAINS_RETURN (R194): the sense has stood at `mv`; at or above the threshold, in BACKUP, mains has returned. -/
def execMainsReturn (mv : Nat) (s : State) : Host.Outcome State Fault Refusal :=
  let t := s.setPins { s.pins with mainsSense := mv }
  .next (if ¬ t.mainsLow ∧ t.sto.power = .backup then mainsReturns t else t)

/-- RESET_INPUT_ASSERT (R194). -/
def execResetInputAssert (s : State) : Host.Outcome State Fault Refusal :=
  .next (if s.sto.resetAsserted then s else resetAsserts s)

/-- RESET_INPUT_RELEASE (R194). -/
def execResetInputRelease (s : State) : Host.Outcome State Fault Refusal :=
  .next (if s.sto.resetAsserted then resetReleases s else s)

/-- COLD_START (R195). -/
def execColdStart (s : State) : Host.Outcome State Fault Refusal := .next (coldStart s)

/-- STORE_READ_DONE (R195). -/
def execStoreReadDone (bytes : Option (List Byte)) (s : State) : Host.Outcome State Fault Refusal :=
  .next (awake (fun t =>
    match t.sto.reading with
    | none => t
    | some i => readDone i bytes t) s)

/-- WRITE_DONE (R190). -/
def execWriteDone (s : State) : Host.Outcome State Fault Refusal :=
  .next (awake (fun t => if t.sto.writing.isSome then writeEnds .pass t else t) s)

/-- WRITE_FAIL (R190). -/
def execWriteFail (s : State) : Host.Outcome State Fault Refusal :=
  .next (awake (fun t => if t.sto.writing.isSome then raise .storeFail (writeEnds .fail t) else t) s)

/-- SECOND_EVENT (R125): taken in every power state. -/
def execSecondEvent (s : State) : Host.Outcome State Fault Refusal := .next (secondEvent s)

/-- BACKUP_SUPPLY_LOST (R194): the backup domain is lost during a mains failure. -/
def execBackupSupplyLost (s : State) : Host.Outcome State Fault Refusal :=
  .next (if s.sto.power = .backup then domainLost s else s)

end Sys2Proof.Machine
end

