-- ==== Sys2Proof/Machine/Dispatch.lean ====
section
/-! DEFINITION. The dispatch: one arm for each constructor of Instr, each a direct call of its meaning. -/

namespace Sys2Proof.Machine

/-- The effect of a command on everything but the queue. -/
def exec (i : Instr) (s : State) : Host.Outcome State Fault Refusal :=
  match i with
  | .play tag args => Sys2Proof.Machine.execPlay tag args s
  | .record tag args => Sys2Proof.Machine.execRecord tag args s
  | .pause tag args => Sys2Proof.Machine.execPause tag args s
  | .stop tag args => Sys2Proof.Machine.execStop tag args s
  | .windForward tag args => Sys2Proof.Machine.execWindForward tag args s
  | .windBack tag args => Sys2Proof.Machine.execWindBack tag args s
  | .pictureSearch tag args => Sys2Proof.Machine.execPictureSearch tag args s
  | .locate tag args => Sys2Proof.Machine.execLocate tag args s
  | .seekIndex tag args => Sys2Proof.Machine.execSeekIndex tag args s
  | .seekEntry tag args => Sys2Proof.Machine.execSeekEntry tag args s
  | .eject tag args => Sys2Proof.Machine.execEject tag args s
  | .setSpeed tag args => Sys2Proof.Machine.execSetSpeed tag args s
  | .zeroCounter tag args => Sys2Proof.Machine.execZeroCounter tag args s
  | .stageProfile tag args => Sys2Proof.Machine.execStageProfile tag args s
  | .commitProfile tag args => Sys2Proof.Machine.execCommitProfile tag args s
  | .readProfile tag args => Sys2Proof.Machine.execReadProfile tag args s
  | .setProfile tag args => Sys2Proof.Machine.execSetProfile tag args s
  | .readEntry tag args => Sys2Proof.Machine.execReadEntry tag args s
  | .deleteEntry tag args => Sys2Proof.Machine.execDeleteEntry tag args s
  | .view tag args => Sys2Proof.Machine.execView tag args s
  | .stageChannel tag args => Sys2Proof.Machine.execStageChannel tag args s
  | .commitChannel tag args => Sys2Proof.Machine.execCommitChannel tag args s
  | .clearChannel tag args => Sys2Proof.Machine.execClearChannel tag args s
  | .readChannel tag args => Sys2Proof.Machine.execReadChannel tag args s
  | .loadIrProfile tag args => Sys2Proof.Machine.execLoadIrProfile tag args s
  | .startSearch tag args => Sys2Proof.Machine.execStartSearch tag args s
  | .endSearch tag args => Sys2Proof.Machine.execEndSearch tag args s
  | .readSearch tag args => Sys2Proof.Machine.execReadSearch tag args s
  | .readCue tag args => Sys2Proof.Machine.execReadCue tag args s
  | .releaseCue tag args => Sys2Proof.Machine.execReleaseCue tag args s
  | .setClock tag args => Sys2Proof.Machine.execSetClock tag args s
  | .readClock tag args => Sys2Proof.Machine.execReadClock tag args s
  | .stageTimer tag args => Sys2Proof.Machine.execStageTimer tag args s
  | .commitTimer tag args => Sys2Proof.Machine.execCommitTimer tag args s
  | .readTimer tag args => Sys2Proof.Machine.execReadTimer tag args s
  | .clearTimer tag args => Sys2Proof.Machine.execClearTimer tag args s
  | .setOption tag args => Sys2Proof.Machine.execSetOption tag args s
  | .power tag args => Sys2Proof.Machine.execPower tag args s
  | .acknowledge tag args => Sys2Proof.Machine.execAcknowledge tag args s
  | .resetUnit tag args => Sys2Proof.Machine.execResetUnit tag args s
  | .unknownCommand tag code args => Sys2Proof.Machine.execUnknownCommand tag code args s
  | .fieldHeader stream parity grade afc => Sys2Proof.Machine.execFieldHeader stream parity grade afc s
  | .linePacket stream line payload => Sys2Proof.Machine.execLinePacket stream line payload s
  | .streamSilenceTimeout stream => Sys2Proof.Machine.execStreamSilenceTimeout stream s
  | .substituteField stream => Sys2Proof.Machine.execSubstituteField stream s
  | .generatedBlankField out => Sys2Proof.Machine.execGeneratedBlankField out s
  | .cassetteInSwitch pos => Sys2Proof.Machine.execCassetteInSwitch pos s
  | .threadedSwitch closed => Sys2Proof.Machine.execThreadedSwitch closed s
  | .unthreadedSwitch closed => Sys2Proof.Machine.execUnthreadedSwitch closed s
  | .writeProtectTab tab => Sys2Proof.Machine.execWriteProtectTab tab s
  | .startSensorActive => Sys2Proof.Machine.execStartSensorActive s
  | .startSensorInactive => Sys2Proof.Machine.execStartSensorInactive s
  | .endSensorActive active => Sys2Proof.Machine.execEndSensorActive active s
  | .dewSensorActive => Sys2Proof.Machine.execDewSensorActive s
  | .dewSensorClear => Sys2Proof.Machine.execDewSensorClear s
  | .supplyReelPulse ms => Sys2Proof.Machine.execSupplyReelPulse ms s
  | .takeUpReelPulse ms => Sys2Proof.Machine.execTakeUpReelPulse ms s
  | .controlPulse dir marked => Sys2Proof.Machine.execControlPulse dir marked s
  | .servoLocked => Sys2Proof.Machine.execServoLocked s
  | .servoUnlocked => Sys2Proof.Machine.execServoUnlocked s
  | .motionSteady => Sys2Proof.Machine.execMotionSteady s
  | .atRest => Sys2Proof.Machine.execAtRest s
  | .threadingLimit => Sys2Proof.Machine.execThreadingLimit s
  | .unthreadingLimit => Sys2Proof.Machine.execUnthreadingLimit s
  | .pushOutLimit => Sys2Proof.Machine.execPushOutLimit s
  | .pauseTimerExpiry => Sys2Proof.Machine.execPauseTimerExpiry s
  | .playLockLimit => Sys2Proof.Machine.execPlayLockLimit s
  | .lockupLockLimit => Sys2Proof.Machine.execLockupLockLimit s
  | .dirReadNoLock => Sys2Proof.Machine.execDirReadNoLock s
  | .reelStall reel => Sys2Proof.Machine.execReelStall reel s
  | .blankTestExpiry => Sys2Proof.Machine.execBlankTestExpiry s
  | .blankFlagTimeout => Sys2Proof.Machine.execBlankFlagTimeout s
  | .reserveComplete => Sys2Proof.Machine.execReserveComplete s
  | .backspaceComplete => Sys2Proof.Machine.execBackspaceComplete s
  | .seamWriteFrame => Sys2Proof.Machine.execSeamWriteFrame s
  | .regionPassed => Sys2Proof.Machine.execRegionPassed s
  | .dirWriteComplete => Sys2Proof.Machine.execDirWriteComplete s
  | .locateTargetReached => Sys2Proof.Machine.execLocateTargetReached s
  | .singleUpset => Sys2Proof.Machine.execSingleUpset s
  | .doubleUpset => Sys2Proof.Machine.execDoubleUpset s
  | .mainsFailure mv => Sys2Proof.Machine.execMainsFailure mv s
  | .mainsReturn mv => Sys2Proof.Machine.execMainsReturn mv s
  | .resetInputAssert => Sys2Proof.Machine.execResetInputAssert s
  | .resetInputRelease => Sys2Proof.Machine.execResetInputRelease s
  | .coldStart => Sys2Proof.Machine.execColdStart s
  | .storeReadDone bytes => Sys2Proof.Machine.execStoreReadDone bytes s
  | .writeDone => Sys2Proof.Machine.execWriteDone s
  | .writeFail => Sys2Proof.Machine.execWriteFail s
  | .secondEvent => Sys2Proof.Machine.execSecondEvent s
  | .cueAgeExpiry tuner => Sys2Proof.Machine.execCueAgeExpiry tuner s
  | .settleCountExpiry tuner => Sys2Proof.Machine.execSettleCountExpiry tuner s
  | .irKeyComplete => Sys2Proof.Machine.execIrKeyComplete s
  | .irWaitExpiry => Sys2Proof.Machine.execIrWaitExpiry s
  | .stepObservationLimit => Sys2Proof.Machine.execStepObservationLimit s
  | .confirmLimit => Sys2Proof.Machine.execConfirmLimit s
  | .trimLimit => Sys2Proof.Machine.execTrimLimit s
  | .nameLimit => Sys2Proof.Machine.execNameLimit s
  | .cueLossTimerExpiry => Sys2Proof.Machine.execCueLossTimerExpiry s
  | .backupSupplyLost => Sys2Proof.Machine.execBackupSupplyLost s

end Sys2Proof.Machine
end

