-- ==== Sys2Proof/Safety.lean ====
section
/-! DEFINITION. What statements say of the machine: invariants of its state, the conditions under which it takes a command,
and the records a command leaves. Each record is written out from the rules of spec/, beside the operations of the
model. -/

namespace Sys2Proof.Machine

/-! ### Invariants -/

/-- The control line unit keeps its six reply places and two in-flight places, and every serial number in use is one
already given out (R176, R178, R180; log 8). -/
abbrev State.ControlPathSound (s : State) : Prop :=
  s.clu.ready.length + s.clu.reserved.length ≤ 6 ∧ s.clu.inFlight.length ≤ 2 ∧ s.clu.reserved.Nodup ∧
  (∀ id ∈ s.clu.reserved, id < s.clu.nextId) ∧ (∀ f ∈ s.clu.inFlight, f.id < s.clu.nextId) ∧
  (∀ h ∈ s.trc.held, h.id < s.clu.nextId) ∧ (∀ id ∈ s.sch.clears, id < s.clu.nextId)

/-- The counters stay inside their ranges (section 2.1; R26, R27, R30). -/
abbrev State.CountersSound (s : State) : Prop :=
  -899999 ≤ s.tcb.relCounter ∧ s.tcb.relCounter ≤ 899999 ∧ s.tcb.absPos ≤ 899999 ∧
  -99999 ≤ s.tcb.indexCount ∧ s.tcb.indexCount ≤ 99999

/-- Every table, list and ring has the size its section gives (sections 2.1, 3.1, 5.1, 7.1 and 9.1). -/
abbrev State.SizesSound (s : State) : Prop :=
  s.tcb.history.length ≤ 8 ∧ s.tcb.profiles.length = 8 ∧ s.dir.image.length ≤ 24 ∧
  s.tun.channels.length = 100 ∧ s.sch.timers.length = 16 ∧ s.cue.ring.length ≤ 8 ∧
  s.cue.a.age ≤ 125 ∧ s.cue.b.age ≤ 125

/-- A tuned tuner's AFC offset lies in ±24, and the word last sent to it is the one of its record (R84, R85, R87). -/
abbrev Tuner.WordSound (t : Tuner) (word : Option SynthWord) : Prop :=
  -24 ≤ t.afc ∧ t.afc ≤ 24 ∧
  ∀ f ∈ t.frequency, word = some { band := bandOf f, n := (f : Int) + 778 + t.fine + t.afc }

/-- The owner of a view source (section 5.7). -/
def State.ownerOf (s : State) : ViewSource → Owner
  | .tunerA => s.tun.tunerA.owner
  | .tunerB => s.tun.tunerB.owner
  | .external => s.tun.ext.owner

/-- The tuners' words follow their records, a running search holds tuner B at its current frequency, the view's source is
owned by VIEW, and no search runs while the part is asleep (R84, R90, R103, R111). -/
abbrev State.TuningSound (s : State) : Prop :=
  s.tun.tunerA.WordSound s.tun.wordA ∧ s.tun.tunerB.WordSound s.tun.wordB ∧
  (s.tun.search.state = .running →
    s.tun.tunerB.owner = .search ∧ s.tun.tunerB.frequency = some s.tun.search.frequency) ∧
  (∀ v ∈ s.tun.view, s.ownerOf v.2 = .view) ∧ (s.asleep = true → s.tun.search.state = .idle)

/-- The transport records, pauses or locks up only for a session, holds a record start order only for one, and has let
go of it once the session is closing (R13, R156). -/
abbrev State.SessionHoldsTransport (s : State) : Prop :=
  (s.trc.state.isSession = true → s.sch.session.isSome) ∧ (s.trc.heldStart.isSome → s.sch.session.isSome) ∧
  (∀ x ∈ s.sch.session, x.state = .closing → s.trc.heldStart = none ∧ s.trc.state.isSession = false)

/-- The pending-write set names each record once, and a record being written carries its kind and index and sums to 0
(R189, R198). -/
abbrev State.StoreSound (s : State) : Prop :=
  s.sto.pendingWrites.Nodup ∧
  ∀ w ∈ s.sto.writing, sumBytes w.2 = 0 ∧ w.2.take 2 = [Byte.ofNat w.1.kind, Byte.ofNat w.1.index]

/-- The clock holds a date of the calendar, a time of day, and the date's day of the week (R125 to R127). -/
abbrev State.CalendarSound (s : State) : Prop :=
  s.clk.now.valid = true ∧ s.clk.dow = s.clk.now.date.dow

/-! ### Commands at the control line unit -/

/-- The part takes a command of this tag: it is not asleep, and a reply place is free or none is needed (R176, R177). -/
abbrev State.takes (s : State) (tag : Byte) : Prop :=
  s.ControlPathSound ∧ s.asleep = false ∧ (tag = 0 ∨ s.clu.freePlaces ≠ 0)

/-- The part takes the command, and the cold-start read is over (R177, R195). -/
abbrev State.serves (s : State) (tag : Byte) : Prop := s.takes tag ∧ s.starting = false

/-- After a command that its owner answered at once: the reply has joined the ready places, unless the tag is 0 (R176,
R177, R181). -/
def Clu.answered (c : Clu) (tag : Byte) (code : Nat) (o : ReplyOutcome) (r : Reason) (result : List Byte) : Clu :=
  { c with
    nextId := c.nextId + 1
    ready := if tag = 0 then c.ready
             else c.ready ++ [{ tag := tag, code := code, outcome := o, reason := r, result := result }] }

/-- After a command that its owner holds: a reply place is reserved, unless the tag is 0, and an in-flight place is taken
(R176, R178). -/
def Clu.holding (c : Clu) (tag : Byte) (code : Nat) (owner : OwnerBlock) : Clu :=
  { c with
    nextId := c.nextId + 1
    reserved := if tag = 0 then c.reserved else c.reserved ++ [c.nextId]
    inFlight := c.inFlight ++ [{ id := c.nextId, tag := tag, code := code, owner := owner }] }

/-- After a completion of the command in flight `f`: its place is free, and its reply, if a place is reserved for it, has
joined the ready places (R179). -/
def Clu.completed (c : Clu) (f : InFlight) (o : ReplyOutcome) (r : Reason) : Clu :=
  { c with
    inFlight := c.inFlight.filter fun g => g.id ≠ f.id
    reserved := c.reserved.erase f.id
    ready := if f.id ∈ c.reserved then
               c.ready ++ [{ tag := f.tag, code := f.code, outcome := o, reason := r, result := [] }]
             else c.ready }

/-- The state with sticky events set (R183). -/
def State.withSticky (s : State) (m : BitVec 18) : State := { s with clu := { s.clu with sticky := s.clu.sticky ||| m } }

/-! ### The transport -/

/-- No session and no other transport command holds the tape, the deck is ON, and an in-flight place is free (R5, R178). -/
abbrev State.tapeFree (s : State) : Prop :=
  s.sto.power = .on ∧ s.sch.session = none ∧ s.trc.held = none ∧ s.clu.inFlight.length < 2

/-- The states in which a motion command is accepted: STOPPED, and the states that a host's motion made (R6, R9, R10). -/
abbrev Trc.takesOrder (t : Trc) : Prop :=
  t.state = .stopped ∨ t.state = .play ∨ t.state = .playPause ∨ t.state = .windFwd ∨ t.state = .windBack ∨
  t.state = .searchFwd ∨ t.state = .searchBack ∨ t.state = .locate ∨ t.state = .dirRead

/-- No limit of the transport runs. -/
def Trc.noLimits (t : Trc) : Trc :=
  { t with pauseTimer := none, playLock := none, lockupLock := none, dirReadLock := none, threadingLimit := none,
           unthreadingLimit := none, pushOutLimit := none, rewindDue := false }

/-- A motion state is entered: servo UNLOCKED, the reel watches started when the tape stood, the at-rest mark and the
locate record gone, the motion-steady event awaited (R6, R9, R21). -/
def Trc.movesInto (t : Trc) (st : TState) (ph : Phase) : Trc :=
  { t.noLimits with
    state := st, phase := ph, servoLocked := false, atRestMark := false, steadyAwaited := true, locate := none,
    seek := none
    supplyWatch := if t.state.isMotion then t.supplyWatch else some 4096
    takeUpWatch := if t.state.isMotion then t.takeUpWatch else some 4096 }

/-- STOPPED is entered: the reel watches stop, and the at-rest mark is set when the tape was in motion (R8, R21). -/
def Trc.stops (t : Trc) : Trc :=
  { t.noLimits with
    state := .stopped, phase := .idle, servoLocked := false, steadyAwaited := false, locate := none, seek := none
    supplyWatch := none, takeUpWatch := none, atRestMark := t.atRestMark || t.state.isMotion }

/-- A state outside motion other than STOPPED is entered: the reel watches stop. -/
def Trc.restsIn (t : Trc) (st : TState) (ph : Phase) : Trc :=
  { t.noLimits with state := st, phase := ph, steadyAwaited := false, supplyWatch := none, takeUpWatch := none }

/-- FAULT is entered: motors off, every order and record of the transport dropped (R23). -/
def Trc.faults (t : Trc) : Trc :=
  { t.restsIn .fault .idle with
    locate := none, seek := none, pausePoint := none, atRestMark := false, heldHalt := false, heldStart := none,
    heldPause := false, heldResume := none }

/-- The state with another transport record: the steady window closes with the state left (R38), and a directory write
that has not ended is discarded (R61). -/
def State.transportTo (s : State) (t : Trc) : State :=
  { s with trc := t, tcb := s.tcb.closeWindow, dir := { s.dir with writeImage := none } }

/-- The state with a transport command held in flight and its motion ordered (R5, R178). -/
def State.ordered (s : State) (tag : Byte) (code : Nat) (t : Trc) : State :=
  { s.transportTo { t with held := some { id := s.clu.nextId, code := code } } with clu := s.clu.holding tag code .trc }

/-- The state with a transport command completed at once (R179). -/
def State.completedAtOnce (s : State) (tag : Byte) (code : Nat) (o : ReplyOutcome) (r : Reason) (t : Trc) : State :=
  { s.transportTo t with clu := s.clu.answered tag code o r [] }

/-- An order ends a directory read under way: the directory is UNKNOWN, with nothing of it kept (R4, R46, R52). -/
def State.readCut (s : State) : State :=
  if s.trc.state = .dirRead then
    { s with dir := { s.dir with
        state := .unknown, image := [], dirty := false, generation := 0, range := none, collecting := false,
        blankTest := none, changed := false } }
  else s

/-- The transport lets go of the command it holds, with a reply: `c` is the control line unit afterwards, unchanged when none
is held (R5, R179). -/
abbrev State.letsGo (s : State) (o : ReplyOutcome) (r : Reason) (c : Clu) : Prop :=
  (s.trc.held = none ∧ c = s.clu) ∨
  ∃ f : InFlight, s.trc.held = some { id := f.id, code := f.code } ∧
    s.clu.inFlight.find? (fun g => g.id = f.id) = some f ∧ c = s.clu.completed f o r

/-- The directory UNKNOWN, with nothing of it kept (R46). -/
def Dir.lost (d : Dir) : Dir :=
  { d with
    state := .unknown, image := [], dirty := false, generation := 0, range := none, collecting := false, blankTest := none,
    changed := false, writeImage := none }

/-- The three copy collections, 25 empty places each (R49). -/
def noFragments : List (List (Option (List Byte))) := List.replicate 3 (List.replicate 25 none)

/-- PLAY is entered with its 3 s lock limit (R6). -/
def Trc.plays (t : Trc) : Trc := { t.movesInto .play .idle with playLock := some 3000 }

/-- The transport after the end action of a locate under way (R10). -/
def Trc.endsWith (t : Trc) : EndAction → Trc
  | .stop => t.stops
  | .play => t.plays

/-- The state after the end action of a locate (R10): the tape stops, or PLAY is entered as R6 gives, which changes nothing in
PLAY and sets no lock limit from PLAY_PAUSE. -/
def State.endAction (s : State) : EndAction → State
  | .stop => s.transportTo s.trc.stops
  | .play =>
    if s.trc.state = .play then s
    else if s.trc.state = .playPause then s.transportTo (s.trc.movesInto .play .idle)
    else s.transportTo s.trc.plays

/-- The end latch after a motion in a direction is accepted: reverse motion clears it (R9, R10, R12). -/
def Trc.latchAfter (t : Trc) : Direction → Bool
  | .forward => t.endLatch
  | .reverse => false

/-- The leader ahead in a direction is at its sensor (R9, R10). -/
def State.atLeader (s : State) : Direction → Bool
  | .forward => s.pins.endSensor
  | .reverse => s.pins.startSensor

/-- The byte of an end action (section 13.1). -/
def EndAction.byte : EndAction → Byte
  | .stop => 0
  | .play => 1

/-- LOCATE's argument bytes: the kind, the target in three bytes of two's complement, the end action (section 13.1). -/
def locateArgs (kind target : Int) (e : EndAction) : List Byte :=
  [Byte.ofInt kind, Byte.ofInt (target / 65536), Byte.ofInt (target / 256), Byte.ofInt target, e.byte]

/-- The state after an accepted LOCATE to a target, seen from the present value (R10): there already, the end action at
once; the leader ahead already reached, FAILED NOT_REACHED; else the wind begins. -/
def State.located (s : State) (tag : Byte) (code : Nat) (kind : LocateKind) (here target : Int) (e : EndAction) : State :=
  let d : Direction := if here < target then .forward else .reverse
  if here = target then { s.readCut.endAction e with clu := s.clu.answered tag code .done .none [] }
  else if s.atLeader d then
    s.readCut.completedAtOnce tag code .failed .notReached { s.trc.stops with endLatch := s.trc.latchAfter d }
  else
    s.readCut.ordered tag code
      { s.trc.movesInto .locate .wind with
        endLatch := s.trc.latchAfter d
        locate := some { kind := kind, target := some target, remaining := 0, direction := d, endAction := e } }

/-- The counter block at the leader's edge: EXACT at 0, no pulse counted since (R28). -/
def Tcb.atZero (t : Tcb) : Tcb := { t with exact := true, absPos := 0, pulseSinceExact := false }

/-- The near-end condition of R44 at a speed: a SETTLED estimate with 250 frames or fewer left. -/
def nearEndAt (history : List Nat) (speed : Speed) : Bool :=
  8 ≤ history.length ∧ (match speed with
    | .one => history.sum / history.length
    | .two => 2 * (history.sum / history.length)) ≤ 250

/-- The speed that counts for the remaining tape: a session's current speed, else the speed setting (R43). -/
def State.speedInForce (s : State) : Speed :=
  match s.sch.session with
  | none => s.trc.speedSetting
  | some x => x.currentSpeed

/-- The near-end mark follows its condition, and NEAR_END is raised when it comes to hold (R44). -/
def State.nearEndTested (s : State) : State :=
  { s with
    tcb := { s.tcb with nearEnd := nearEndAt s.tcb.history s.speedInForce }
    clu := if nearEndAt s.tcb.history s.speedInForce && !s.tcb.nearEnd then
             { s.clu with sticky := s.clu.sticky ||| Sticky.nearEnd.mask }
           else s.clu }

/-! ### The directory -/

/-- What an entry must be to have a slot on the tape: closed, its frames on the tape, its values within their places
(sections 3.4 and 13.4). -/
abbrev DirEntry.FitsSlot (e : DirEntry) : Prop :=
  75 ≤ e.start ∧ e.length.isSome ∧ 1 ≤ e.length.getD 0 ∧ e.start + e.length.getD 0 ≤ 899999 ∧
  (∀ w ∈ e.switchFrame, e.firstSpeed = .one ∧ e.start < w ∧ w < e.start + e.length.getD 0) ∧ e.source ≤ 100 ∧
  (∀ n ∈ e.network, n < 65536) ∧ (∀ k ∈ e.origin, k < 16) ∧
  (∀ l ∈ e.label, 1 ≤ l.day ∧ l.day ≤ 31 ∧ 1 ≤ l.month ∧ l.month ≤ 12 ∧ l.hour ≤ 23 ∧ l.minute ≤ 59) ∧
  (∃ r, e.endedBy = some r ∧
    r ∈ [EndReason.done, .doneLabel, .doneOverrun, .userStop, .tapeEnd, .transport, .pauseLimit, .dew, .mains, .deleted,
      .failedStart])

/-- The 25 fragments of a copy, of 16 bytes each (section 3.2). -/
def fragmentsOf (copy : List Byte) : List (Option (List Byte)) :=
  (List.range 25).map fun j => some ((copy.drop (16 * j)).take 16)

/-- The state after a change of the directory's image: the image is dirty, a write under way is told, and the session
learns the place of the open entry (R53, R59, R61). -/
def State.withImage (s : State) (image : List DirEntry) : State :=
  { s with
    dir := { s.dir with image := image, dirty := true, changed := true }
    sch := match s.sch.session with
      | none => s.sch
      | some x => { s.sch with
          session := some { x with entryNo := (image.findIdx? fun e => e.length.isNone).map (· + 1) } } }

/-! ### The tuners -/

/-- The record of a tuner just tuned: everything of its past cleared, the settle count at 8 (R83, R85). -/
def Tuner.tunedTo (owner : Owner) (channel : Option Nat) (frequency : Nat) (fine : Int) (line : Nat) : Tuner :=
  { owner := owner, channel := channel, frequency := some frequency, fine := fine, cueLine := some line, afc := 0,
    afcHistory := [], afcLimit := false, settle := 8, present := false, strongRun := 0, weakRun := 0 }

/-- The synthesizer word of a frequency and a fine offset, with no AFC offset (R84). -/
def wordFor (frequency : Nat) (fine : Int) : SynthWord :=
  { band := if frequency ≤ 3399 then .low else if frequency ≤ 8999 then .mid else .high
    n := (frequency : Int) + 778 + fine }

/-- The cue record of a tuner just tuned (R112). -/
def CueRecord.tunedTo (channel : Option Nat) : CueRecord :=
  { tuning := some channel, taking := false, lastCue := none, age := 0, current := none, lastTime := none }

/-- The state after a tune: the tuner's record and its word, its cue line and TUNE settling in the line port, and its cue
record starting anew (R83 to R85, R112). -/
def State.tuned (s : State) (x : TunerId) (owner : Owner) (channel : Option Nat) (frequency : Nat) (fine : Int)
    (line : Nat) : State :=
  match x with
  | .a => { s with
      tun := { s.tun with
        tunerA := Tuner.tunedTo owner channel frequency fine line, wordA := some (wordFor frequency fine) }
      lpt := { s.lpt with cueLineA := some line, settlingA := .tune }
      cue := { s.cue with a := CueRecord.tunedTo channel } }
  | .b => { s with
      tun := { s.tun with
        tunerB := Tuner.tunedTo owner channel frequency fine line, wordB := some (wordFor frequency fine) }
      lpt := { s.lpt with cueLineB := some line, settlingB := .tune }
      cue := { s.cue with b := CueRecord.tunedTo channel } }

/-- The state after a tuner's record is cleared, with its cue line, its settling and its cue record (R82, R112). -/
def State.untuned (s : State) (x : TunerId) : State :=
  match x with
  | .a => { s with
      tun := { s.tun with tunerA := Tuner.cleared }
      lpt := { s.lpt with cueLineA := none, settlingA := .none }
      cue := { s.cue with a := CueRecord.untuned } }
  | .b => { s with
      tun := { s.tun with tunerB := Tuner.cleared }
      lpt := { s.lpt with cueLineB := none, settlingB := .none }
      cue := { s.cue with b := CueRecord.untuned } }

/-- The cue line a channel is tuned with: its own, else the option's (R83). -/
def State.lineOf (s : State) (ch : Channel) : Nat := ch.cueLine.getD s.sto.options.defaultCueLine

/-- The state with a view, as the tuning controller and the line port hold it (section 5.7). -/
def State.viewing (s : State) (v : Option (Nat × ViewSource)) : State :=
  { s with tun := { s.tun with view := v }, lpt := { s.lpt with viewSource := v.map Prod.snd } }

/-- The state after the external box is granted while it is idle: the channel's first key is being sent with the profile
in force, the rest of its list waits (R98). -/
def State.keyed (s : State) (owner : Owner) (channel : Nat) (key : Byte) (rest : List Byte) : State :=
  { s with tun := { s.tun with ext := { s.tun.ext with
      owner := owner, channel := some channel
      sending := some { key := key, profile := s.tun.irProfile, rest := rest, sentFor := owner, cut := false } } } }

/-- What a channel's fields must be to be sent in STAGE CHANNEL's bytes (R79). -/
abbrev Channel.FitsFields (c : Channel) : Prop :=
  (match c.tuning with
   | .air f fine => f < 65536 ∧ -128 ≤ fine ∧ fine ≤ 127
   | .ext keys => 1 ≤ keys.length ∧ keys.length ≤ 4) ∧
  (∀ n ∈ c.network, n < 65536) ∧ (∀ l ∈ c.cueLine, 1 ≤ l ∧ l ≤ 255)

/-- The range check of COMMIT CHANNEL (R80). -/
abbrev Channel.Commits (c : Channel) : Prop :=
  (match c.tuning with
   | .air f fine => 900 ≤ f ∧ f ≤ 17200 ∧ -16 ≤ fine ∧ fine ≤ 15
   | .ext _ => True) ∧
  (∀ l ∈ c.cueLine, 6 ≤ l ∧ l ≤ 22)

/-- The search record of a new search (R102). -/
def Search.begun (state : SearchState) (f : Nat) : Search :=
  { state := state, frequency := f, phase := .step, count := 0, network := none, added := 0, result := .none }

/-! ### The scheduler at rest -/

/-- Nothing of the timer scheduler can act: no session, no watch, and every entry EMPTY. -/
abbrev State.schedulerIdle (s : State) : Prop :=
  s.sch.session = none ∧ s.sch.watch = none ∧ s.sch.timers = List.replicate 16 TimerEntry.empty

/-- No entry is WAITING and no channel is watched. -/
abbrev State.watchesNothing (s : State) : Prop :=
  s.sch.watch = none ∧ ∀ e ∈ s.sch.timers, e.state ≠ .waiting

/-! ### Dates and timer definitions -/

/-- One second later, by the calendar; the last second of the calendar is followed by its first (R125, R126, R132). -/
def DateTime.secondLater (t : DateTime) : DateTime :=
  if t.second < 59 then { t with second := t.second + 1 }
  else if t.minute < 59 then { t with minute := t.minute + 1, second := 0 }
  else if t.hour < 23 then { t with hour := t.hour + 1, minute := 0, second := 0 }
  else if t.date = { day := 31, month := 12, year := 99 } then
    { date := { day := 1, month := 1, year := 0 }, hour := 0, minute := 0, second := 0 }
  else { date := t.date.nextDay, hour := 0, minute := 0, second := 0 }

/-- What a timer definition's values must be to be sent in STAGE TIMER's bytes (R136). -/
abbrev TimerDef.FitsFields (t : TimerDef) : Prop :=
  t.channel < 256 ∧ t.startHour < 256 ∧ t.startMinute < 256 ∧ t.stopHour < 256 ∧ t.stopMinute < 256 ∧
  (match t.rep with
   | .once d => d.day < 256 ∧ d.month < 256 ∧ d.year < 256
   | .daily => True
   | .weekdays => True
   | .weekly w => w < 256) ∧
  (∀ l ∈ t.label, l.day < 256 ∧ l.month < 256 ∧ l.hour < 256 ∧ l.minute < 256)

/-- Row 3 of COMMIT TIMER's checks passes (R137). -/
abbrev TimerDef.Commits (t : TimerDef) : Prop :=
  t.channel ≤ 99 ∧ t.startHour ≤ 23 ∧ t.startMinute ≤ 59 ∧ t.stopHour ≤ 23 ∧ t.stopMinute ≤ 59 ∧
  ¬ (t.startHour = t.stopHour ∧ t.startMinute = t.stopMinute) ∧
  (match t.rep with
   | .once d => 1 ≤ d.month ∧ d.month ≤ 12 ∧ d.year ≤ 99 ∧ 1 ≤ d.day ∧ d.day ≤ monthLength d.year d.month
   | .daily => True
   | .weekdays => True
   | .weekly w => w ≤ 6) ∧
  (∀ l ∈ t.label, 1 ≤ l.day ∧ l.day ≤ 31 ∧ 1 ≤ l.month ∧ l.month ≤ 12 ∧ l.hour ≤ 23 ∧ l.minute ≤ 59)

/-- A date, by its day number, matches a repeat (R142); days of the week count from 0 Monday, and a day past 31-12-99 is the
same day of the calendar's next round (R127, R132). -/
abbrev Repeat.On (r : Repeat) (d : Nat) : Prop :=
  match r with
  | .once date => d = date.dayNumber
  | .daily => True
  | .weekdays => (d % 36525 + 5) % 7 ≤ 4
  | .weekly w => (d % 36525 + 5) % 7 = w

/-! ### The line port -/

/-- The stream of a tuner (section 4.1). -/
def streamOf : TunerId → Inbound
  | .a => .ta
  | .b => .tb

/-- After a header of stream `i`: no line can come any more to a MON or REC field that carried the field before (R72, R73). -/
def State.fieldsEnded (s : State) (i : Inbound) : State :=
  { s with lpt := { s.lpt with
      mon := s.lpt.mon.map fun m => { m with sending := m.sending && decide (m.source ≠ some i) }
      recField := s.lpt.recField.map fun r => { r with sending := r.sending && decide (r.source ≠ some i) } } }

/-- A data line of a tuner's stream that is handed to cue capture: it fits the open field, each of its bytes passes parity, and it
stands on the tuner's cue line, the tuner settled (R64, R67, R69, R70). -/
abbrev State.hears (s : State) (x : TunerId) (line : BitVec 16) (bytes : List (Byte × Bool)) : Prop :=
  s.asleep = false ∧ (s.lpt.field (streamOf x)).presence ≠ .awaiting ∧ (s.lpt.field (streamOf x)).header ≠ none ∧
  1 ≤ line.toNat ∧ line.toNat ≤ 313 ∧ (∀ last ∈ (s.lpt.field (streamOf x)).lastLine, last < line.toNat) ∧
  (∀ b ∈ bytes, (((List.range 8).filter fun k => b.1.getLsbD k).length + (if b.2 then 1 else 0)) % 2 = 1) ∧
  s.cueLine x = some line.toNat ∧ s.settling x = .none

/-- After the line port has taken a line of stream `i`: its number is kept, and the line has joined the fields that carry the
stream while they are sent, black on MON while the tuner settles from a tune (R64, R70 to R73). -/
def State.lineSeen (s : State) (i : Inbound) (line : Nat) (payload : Payload) : State :=
  let u := setField i { s.lpt.field i with lastLine := some line } s
  let blacked : Prop := (i = .ta ∧ s.settling .a = .tune) ∨ (i = .tb ∧ s.settling .b = .tune)
  let shown : OutLine := if blacked then .black line else .passed line payload
  { u with lpt := { u.lpt with
      mon := s.lpt.mon.map fun m =>
        if m.source = some i ∧ m.sending then { m with lines := m.lines ++ [shown], sending := line ≠ 313 } else m
      recField := s.lpt.recField.map fun r =>
        if r.source = some i ∧ r.sending ∧ line ≠ 9 ∧ line ≠ 10 then
          { r with lines := r.lines ++ [.passed line payload], sending := line ≠ 313 }
        else r } }

/-- The line of a tuner confirms a cue that is not its current one: the same content was decoded last (R113 to R115). -/
abbrev State.confirms (s : State) (x : TunerId) (line : BitVec 16) (bytes : List (Byte × Bool)) (cue : Cue) : Prop :=
  s.hears x line bytes ∧ (s.cueRecord x).taking = true ∧ (s.cueRecord x).lastCue = some cue ∧
  (s.cueRecord x).current ≠ some cue ∧
  ∃ (head rest : List Byte) (h l day month hour minute status : Byte),
    bytes.map Prod.fst = 1 :: (head ++ [h, l, day, month, hour, minute, status] ++ rest) ∧ head.length = 4 ∧
    cue.network = h.toNat * 256 + l.toNat ∧
    ((status = 0 ∧ cue.status = .run) ∨ (status = 1 ∧ cue.status = .hold) ∨ (status = 2 ∧ cue.status = .clear)) ∧
    ((1 ≤ day.toNat ∧ day.toNat ≤ 31 ∧ 1 ≤ month.toNat ∧ month.toNat ≤ 12 ∧ hour.toNat ≤ 23 ∧ minute.toNat ≤ 59 ∧
        cue.label = some { day := day.toNat, month := month.toNat, hour := hour.toNat, minute := minute.toNat }) ∨
      (day = 0 ∧ month = 0 ∧ hour = 0 ∧ minute = 0 ∧ cue.label = none))

/-- After a cue is confirmed at a tuner, before anybody is told: it is current, of age 0, and has joined the ring, or found it
full (R114, R115, R117). -/
def State.cueHeard (s : State) (x : TunerId) (line : BitVec 16) (bytes : List (Byte × Bool)) (cue : Cue) : State :=
  let u := setCueRecord x { s.cueRecord x with age := 0, current := some cue }
    (s.lineSeen (streamOf x) line.toNat (.data bytes))
  if s.cue.ring.length < 8 then
    { u with cue := { u.cue with ring := s.cue.ring ++
        [{ tuner := x, channel := (s.cueRecord x).tuning.getD none, cue := cue, at_ := s.clk.now,
           status := s.clk.status }] } }
  else u.withSticky Sticky.cueRingFull.mask

/-- Writing has reached absolute 75, and the SECOND field of frame 74 has been given to REC (R18, R74). -/
abbrev State.lastFrameOnRec (s : State) : Prop :=
  s.trc.state = .dirWrite ∧ s.trc.phase = .writing ∧ 75 ≤ s.tcb.absPos ∧
  ∃ r n, s.lpt.recField = some r ∧ r.parity = .second ∧ r.frame = some n ∧ 74 ≤ n

/-! ### The catalogue -/

/-- The row of a command code (section 11.8); a code that names no command is UNKNOWN_COMMAND. -/
def rowOfCode (code tag : Byte) (args : List Byte) : Instr :=
  match code.toNat with
  | 1 => .play tag args | 2 => .record tag args | 3 => .pause tag args | 4 => .stop tag args
  | 5 => .windForward tag args | 6 => .windBack tag args | 7 => .pictureSearch tag args | 8 => .locate tag args
  | 9 => .seekIndex tag args | 10 => .seekEntry tag args | 11 => .eject tag args | 12 => .setSpeed tag args
  | 13 => .zeroCounter tag args | 14 => .stageProfile tag args | 15 => .commitProfile tag args
  | 16 => .readProfile tag args | 17 => .setProfile tag args | 18 => .readEntry tag args | 19 => .deleteEntry tag args
  | 20 => .view tag args | 21 => .stageChannel tag args | 22 => .commitChannel tag args | 23 => .clearChannel tag args
  | 24 => .readChannel tag args | 25 => .loadIrProfile tag args | 26 => .startSearch tag args
  | 27 => .endSearch tag args | 28 => .readSearch tag args | 29 => .readCue tag args | 30 => .releaseCue tag args
  | 31 => .setClock tag args | 32 => .readClock tag args | 33 => .stageTimer tag args | 34 => .commitTimer tag args
  | 35 => .readTimer tag args | 36 => .clearTimer tag args | 37 => .setOption tag args | 38 => .power tag args
  | 39 => .acknowledge tag args | 40 => .resetUnit tag args
  | _ => .unknownCommand tag code args

end Sys2Proof.Machine
end

