-- ==== Sys2Proof/Certificates/Slice0/Obligations.lean ====
section
/-! DEFINITION. The statements about the 7420, for the provers. -/

open Sys2Proof Sys2Proof.Machine

/-! ### The queue and the whole machine -/

/-- A step takes the command at the front of the queue and is `exec` of it on the state with the rest of the queue; on an
empty queue the block idles (the model's choice, log 27). -/
def Obligations.StepRunsTheFrontCommand : Prop :=
  (∀ (c : Instr) (rest : List Instr) (s : State),
    Sys2Proof.Machine.step { s with pending := c :: rest } = Sys2Proof.Machine.exec c { s with pending := rest }) ∧
  (∀ s : State, s.pending = [] → Sys2Proof.Machine.step s = .next s)

/-- Every invariant of this file holds right after reset. -/
def Obligations.ResetMeetsTheInvariants : Prop :=
  State.reset.ControlPathSound ∧ State.reset.CountersSound ∧ State.reset.SizesSound ∧ State.reset.TuningSound ∧
  State.reset.SessionHoldsTransport ∧ State.reset.StoreSound ∧ State.reset.CalendarSound

/-- No step takes a seventh reply place or a third in-flight place, and no serial number in use is given out again. -/
def Obligations.EveryStepKeepsTheControlPath : Prop :=
  ∀ s t : State, s.ControlPathSound → Sys2Proof.Machine.step s = .next t → t.ControlPathSound

/-- No step takes a counter out of its range, changes the size of a table, or outgrows a list or the cue ring. -/
def Obligations.EveryStepKeepsTheCountersAndSizes : Prop :=
  (∀ s t : State, s.CountersSound → Sys2Proof.Machine.step s = .next t → t.CountersSound) ∧
  (∀ s t : State, s.SizesSound → Sys2Proof.Machine.step s = .next t → t.SizesSound)

/-- No step leaves a tuner with a word that is not its record's, a running search without tuner B, or a view without its
source. -/
def Obligations.EveryStepKeepsTheTuning : Prop :=
  ∀ s t : State, s.TuningSound → Sys2Proof.Machine.step s = .next t → t.TuningSound

/-- No step leaves the transport recording, pausing a recording, locking up or holding a start order without a session,
or still in a session's hands while the session closes. -/
def Obligations.EveryStepKeepsTheSessionOnTheTransport : Prop :=
  ∀ s t : State, s.SessionHoldsTransport → Sys2Proof.Machine.step s = .next t → t.SessionHoldsTransport

/-- No step puts a record into the pending-write set twice, or writes a record whose bytes do not sum to 0. -/
def Obligations.EveryStepKeepsTheStore : Prop :=
  ∀ s t : State, s.StoreSound → Sys2Proof.Machine.step s = .next t → t.StoreSound

/-- No step takes the clock off the calendar or its day of the week off its date. -/
def Obligations.EveryStepKeepsTheCalendar : Prop :=
  ∀ s t : State, s.CalendarSound → Sys2Proof.Machine.step s = .next t → t.CalendarSound

/-! ### Host commands at the transport (chapter 1) -/

/-- PLAY, the winds and PICTURE SEARCH order their motion from STOPPED and from any motion of the host's: the command is held in
flight, the motion state entered, the end latch cleared by reverse motion, and a directory read under way cut. PLAY in PLAY
is DONE with nothing else changed, and in PLAY_PAUSE restarts the tape, DONE at once; with the leader ahead at its sensor
every one is refused STATE and changes nothing. -/
def Obligations.MotionCommandsOrderTheirMotion : Prop :=
  (∀ (tag : Byte) (s : State), s.serves tag → s.tapeFree → s.trc.takesOrder →
    (s.pins.endSensor = false → s.trc.state ≠ .play → s.trc.state ≠ .playPause →
      Sys2Proof.Machine.exec (.play tag []) s = .next (s.readCut.ordered tag 1 s.trc.plays)) ∧
    (s.pins.endSensor = false →
      Sys2Proof.Machine.exec (.windForward tag []) s =
        .next (s.readCut.ordered tag 5 (s.trc.movesInto .windFwd .idle)) ∧
      Sys2Proof.Machine.exec (.pictureSearch tag [0]) s =
        .next (s.readCut.ordered tag 7 (s.trc.movesInto .searchFwd .idle))) ∧
    (s.pins.startSensor = false →
      Sys2Proof.Machine.exec (.windBack tag []) s =
        .next (s.readCut.ordered tag 6 { s.trc.movesInto .windBack .idle with endLatch := false }) ∧
      Sys2Proof.Machine.exec (.pictureSearch tag [1]) s =
        .next (s.readCut.ordered tag 7 { s.trc.movesInto .searchBack .idle with endLatch := false }))) ∧
  (∀ (tag : Byte) (s : State), s.serves tag → s.tapeFree → s.trc.takesOrder →
    (s.pins.endSensor = false → s.trc.state = .play →
      Sys2Proof.Machine.exec (.play tag []) s = .next { s with clu := s.clu.answered tag 1 .done .none [] }) ∧
    (s.pins.endSensor = false → s.trc.state = .playPause →
      Sys2Proof.Machine.exec (.play tag []) s =
        .next (s.completedAtOnce tag 1 .done .none (s.trc.movesInto .play .idle))) ∧
    (s.pins.endSensor = true →
      Sys2Proof.Machine.exec (.play tag []) s = .next { s with clu := s.clu.answered tag 1 .refused .state [] } ∧
      Sys2Proof.Machine.exec (.windForward tag []) s = .next { s with clu := s.clu.answered tag 5 .refused .state [] } ∧
      Sys2Proof.Machine.exec (.pictureSearch tag [0]) s =
        .next { s with clu := s.clu.answered tag 7 .refused .state [] }) ∧
    (s.pins.startSensor = true →
      Sys2Proof.Machine.exec (.windBack tag []) s = .next { s with clu := s.clu.answered tag 6 .refused .state [] } ∧
      Sys2Proof.Machine.exec (.pictureSearch tag [1]) s =
        .next { s with clu := s.clu.answered tag 7 .refused .state [] }))

/-- The seven checks of R5 come in their order before a transport command's own rule: the first that applies is the reason
of the refusal, and nothing else changes. -/
def Obligations.TransportChecksComeInTheirOrder : Prop :=
  ∀ (code tag : Byte) (args : List Byte) (s : State), 1 ≤ code.toNat → code.toNat ≤ 11 → s.serves tag →
    let refusedWith (r : Reason) : Prop :=
      Sys2Proof.Machine.exec (rowOfCode code tag args) s =
        .next { s with clu := s.clu.answered tag code.toNat .refused r [] }
    let stop : Prop := code.toNat = 4
    let eject : Prop := code.toNat = 11
    (s.sto.power = .standby ∧ ¬ eject → refusedWith .notOn) ∧
    (¬ (s.sto.power = .standby ∧ ¬ eject) →
      ((s.trc.state = .empty ∨ s.trc.state = .ejected) → refusedWith .noCassette) ∧
      (s.trc.state = .fault ∧ ¬ stop → refusedWith .fault) ∧
      (s.trc.state = .dewHold ∧ ¬ eject → refusedWith .dew) ∧
      ((s.trc.state = .loading ∨ s.trc.state = .dirWrite ∨ s.trc.state = .unloading) → refusedWith .busy) ∧
      (s.trc.state = .lockup ∧ ¬ stop → refusedWith .busy) ∧
      ((s.trc.takesOrder ∨ s.trc.state = .record ∨ s.trc.state = .recordPause) → s.sch.session.isSome →
        ¬ stop → code.toNat ≠ 3 → code.toNat ≠ 2 → refusedWith .running))

/-- A motion command accepted while another transport command is in flight takes its place, for each of PLAY, WIND FORWARD,
WIND BACK, PICTURE SEARCH, LOCATE and SEEK INDEX: the old one is SUPERSEDED, the new one is held, and its motion replaces the
old one's; no counter moves, and no other block's state changes. -/
def Obligations.ANewOrderSupersedesTheOld : Prop :=
  ∀ (tag : Byte) (c : Clu) (s : State), s.serves tag → s.sto.power = .on → s.sch.session = none → s.trc.takesOrder →
    s.trc.held ≠ none → s.letsGo .superseded .none c →
    let replaces (row : Instr) (code : Nat) (t : Trc) : Prop :=
      Sys2Proof.Machine.exec row s =
        .next { s.readCut.transportTo { t with held := some { id := s.clu.nextId, code := code } } with
          clu := c.holding tag code .trc }
    let goes (d : Direction) (kind : LocateKind) (target : Option Int) (marks : Nat) (e : EndAction) : Trc :=
      { s.trc.movesInto .locate .wind with
        endLatch := s.trc.latchAfter d
        locate := some { kind := kind, target := target, remaining := marks, direction := d, endAction := e } }
    (s.pins.endSensor = false →
      (s.trc.state ≠ .play → s.trc.state ≠ .playPause → replaces (.play tag []) 1 s.trc.plays) ∧
      replaces (.windForward tag []) 5 (s.trc.movesInto .windFwd .idle) ∧
      replaces (.pictureSearch tag [0]) 7 (s.trc.movesInto .searchFwd .idle)) ∧
    (s.pins.startSensor = false →
      replaces (.windBack tag []) 6 { s.trc.movesInto .windBack .idle with endLatch := false } ∧
      replaces (.pictureSearch tag [1]) 7 { s.trc.movesInto .searchBack .idle with endLatch := false }) ∧
    (∀ (target : Int) (e : EndAction), -899999 ≤ target → target ≤ 899999 → target ≠ s.tcb.relCounter →
      let d : Direction := if s.tcb.relCounter < target then .forward else .reverse
      s.atLeader d = false → replaces (.locate tag (locateArgs 0 target e)) 8 (goes d .counter (some target) 0 e)) ∧
    (∀ (target : Int) (e : EndAction), 0 ≤ target → target ≤ 899999 → target ≠ s.tcb.absPos → s.tcb.exact = true →
      let d : Direction := if (s.tcb.absPos : Int) < target then .forward else .reverse
      s.atLeader d = false → replaces (.locate tag (locateArgs 1 target e)) 8 (goes d .absolute (some target) 0 e)) ∧
    (∀ (marks : Int) (e : EndAction), -99 ≤ marks → marks ≤ 99 → marks ≠ 0 →
      let d : Direction := if 0 < marks then .forward else .reverse
      s.atLeader d = false →
        replaces (.seekIndex tag [Byte.ofInt marks, e.byte]) 9 (goes d .index none marks.natAbs e))

/-- LOCATE to a counter value or an EXACT absolute position: the end action at once when it is there, FAILED NOT_REACHED
with the leader ahead reached, else a wind to it; SEEK INDEX winds for its marks. That the end action PLAY enters PLAY also while
the end sensor is active is the model's choice (log 64). -/
def Obligations.LocateAndSeekIndexGoToTheirTarget : Prop :=
  ∀ (tag : Byte) (e : EndAction) (s : State), s.serves tag → s.tapeFree → s.trc.takesOrder →
    (∀ target : Int, -899999 ≤ target → target ≤ 899999 →
      Sys2Proof.Machine.exec (.locate tag (locateArgs 0 target e)) s =
        .next (s.located tag 8 .counter s.tcb.relCounter target e)) ∧
    (∀ target : Int, 0 ≤ target → target ≤ 899999 → s.tcb.exact = true →
      Sys2Proof.Machine.exec (.locate tag (locateArgs 1 target e)) s =
        .next (s.located tag 8 .absolute s.tcb.absPos target e)) ∧
    (∀ target : Int, 0 ≤ target → target ≤ 899999 → s.tcb.exact = false →
      Sys2Proof.Machine.exec (.locate tag (locateArgs 1 target e)) s =
        .next { s with clu := s.clu.answered tag 8 .refused .state [] }) ∧
    (∀ marks : Int, -99 ≤ marks → marks ≤ 99 → marks ≠ 0 →
      let d : Direction := if 0 < marks then .forward else .reverse
      Sys2Proof.Machine.exec (.seekIndex tag [Byte.ofInt marks, e.byte]) s =
        .next (if s.atLeader d then
          s.readCut.completedAtOnce tag 9 .failed .notReached { s.trc.stops with endLatch := s.trc.latchAfter d }
        else
          s.readCut.ordered tag 9
            { s.trc.movesInto .locate .wind with
              endLatch := s.trc.latchAfter d
              locate := some { kind := .index, target := none, remaining := marks.natAbs, direction := d, endAction := e } }))

/-- SEEK ENTRY with the directory known and the position EXACT is a locate to the entry's start, or refused RANGE for no
entry; otherwise it winds back to the leader first. The model's choices: the locate record has no target yet (log 15), and the
end action PLAY of an entry that starts at the position enters PLAY also while the end sensor is active (log 64). -/
def Obligations.SeekEntryFindsItsEntry : Prop :=
  ∀ (tag k : Byte) (e : EndAction) (s : State), s.serves tag → s.tapeFree → s.trc.takesOrder →
    (s.dir.state ≠ .unknown → s.tcb.exact = true →
      (∀ x, k ≠ 0 → s.dir.image[k.toNat - 1]? = some x →
        Sys2Proof.Machine.exec (.seekEntry tag [k, e.byte]) s =
          .next (s.located tag 10 .absolute s.tcb.absPos x.start e)) ∧
      (k = 0 ∨ s.dir.image[k.toNat - 1]? = none →
        Sys2Proof.Machine.exec (.seekEntry tag [k, e.byte]) s =
          .next { s with clu := s.clu.answered tag 10 .refused .range [] })) ∧
    (s.dir.state = .unknown ∨ s.tcb.exact = false →
      (s.pins.startSensor = false →
        Sys2Proof.Machine.exec (.seekEntry tag [k, e.byte]) s =
          .next (s.readCut.ordered tag 10
            { s.trc.movesInto .locate .seekRewind with
              endLatch := false
              seek := some { entry := k.toNat, endAction := e }
              locate := some { kind := .absolute, target := none, remaining := 0, direction := .reverse, endAction := e } })) ∧
      (s.pins.startSensor = true →
        ∃ t, Sys2Proof.Machine.exec (.seekEntry tag [k, e.byte]) s = .next t ∧
          t.trc.state = .dirRead ∧ t.trc.seek = some { entry := k.toNat, endAction := e } ∧
          t.trc.endLatch = false ∧ t.tcb.exact = true ∧ t.tcb.absPos = 0 ∧
          t.clu = s.clu.holding tag 10 .trc))

/-- STOP without a session is DONE at once in STOPPED and in PLAY_PAUSE, where the drum stops; in motion the tape brakes and the
command waits for the at-rest event. In FAULT it is DONE at once and gives the state that the switches give, the position as it
stands, threading and unthreading waiting while the at-rest mark is set; a cassette found pushed out clears the end latch and the
history, and its directory is UNKNOWN (the model's reading where R12, R42 and R25 pull apart, log 65). While a session records or
pauses it holds the command, brakes the tape and closes the session USER_STOP, waiting for the at-rest event. -/
def Obligations.StopStopsTheTapeAndTheSession : Prop :=
  (∀ (tag : Byte) (s : State), s.serves tag → s.tapeFree →
    (s.trc.state = .stopped →
      Sys2Proof.Machine.exec (.stop tag []) s = .next { s with clu := s.clu.answered tag 4 .done .none [] }) ∧
    (s.trc.state = .playPause →
      Sys2Proof.Machine.exec (.stop tag []) s = .next (s.completedAtOnce tag 4 .done .none s.trc.stops)) ∧
    (s.trc.takesOrder → s.trc.state ≠ .stopped → s.trc.state ≠ .playPause →
      Sys2Proof.Machine.exec (.stop tag []) s = .next (s.readCut.ordered tag 4 s.trc.stops))) ∧
  (∀ (tag : Byte) (s : State), s.serves tag → s.tapeFree → s.trc.state = .fault →
    ∃ t, Sys2Proof.Machine.exec (.stop tag []) s = .next t ∧
      t.trc.state =
        (match s.pins.cassette with
         | .slotOpen => .empty
         | .partway => .ejected
         | .home => if s.pins.threaded then (if s.pins.dew then .dewHold else .stopped) else .loading) ∧
      (t.trc.state = .loading →
        t.trc.atRestMark = s.trc.atRestMark ∧
        t.trc.threadingLimit = if s.trc.atRestMark then none else some 8000) ∧
      (t.trc.state = .dewHold →
        t.trc.atRestMark = s.trc.atRestMark ∧
        t.trc.phase = (if s.trc.atRestMark then .dewBrake else .dewUnthread) ∧
        t.trc.unthreadingLimit = if s.trc.atRestMark then none else some 8000) ∧
      (t.trc.state = .stopped → t.trc = s.trc.stops ∧ t.dir = { s.dir with writeImage := none }) ∧
      (t.trc.state = .ejected → t.trc.endLatch = false ∧ t.dir.state = .unknown ∧
        t.tcb = { s.tcb.closeWindow with history := [], nearEnd := false } ∧
        t.sch = { s.sch with settledFigure := none }) ∧
      (t.trc.state ≠ .ejected → t.trc.endLatch = s.trc.endLatch ∧ t.tcb = s.tcb.closeWindow ∧ t.sch = s.sch) ∧
      t.clu = s.clu.answered tag 4 .done .none [] ∧
      t.tun = s.tun ∧ t.cue = s.cue ∧ t.clk = s.clk ∧ t.sto = s.sto ∧ t.lpt = s.lpt ∧ t.pins = s.pins) ∧
  (∀ (tag : Byte) (x : Session) (s : State), s.serves tag → s.sto.power = .on → s.trc.held = none →
    s.clu.inFlight.length < 2 → s.sch.session = some x → (x.state = .active ∨ x.state = .paused) →
    (s.trc.state = .record ∨ s.trc.state = .recordPause) →
    Sys2Proof.Machine.exec (.stop tag []) s =
      .next { s.ordered tag 4
          { s.trc.stops with
            atRestMark := true, pausePoint := none, markDue := false, heldHalt := false, heldStart := none,
            heldPause := false, heldResume := none } with
        sch := { s.sch with session := some { x with state := .closing, closeReason := some .userStop } } })

/-- PAUSE without a session: PLAY stands still in PLAY_PAUSE for at most five minutes, DONE at once, and PLAY_PAUSE starts again,
the command waiting for the motion-steady event. PAUSE in RECORD pauses the session by the host: the pause point is the
relative counter, the pause timer runs five minutes, session and entry are PAUSED. RECORD or PAUSE resumes it: ACTIVE again,
and the tape runs back for the seam. While a label pauses the session both are refused STATE: for PAUSE as R16 gives it, for
RECORD by the model's reading where R14 would have RUNNING (log 16). -/
def Obligations.PauseHoldsAndResumes : Prop :=
  (∀ (tag : Byte) (s : State), s.serves tag → s.tapeFree →
    (s.trc.state = .play →
      Sys2Proof.Machine.exec (.pause tag []) s =
        .next (s.completedAtOnce tag 3 .done .none
          { s.trc.restsIn .playPause .idle with locate := none, seek := none, pauseTimer := some 300000 })) ∧
    (s.trc.state = .playPause →
      Sys2Proof.Machine.exec (.pause tag []) s =
        .next (s.ordered tag 3 (s.trc.movesInto .play .idle))) ∧
    (s.trc.takesOrder → s.trc.state ≠ .play → s.trc.state ≠ .playPause →
      Sys2Proof.Machine.exec (.pause tag []) s = .next { s with clu := s.clu.answered tag 3 .refused .state [] })) ∧
  (∀ (tag : Byte) (x : Session) (s : State), s.serves tag → s.sto.power = .on → s.trc.held = none →
    s.sch.session = some x → x.state ≠ .paused → s.trc.state = .record →
    (∀ k, x.origin = some k → (s.timer k).state ≠ .waiting) →
    Sys2Proof.Machine.exec (.pause tag []) s =
      .next { s.completedAtOnce tag 3 .done .none
          { s.trc.restsIn .recordPause .idle with
            pausePoint := some s.tcb.relCounter, pauseTimer := some 300000, heldPause := false, heldResume := none } with
        sch := { s.sch with
          session := some { x with state := .paused, pauseCause := some .manual }
          timers := match x.origin with
            | none => s.sch.timers
            | some k => s.sch.timers.modify k fun e => { e with state := .paused } } }) ∧
  (∀ (tag : Byte) (x : Session) (s : State), s.serves tag → s.sto.power = .on → s.trc.held = none →
    s.clu.inFlight.length < 2 → s.sch.session = some x → x.state = .paused → x.pauseCause = some .manual →
    s.trc.state = .recordPause → (∀ k, x.origin = some k → (s.timer k).state ≠ .waiting) →
    let resumed (code : Nat) : State :=
      { s.ordered tag code
          { s.trc.movesInto .lockup .backspace with
            orderedSpeed := x.currentSpeed, orderedIndex := false, backspaceCount := 0 } with
        sch := { s.sch with
          session := some { x with state := .active, pauseCause := none }
          timers := match x.origin with
            | none => s.sch.timers
            | some k => s.sch.timers.modify k fun e => { e with state := .recording } } }
    Sys2Proof.Machine.exec (.record tag []) s = .next (resumed 2) ∧
    Sys2Proof.Machine.exec (.pause tag []) s = .next (resumed 3)) ∧
  (∀ (tag : Byte) (x : Session) (s : State), s.serves tag → s.sto.power = .on → s.sch.session = some x →
    x.state = .paused → x.pauseCause = some .label →
    s.trc.state = .record ∨ s.trc.state = .recordPause ∨ s.trc.state = .stopped →
    Sys2Proof.Machine.exec (.pause tag []) s = .next { s with clu := s.clu.answered tag 3 .refused .state [] } ∧
    Sys2Proof.Machine.exec (.record tag []) s = .next { s with clu := s.clu.answered tag 2 .refused .state [] })

/-- EJECT with a clean directory unthreads at once, or once the motors rest; with a changed directory that can be written
it writes it first; in DEW_HOLD with the tape unthreaded it pushes the cassette out. -/
def Obligations.EjectWritesTheDirectoryOrUnthreads : Prop :=
  ∀ (tag : Byte) (s : State), s.serves tag → s.sch.session = none → s.trc.held = none → s.clu.inFlight.length < 2 →
    (s.trc.takesOrder →
      let writes : Prop := s.readCut.dir.dirty = true ∧ s.pins.tab = .tabIn ∧ s.readCut.dir.state ≠ .unknown
      (¬ writes → (s.trc.atRestMark || s.trc.state.isMotion) = true →
        Sys2Proof.Machine.exec (.eject tag []) s =
          .next (s.readCut.ordered tag 11
            { s.trc.restsIn .unloading .unthreadWait with atRestMark := true, locate := none, seek := none })) ∧
      (¬ writes → (s.trc.atRestMark || s.trc.state.isMotion) = false →
        Sys2Proof.Machine.exec (.eject tag []) s =
          .next (s.readCut.ordered tag 11
            { s.trc.restsIn .unloading .unthread with unthreadingLimit := some 8000, locate := none, seek := none })) ∧
      (writes → s.pins.startSensor = false →
        Sys2Proof.Machine.exec (.eject tag []) s =
          .next { s.readCut.ordered tag 11 (s.trc.movesInto .dirWrite .writeRewind) with dir := s.readCut.dir }) ∧
      (writes → s.pins.startSensor = true →
        Sys2Proof.Machine.exec (.eject tag []) s =
          .next { s.readCut.ordered tag 11 (s.trc.movesInto .dirWrite .writeLead) with
            dir := s.readCut.dir, tcb := s.tcb.closeWindow.atZero })) ∧
    (s.trc.state = .dewHold → s.trc.phase = .dewWait →
      Sys2Proof.Machine.exec (.eject tag []) s =
        .next { s with
          trc := { s.trc with
            state := .unloading, phase := .pushOut, unthreadingLimit := none, threadingLimit := none,
            pushOutLimit := some 8000, held := some { id := s.clu.nextId, code := 11 } }
          clu := s.clu.holding tag 11 .trc })

/-- RECORD with a view of an AIR channel on tuner A: a manual session opens on that channel with the speed setting, the view
moves to tuner B, tuner A is tuned for RECORD, the motion is halted, and the command is held. It is refused, and changes
nothing, with the tab OUT, with the end sensor active, with nothing to record, or with a session the host has not paused. -/
def Obligations.RecordOpensAManualSessionOrIsRefused : Prop :=
  (∀ (tag : Byte) (n : Nat) (ch : Channel) (f : Nat) (fine : Int) (s : State), s.serves tag → s.tapeFree →
    s.trc.takesOrder → s.watchesNothing → s.pins.tab = .tabIn → s.pins.endSensor = false →
    s.tun.view = some (n, .tunerA) → s.channel n = some ch → ch.tuning = .air f fine → s.tun.tunerB.owner = .none →
    s.tun.search.state ≠ .running →
    ∃ t, Sys2Proof.Machine.exec (.record tag []) s = .next t ∧
      (∃ x, t.sch = { s.sch with session := some x } ∧ x.origin = none ∧ x.channel = n ∧ x.source = .air ∧
        x.state = .starting ∧ x.startPhase = .source ∧ x.currentSpeed = s.trc.speedSetting ∧ x.stopRule = .manual ∧
        x.occurrence = none ∧ x.label = none ∧ x.closeReason = none) ∧
      t.trc.state = .stopped ∧ t.trc.held = some { id := s.clu.nextId, code := 2 } ∧
      t.clu.inFlight = s.clu.inFlight ++ [{ id := s.clu.nextId, tag := tag, code := 2, owner := .trc }] ∧
      (let u := ((s.tuned .b .view (some n) f fine (s.lineOf ch)).viewing (some (n, .tunerB))).tuned
          .a .record (some n) f fine (s.lineOf ch)
       t.tun = u.tun ∧ t.lpt = u.lpt ∧ t.cue = u.cue) ∧
      t.tcb.relCounter = s.tcb.relCounter ∧ t.tcb.absPos = s.tcb.absPos ∧ t.tcb.exact = s.tcb.exact ∧
      t.tcb.nearEnd = nearEndAt s.tcb.history s.trc.speedSetting ∧ t.clk = s.clk ∧ t.sto = s.sto ∧ t.pins = s.pins) ∧
  (∀ (tag : Byte) (s : State), s.serves tag → s.sto.power = .on →
    (s.sch.session = none → s.trc.takesOrder →
      (s.pins.tab = .tabOut →
        Sys2Proof.Machine.exec (.record tag []) s =
          .next { s with clu := s.clu.answered tag 2 .refused .writeProtected [] }) ∧
      (s.pins.tab = .tabIn → s.pins.endSensor = true ∨ (s.tun.view = none ∧ s.tun.tunerA.channel = none) →
        Sys2Proof.Machine.exec (.record tag []) s = .next { s with clu := s.clu.answered tag 2 .refused .state [] })) ∧
    (∀ x, s.sch.session = some x → x.state ≠ .paused → s.trc.takesOrder ∨ s.trc.state = .record →
      Sys2Proof.Machine.exec (.record tag []) s = .next { s with clu := s.clu.answered tag 2 .refused .running [] }))

/-- SET SPEED gives the speed setting, and the near-end test follows it, an argument list other than one byte 1 or 2 being
refused RANGE whatever its length (the model's reading, log 10); ZERO COUNTER zeroes the relative counter and the index count and
returns both as they were, or is refused BUSY where the transport compares them. -/
def Obligations.SpeedAndCounterCommands : Prop :=
  ∀ (tag : Byte) (s : State), s.serves tag →
    (∀ (b : Byte) (speed : Speed), (b = 1 ∧ speed = .one) ∨ (b = 2 ∧ speed = .two) →
      let t := State.nearEndTested { s with trc := { s.trc with speedSetting := speed } }
      Sys2Proof.Machine.exec (.setSpeed tag [b]) s = .next { t with clu := t.clu.answered tag 12 .done .none [] }) ∧
    (∀ args : List Byte, args ≠ [1] → args ≠ [2] →
      Sys2Proof.Machine.exec (.setSpeed tag args) s =
        .next { s with clu := s.clu.answered tag 12 .refused .range [] }) ∧
    (let busy : Prop := s.trc.state = .lockup ∨ s.trc.state = .recordPause ∨
       (s.trc.state = .locate ∧ ∃ l, s.trc.locate = some l ∧ l.kind = .counter)
     (busy → Sys2Proof.Machine.exec (.zeroCounter tag []) s =
       .next { s with clu := s.clu.answered tag 13 .refused .busy [] }) ∧
     (¬ busy → Sys2Proof.Machine.exec (.zeroCounter tag []) s =
       .next { s with
         tcb := { s.tcb with relCounter := 0, indexCount := 0 }
         clu := s.clu.answered tag 13 .done .none (bytes3s s.tcb.relCounter ++ bytes3s s.tcb.indexCount) }))

/-- What the TRC drives, in every state of the machine: erase and record are enabled only in RECORD, in the reserve of LOCKUP
and in DIR_WRITE while the region is written; the reels turn with the motion, and neither they nor the threading motor outside
it; the brakes are on while the motors brake after a stop and in FAULT; asleep, every motor is off and the brakes are applied.
The model's readings: the reserve is LOCKUP's writing phase, the capstan and the drum stand in the wind of a sequence (log 63),
and no motor is named for the push-out (log 76). -/
def Obligations.TheDrivesFollowTheTransport : Prop :=
  ∀ s : State,
    let d := s.drives
    let t := s.trc
    let forward : Prop := t.state = .play ∨ t.state = .record ∨ t.state = .windFwd ∨ t.state = .searchFwd ∨
      t.state = .dirRead ∨ (t.state = .lockup ∧ t.phase ≠ .backspace) ∨ (t.state = .dirWrite ∧ t.phase ≠ .writeRewind) ∨
      (t.state = .locate ∧ ∃ l, t.locate = some l ∧ l.direction = .forward)
    let reverse : Prop := t.state = .windBack ∨ t.state = .searchBack ∨ (t.state = .lockup ∧ t.phase = .backspace) ∨
      (t.state = .dirWrite ∧ t.phase = .writeRewind) ∨
      (t.state = .locate ∧ ¬ ∃ l, t.locate = some l ∧ l.direction = .forward)
    let winds : Prop := t.state = .windFwd ∨ t.state = .windBack ∨ t.state = .locate ∨
      (t.state = .lockup ∧ t.phase = .backspace) ∨ (t.state = .dirWrite ∧ t.phase = .writeRewind)
    let moves : Prop := forward ∨ reverse
    (s.asleep = true →
      d = { capstan := .off, drum := false, reels := none, threading := none, brakes := true, recordEnable := false }) ∧
    (s.asleep = false →
      (d.recordEnable = true ↔
        t.state = .record ∨ (t.state = .lockup ∧ t.phase = .reserve) ∨ (t.state = .dirWrite ∧ t.phase = .writing)) ∧
      (d.brakes = true ↔ t.atRestMark = true ∨ t.state = .fault) ∧
      (d.reels = some .forward ↔ forward) ∧ (d.reels = some .reverse ↔ reverse) ∧
      (d.threading = some .forward ↔
        (t.state = .loading ∧ t.atRestMark = false) ∨ (t.state = .dewHold ∧ t.phase = .dewRethread)) ∧
      (d.threading = some .reverse ↔
        (t.state = .unloading ∧ t.phase = .unthread) ∨ (t.state = .dewHold ∧ t.phase = .dewUnthread)) ∧
      (d.capstan = .off ↔ ¬ moves ∨ winds) ∧
      (d.drum = true ↔ t.state = .playPause ∨ t.state = .recordPause ∨ (moves ∧ ¬ winds)) ∧
      (t.state = .record → d.capstan = .play t.recordingSpeed) ∧
      (t.state = .lockup → t.phase = .lock → d.capstan = .play t.orderedSpeed) ∧
      (t.state = .lockup → t.phase = .reserve → d.capstan = .play .one) ∧
      (t.state = .dirWrite → t.phase = .writing → d.capstan = .play .one) ∧
      (t.state = .dirRead → d.capstan = .play .one) ∧
      (t.state = .play → d.capstan = .track) ∧
      (t.state = .searchFwd → d.capstan = .multiple .forward) ∧
      (t.state = .searchBack → d.capstan = .multiple .reverse))

/-! ### Cassette profiles and the remaining tape (chapter 2) -/

/-- STAGE PROFILE fills the staging record part by part, and COMMIT PROFILE with all 33 points in range writes the profile,
empties the staging record, marks the record for the store and, for the selected profile, clears the history. READ PROFILE
returns the index, state, code and selection, or the points of one part, a set flag as 1 and a clear one as 0 (the model's
reading, log 14); SET PROFILE selects, clearing the history when the index changes, and the directory's header follows while a
cassette is threaded, taken as the threaded states of R1 and so not in FAULT or UNLOADING (the model's choice, log 70). -/
def Obligations.ProfilesAreStagedReadAndSelected : Prop :=
  (∀ (tag : Byte) (s : State), s.serves tag →
     (∀ index code : Byte, index.toNat ≤ 7 →
       Sys2Proof.Machine.exec (.stageProfile tag [0, index, code]) s =
         .next { s with
           tcb := { s.tcb with
             staging := { header := some (index.toNat, code.toNat), slots := List.replicate 33 none } }
           clu := s.clu.answered tag 14 .done .none [] }) ∧
     (∀ (part : Byte) (points : List Nat), s.tcb.staging.header.isSome → 1 ≤ part.toNat → part.toNat ≤ 8 →
       points.length = (if part = 1 then 5 else 4) → (∀ x ∈ points, x < 16777216) → s.tcb.staging.slots.length = 33 →
       ∃ t, Sys2Proof.Machine.exec (.stageProfile tag (part :: (points.map bytes3).flatten)) s = .next t ∧
         t = { s with tcb := { s.tcb with staging := t.tcb.staging }, clu := s.clu.answered tag 14 .done .none [] } ∧
         t.tcb.staging.header = s.tcb.staging.header ∧
         (let first := if part = 1 then 0 else 4 * part.toNat - 3
          ∀ j, t.tcb.staging.slots[j]? =
            if first ≤ j ∧ j < first + points.length then some (points[j - first]?) else s.tcb.staging.slots[j]?)) ∧
     (∀ (index code : Nat) (points : List Nat), s.tcb.staging.header = some (index, code) →
       s.tcb.staging.slots = points.map some → points.length = 33 → points.getD 0 0 ≤ 450000 →
       (∀ k, k < 32 → points.getD (k + 1) 0 ≤ points.getD k 0) →
       let u := markRecord (.profile index) { s with
         tcb := { s.tcb with
           profiles := s.tcb.profiles.set index { valid := true, code := code, points := points }
           staging := { header := none, slots := List.replicate 33 none }
           history := if s.tcb.selected = index then [] else s.tcb.history
           nearEnd := if s.tcb.selected = index then false else s.tcb.nearEnd }
         sch := { s.sch with settledFigure := if s.tcb.selected = index then none else s.sch.settledFigure } }
       Sys2Proof.Machine.exec (.commitProfile tag []) s = .next { u with clu := s.clu.answered tag 15 .done .none [] }) ∧
     (s.tcb.staging.header = none ∨ none ∈ s.tcb.staging.slots →
       Sys2Proof.Machine.exec (.commitProfile tag []) s =
         .next { s with clu := s.clu.answered tag 15 .refused .incomplete [] })) ∧
  (∀ (tag index : Byte) (s : State), s.serves tag → index.toNat ≤ 7 → s.tcb.profiles.length = 8 →
     (∀ x, s.tcb.profiles[index.toNat]? = some x →
       Sys2Proof.Machine.exec (.readProfile tag [index, 0]) s =
         .next { s with clu := s.clu.answered tag 16 .done .none <|
           [index, if x.valid then 1 else 0, Byte.ofNat x.code, if s.tcb.selected = index.toNat then 1 else 0] } ∧
       ∀ part : Byte, 1 ≤ part.toNat → part.toNat ≤ 8 →
         Sys2Proof.Machine.exec (.readProfile tag [index, part]) s =
           .next { s with clu := s.clu.answered tag 16 .done .none <|
             (((if part = 1 then x.points.take 5 else (x.points.drop (4 * part.toNat - 3)).take 4).map bytes3).flatten) }) ∧
     (let t : State :=
        if s.tcb.selected = index.toNat then s
        else { s with
          tcb := { s.tcb with selected := index.toNat, history := [], nearEnd := false }
          sch := { s.sch with settledFigure := none } }
      Sys2Proof.Machine.exec (.setProfile tag [index]) s =
        .next { t with
          dir := if s.trc.state.isThreaded ∧ s.dir.state ≠ .unknown ∧ s.dir.headerProfile ≠ index.toNat then
                   { s.dir with headerProfile := index.toNat, dirty := true, changed := true }
                 else s.dir
          clu := s.clu.answered tag 17 .done .none [] }))

/-- The ratio, point and remainder of two periods lie in their ranges, and the interpolated value lies between two neighbouring
points of the profile and meets them. -/
def Obligations.TheInterpolationMeetsItsProfile : Prop :=
  (∀ ps pt : Nat, 1 ≤ ps → pt ≤ 4095 →
    let f := periodRatio ps pt
    f = 1024 * pt / (ps + pt) ∧ pt < ps + pt ∧ f ≤ 1023 ∧ f / 32 ≤ 31 ∧ f - 32 * (f / 32) ≤ 31 ∧ f / 32 + 1 < 33) ∧
  (∀ (points : List Nat) (f : Nat), points.length = 33 → (∀ k, k < 32 → points.getD (k + 1) 0 ≤ points.getD k 0) → f ≤ 1023 →
    let k := f / 32
    let r := f - 32 * k
    let a := points.getD k 0
    let b := points.getD (k + 1) 0
    interpolate points f = a - (a - b) * r / 32 ∧ b ≤ interpolate points f ∧ interpolate points f ≤ a ∧
    (r = 0 → interpolate points f = a) ∧ (a = b → interpolate points f = a))

/-! ### The directory (chapter 3) -/

/-- READ ENTRY and DELETE ENTRY, check by check in the order of R60; the dirty flag of the summary is 1 when set, and 0 when
clear (the model's reading, log 14). -/
def Obligations.EntriesAreReadAndDeleted : Prop :=
  ∀ (tag k : Byte) (s : State), s.takes tag →
    let read := Sys2Proof.Machine.exec (.readEntry tag [k]) s
    let delete := Sys2Proof.Machine.exec (.deleteEntry tag [k]) s
    let readRefused (r : Reason) : Prop := read = .next { s with clu := s.clu.answered tag 18 .refused r [] }
    let deleteRefused (r : Reason) : Prop := delete = .next { s with clu := s.clu.answered tag 19 .refused r [] }
    (s.starting = true → readRefused .starting ∧ deleteRefused .starting) ∧
    (s.starting = false →
      (24 < k.toNat → readRefused .range ∧ deleteRefused .range) ∧
      (k = 0 →
        read = .next { s with clu := s.clu.answered tag 18 .done .none <|
          [(match s.dir.state with | .unknown => 0 | .blank => 1 | .valid => 2 | .damaged => 3 : Byte),
           Byte.ofNat s.dir.image.length,
           Byte.ofNat (((s.dir.image.findIdx? fun e => e.length.isNone).map (· + 1)).getD 0),
           Byte.ofNat s.dir.headerProfile, Byte.ofNat s.dir.generation, if s.dir.dirty then 1 else 0] } ∧
        deleteRefused .range) ∧
      (k ≠ 0 → k.toNat ≤ 24 → s.dir.state = .unknown → readRefused .state ∧ deleteRefused .state) ∧
      (k.toNat ≤ 24 → s.dir.state ≠ .unknown → s.dir.image.length < k.toNat →
        readRefused .range ∧ deleteRefused .range) ∧
      (∀ e, k ≠ 0 → k.toNat ≤ 24 → s.dir.state ≠ .unknown → s.dir.image[k.toNat - 1]? = some e →
        let l := e.label.getD { day := 0, month := 0, hour := 0, minute := 0 }
        let reasons := [EndReason.done, .doneLabel, .doneOverrun, .userStop, .tapeEnd, .transport, .pauseLimit, .dew, .mains,
          .deleted, .failedStart, .clock, .overlap, .late, .noCassette, .writeProtected]
        let result : List Byte :=
          bytes3 e.start ++ bytes3 (e.length.getD 0) ++ bytes3 (e.switchFrame.getD 0) ++
          [Byte.ofNat e.source,
           Byte.ofNat (e.origin.getD 16 + (if e.firstSpeed = .two then 32 else 0) + (if e.network.isSome then 64 else 0)),
           Byte.ofNat ((match e.endedBy with | none => 0 | some r => reasons.idxOf r + 1) + 16 * l.month)] ++
          bytes2 (e.network.getD 0) ++ bytes2 (l.day * 2048 + l.hour * 64 + l.minute) ++
          (match e.recordedAt with
           | none => [0, 0, 0, 0, 0]
           | some t => [Byte.ofNat t.date.day, Byte.ofNat t.date.month, Byte.ofNat t.date.year, Byte.ofNat t.hour,
               Byte.ofNat t.minute]) ++
          [if e.length = none then 1 else 0]
        read = .next { s with clu := s.clu.answered tag 18 .done .none result } ∧
        (if s.trc.state = .dirWrite ∨ s.trc.state = .unloading then deleteRefused .busy
         else if s.pins.tab = .tabOut then deleteRefused .writeProtected
         else if e.length = none then deleteRefused .running
         else delete = .next { s.withImage (s.dir.image.eraseIdx (k.toNat - 1)) with
           clu := s.clu.answered tag 19 .done .none [] })))

/-- At a close every closed entry is treated by where it lies against the session's range [S, E): removed, cut at S, moved
to E, or left; the session's own entry is closed at E, or removed with nothing written, its number told, the directory dirty
and the range removed; and entries in ascending order stay so. -/
def Obligations.ACloseReconcilesTheEntries : Prop :=
  ∀ (S E : Nat), S ≤ E →
    (∀ (e : DirEntry) (n : Nat), e.length = some n → 1 ≤ n →
      (S ≤ e.start ∧ e.start + n ≤ E → reconcileEntry S E e = none) ∧
      (e.start < S ∧ S < e.start + n →
        reconcileEntry S E e =
          some { e with length := some (S - e.start), switchFrame := e.switchFrame.filter fun w => w < S }) ∧
      (S ≤ e.start ∧ e.start < E ∧ E < e.start + n →
        reconcileEntry S E e =
          some { e with
            start := E, length := some (e.start + n - E)
            switchFrame := e.switchFrame.filter fun w => E < w
            firstSpeed := if ∃ w ∈ e.switchFrame, w ≤ E then .two else e.firstSpeed }) ∧
      (e.start + n ≤ S ∨ E ≤ e.start → reconcileEntry S E e = some e)) ∧
    (∀ (r : EndReason) (s : State), s.dir.range = some { start := some S, writtenEnd := E, opened := false } →
      (∀ e ∈ s.dir.image, e.length.isSome) →
      (closeNotice r s).1.dir.image = s.dir.image.filterMap (reconcileEntry S E) ∧ (closeNotice r s).1.dir.range = none) ∧
    (∀ (r : EndReason) (s : State) (before after : List DirEntry) (o : DirEntry),
      s.dir.range = some { start := some S, writtenEnd := E, opened := true } → s.dir.image = before ++ o :: after →
      o.length = none → o.start = S → (∀ e ∈ before ++ after, e.length.isSome) →
      let kept := before.filterMap (reconcileEntry S E)
      let rest := after.filterMap (reconcileEntry S E)
      let closed : DirEntry :=
        { o with length := some (E - S), endedBy := some r, switchFrame := o.switchFrame.filter fun w => w < E }
      (S < E → (closeNotice r s).1.dir.image = kept ++ closed :: rest ∧ (closeNotice r s).2 = some (kept.length + 1)) ∧
      (S = E → (closeNotice r s).1.dir.image = kept ++ rest ∧ (closeNotice r s).2 = none) ∧
      (closeNotice r s).1.dir.dirty = true ∧ (closeNotice r s).1.dir.range = none) ∧
    (∀ image : List DirEntry, (∀ e ∈ image, ∃ n, e.length = some n ∧ 1 ≤ n) →
      image.Pairwise (fun e f => e.start < f.start ∧ e.start + e.length.getD 0 ≤ f.start) →
      (image.filterMap (reconcileEntry S E)).Pairwise
        (fun e f => e.start < f.start ∧ e.start + e.length.getD 0 ≤ f.start))

/-- A copy written from closed entries in order is accepted again, fragment by fragment, with every field its slots carry:
only the recording start is not on the tape. -/
def Obligations.AWrittenCopyIsReadBack : Prop :=
  ∀ (profile generation : Nat) (entries : List DirEntry), profile ≤ 7 → generation < 256 → entries.length ≤ 24 →
    (∀ e ∈ entries, e.FitsSlot) →
    entries.IsChain (fun e f => e.start < f.start ∧ e.start + e.length.getD 0 ≤ f.start) →
    (copyBytes profile generation entries).length = 400 ∧
    judgeCopy (fragmentsOf (copyBytes profile generation entries)) =
      some (entries.map fun e => { e with recordedAt := none }, profile, generation)

/-! ### Tuners, channels and the channel search (chapters 5 and 6) -/

/-- VIEW of a channel takes tuner A when it is free or the view's own, else tuner B unless WATCH holds it; an EXT channel takes
the external box unless RECORD holds it; the source left is released, and VIEW of the channel in view changes nothing. VIEW NONE
releases the source, its DONE with an empty result (the model's choice, log 71). VIEW NEXT and VIEW PREVIOUS are VIEW of the
first VALID entry, its skip flag clear, after the channel in view, upward or downward and round; VIEW is refused NOT_ON in
STANDBY, STATE for an EMPTY entry or an empty scan, and RANGE above 99. -/
def Obligations.ViewTakesItsSourceAndScansTheTable : Prop :=
  (∀ (tag n : Byte) (ch : Channel) (s : State), s.serves tag → s.sto.power = .on → n.toNat ≤ 99 →
    s.channel n.toNat = some ch → s.tun.search.state = .idle →
    let viewIs (t : State) (v : Byte) : Prop :=
      Sys2Proof.Machine.exec (.view tag [n]) s = .next { t with clu := s.clu.answered tag 20 .done .none [n, v] }
    let busy : Prop := Sys2Proof.Machine.exec (.view tag [n]) s =
      .next { s with clu := s.clu.answered tag 20 .refused .tunerBusy [] }
    (∀ f fine, ch.tuning = .air f fine →
      ((s.tun.tunerA.owner = .none ∨ s.tun.tunerA.owner = .view) →
        (s.tun.view = none ∨ ∃ m, m ≠ n.toNat ∧ s.tun.view = some (m, .tunerA)) →
        viewIs ((s.tuned .a .view (some n.toNat) f fine (s.lineOf ch)).viewing (some (n.toNat, .tunerA))) 0) ∧
      ((s.tun.tunerA.owner = .none ∨ s.tun.tunerA.owner = .view) → s.tun.view = some (n.toNat, .tunerA) → viewIs s 0) ∧
      (s.tun.tunerA.owner = .record → s.tun.tunerB.owner ≠ .watch → s.tun.view = none →
        viewIs ((s.tuned .b .view (some n.toNat) f fine (s.lineOf ch)).viewing (some (n.toNat, .tunerB))) 1) ∧
      (s.tun.tunerA.owner = .record → s.tun.tunerB.owner = .watch → busy)) ∧
    (∀ key rest, ch.tuning = .ext (key :: rest) →
      (s.tun.ext.owner = .record → busy) ∧
      (s.tun.ext.owner ≠ .record → s.tun.ext.sending = none → s.tun.view = none →
        viewIs ((s.keyed .view n.toNat key rest).viewing (some (n.toNat, .external))) 2) ∧
      (∀ m, s.tun.ext.owner ≠ .record → s.tun.ext.sending = none → s.tun.view = some (m, .tunerA) →
        viewIs (((s.keyed .view n.toNat key rest).untuned .a).viewing (some (n.toNat, .external))) 2)) ∧
    (s.tun.view = none →
      Sys2Proof.Machine.exec (.view tag [255]) s = .next { s with clu := s.clu.answered tag 20 .done .none [] }) ∧
    (∀ m, s.tun.view = some (m, .tunerA) →
      Sys2Proof.Machine.exec (.view tag [255]) s =
        .next { (s.untuned .a).viewing none with clu := s.clu.answered tag 20 .done .none [] })) ∧
  (∀ (tag : Byte) (s : State), s.serves tag →
    let viewed (c : Nat) : Prop := ∃ x, s.channel c = some x ∧ x.skip = false
    let refusedWith (n : Byte) (r : Reason) : Prop :=
      Sys2Proof.Machine.exec (.view tag [n]) s = .next { s with clu := s.clu.answered tag 20 .refused r [] }
    (s.sto.power = .standby → ∀ n, refusedWith n .notOn) ∧
    (s.sto.power ≠ .standby →
      (∀ n : Byte, n.toNat ≤ 99 → s.channel n.toNat = none → refusedWith n .state) ∧
      (∀ n : Byte, 100 ≤ n.toNat → n.toNat ≤ 252 → refusedWith n .range) ∧
      ((∀ c, c < 100 → ¬ viewed c) → refusedWith 253 .state ∧ refusedWith 254 .state) ∧
      (∀ v d : Nat, v < 100 → s.tun.view.map Prod.fst = some v → 1 ≤ d → d ≤ 100 →
        (viewed ((v + d) % 100) → (∀ i, 1 ≤ i → i < d → ¬ viewed ((v + i) % 100)) →
          Sys2Proof.Machine.exec (.view tag [253]) s =
            Sys2Proof.Machine.exec (.view tag [Byte.ofNat ((v + d) % 100)]) s) ∧
        (viewed ((v + (100 - d)) % 100) → (∀ i, 1 ≤ i → i < d → ¬ viewed ((v + (100 - i)) % 100)) →
          Sys2Proof.Machine.exec (.view tag [254]) s =
            Sys2Proof.Machine.exec (.view tag [Byte.ofNat ((v + (100 - d)) % 100)]) s)) ∧
      (∀ c : Nat, s.tun.view = none → c < 100 → viewed c →
        ((∀ i, i < c → ¬ viewed i) →
          Sys2Proof.Machine.exec (.view tag [253]) s = Sys2Proof.Machine.exec (.view tag [Byte.ofNat c]) s) ∧
        ((∀ i, c < i → i < 100 → ¬ viewed i) →
          Sys2Proof.Machine.exec (.view tag [254]) s = Sys2Proof.Machine.exec (.view tag [Byte.ofNat c]) s))))

/-- The fields of a channel entry, sent by STAGE CHANNEL, are staged as they were: no bit of them is dropped. COMMIT CHANNEL
writes the staged entry when it is in range, empties the staging record and marks the record for the store; CLEAR CHANNEL
empties an entry that no timer entry names; READ CHANNEL returns the state and the fields. -/
def Obligations.ChannelsAreStagedCommittedClearedAndRead : Prop :=
  (∀ (tag : Byte) (c : Channel) (s : State), s.serves tag → c.FitsFields →
     Sys2Proof.Machine.exec (.stageChannel tag (channelFields c)) s =
       .next { s with tun := { s.tun with staging := some c }, clu := s.clu.answered tag 21 .done .none [] }) ∧
  (∀ (tag n : Byte) (s : State), s.serves tag → n.toNat ≤ 99 →
     let refusedWith (i : Instr) (code : Nat) (r : Reason) : Prop :=
       Sys2Proof.Machine.exec i s = .next { s with clu := s.clu.answered tag code .refused r [] }
     (s.tun.staging = none → refusedWith (.commitChannel tag [n]) 22 .state) ∧
     (∀ c, s.tun.staging = some c → ¬ c.Commits → refusedWith (.commitChannel tag [n]) 22 .range) ∧
     (∀ c, s.tun.staging = some c → c.Commits →
       let u := markRecord (.channel n.toNat)
         { s with tun := { s.tun with channels := s.tun.channels.set n.toNat (some c), staging := none } }
       Sys2Proof.Machine.exec (.commitChannel tag [n]) s =
         .next { u with clu := s.clu.answered tag 22 .done .none [] }) ∧
     (s.channel n.toNat = none →
       Sys2Proof.Machine.exec (.clearChannel tag [n]) s = .next { s with clu := s.clu.answered tag 23 .done .none [] } ∧
       Sys2Proof.Machine.exec (.readChannel tag [n]) s =
         .next { s with clu := s.clu.answered tag 24 .done .none [0] }) ∧
     (∀ c, s.channel n.toNat = some c →
       let named : Prop := ∃ e ∈ s.sch.timers, e.state ≠ .empty ∧ ∃ t, e.defn = some t ∧ t.channel = n.toNat
       (named → refusedWith (.clearChannel tag [n]) 23 .referenced) ∧
       (¬ named →
         let u := markRecord (.channel n.toNat)
           { s with tun := { s.tun with channels := s.tun.channels.set n.toNat none } }
         Sys2Proof.Machine.exec (.clearChannel tag [n]) s =
           .next { u with clu := s.clu.answered tag 23 .done .none [] }) ∧
       Sys2Proof.Machine.exec (.readChannel tag [n]) s =
         .next { s with clu := s.clu.answered tag 24 .done .none (1 :: channelFields c) }))

/-- LOAD IR PROFILE takes the eleven bytes of a profile in range; a key is its header, eight bits least significant first,
trailer and gap, so long as their durations together: key code 44 of the default profile takes 535 units. -/
def Obligations.TheIrProfileGivesTheKeys : Prop :=
  (∀ (tag : Byte) (p : IrProfile) (s : State), s.serves tag → 300 ≤ p.carrier → p.carrier ≤ 600 →
    p.durations.length = 8 → (∀ d ∈ p.durations, 1 ≤ d ∧ d ≤ 255) →
    let u := markRecord .irProfile { s with tun := { s.tun with irProfile := p } }
    Sys2Proof.Machine.exec (.loadIrProfile tag (irFields p)) s =
      .next { u with clu := s.clu.answered tag 25 .done .none [] }) ∧
  (∀ (c : Nat) (high : Bool) (hm hs om os zm zs tr gap : Nat) (key : Byte),
    let p : IrProfile := { carrier := c, idleHigh := high, durations := [hm, hs, om, os, zm, zs, tr, gap] }
    let bit (i : Nat) : List (Bool × Nat) :=
      if key.getLsbD i then [(true, om), (false, os)] else [(true, zm), (false, zs)]
    keySegments p key =
      [(true, hm), (false, hs)] ++ bit 0 ++ bit 1 ++ bit 2 ++ bit 3 ++ bit 4 ++ bit 5 ++ bit 6 ++ bit 7 ++
        [(true, tr), (false, gap)] ∧
    keyDuration p key = ((keySegments p key).map Prod.snd).sum) ∧
  keyDuration IrProfile.default 44 = 535

/-- START SEARCH begins at its frequency, at once on a free tuner B, else suspended; END SEARCH stops it and frees the
tuner it holds; READ SEARCH returns the record. -/
def Obligations.SearchIsStartedEndedAndRead : Prop :=
  ∀ (tag : Byte) (s : State), s.serves tag →
    (∀ (args : List Byte) (f : Nat),
      (args = [] ∧ f = 900) ∨ (∃ h l : Byte, args = [h, l] ∧ f = h.toNat * 256 + l.toNat ∧ 900 ≤ f ∧ f ≤ 17200) →
      (s.tun.search.state = .idle → s.tun.tunerB.owner = .none →
        let begun : State := { s with tun := { s.tun with search := Search.begun .running f } }
        let t := begun.tuned .b .search none f 0 s.sto.options.defaultCueLine
        Sys2Proof.Machine.exec (.startSearch tag args) s =
          .next { t with clu := s.clu.answered tag 26 .started .none [] }) ∧
      (s.tun.search.state = .idle → s.tun.tunerB.owner ≠ .none →
        Sys2Proof.Machine.exec (.startSearch tag args) s =
          .next { s with
            tun := { s.tun with search := Search.begun .suspended f },
            clu := s.clu.answered tag 26 .started .none [] }) ∧
      (s.tun.search.state ≠ .idle →
        Sys2Proof.Machine.exec (.startSearch tag args) s =
          .next { s with clu := s.clu.answered tag 26 .refused .busy [] })) ∧
    (let ended (t : State) : State :=
       { t with
         tun := { t.tun with
           search := { s.tun.search with state := .idle, result := .stopped, count := 0, network := none } },
         clu := { s.clu.answered tag 27 .done .none [] with sticky := s.clu.sticky ||| Sticky.searchEnd.mask } }
     (s.tun.search.state = .idle →
       Sys2Proof.Machine.exec (.endSearch tag []) s =
         .next { s with clu := s.clu.answered tag 27 .refused .state [] }) ∧
     (s.tun.search.state = .running → Sys2Proof.Machine.exec (.endSearch tag []) s = .next (ended (s.untuned .b))) ∧
     (s.tun.search.state = .suspended → Sys2Proof.Machine.exec (.endSearch tag []) s = .next (ended s))) ∧
    (let r := s.tun.search
     let result : List Byte :=
       [(match r.state with | .idle => 0 | .running => 1 | .suspended => 2 : Byte),
        (match r.phase with | .step => 0 | .confirm => 1 | .trim => 2 | .name => 3 : Byte)] ++
       bytes2 r.frequency ++
       [Byte.ofNat r.added,
        (match r.result with
         | .none => 0 | .done => 1 | .stopped => 2 | .full => 3 | .cancelled => 4 | .mains => 5 : Byte),
        Byte.ofNat r.count]
     Sys2Proof.Machine.exec (.readSearch tag []) s =
       .next { s with clu := s.clu.answered tag 28 .done .none result })

/-! ### The cue ring (chapter 7) -/

/-- READ CUE returns the oldest entry of the ring in the order of R118 and leaves it; RELEASE CUE removes it and returns
how many are left; both are refused STATE on an empty ring and STARTING during the cold-start read. -/
def Obligations.TheCueRingIsReadAndReleased : Prop :=
  ∀ (tag : Byte) (s : State), s.takes tag →
    let refusedWith (i : Instr) (code : Nat) (r : Reason) : Prop :=
      Sys2Proof.Machine.exec i s = .next { s with clu := s.clu.answered tag code .refused r [] }
    (s.starting = true →
      refusedWith (.readCue tag []) 29 .starting ∧ refusedWith (.releaseCue tag []) 30 .starting) ∧
    (s.starting = false → s.cue.ring = [] →
      refusedWith (.readCue tag []) 29 .state ∧ refusedWith (.releaseCue tag []) 30 .state) ∧
    (∀ (e : RingEntry) (rest : List RingEntry), s.starting = false → s.cue.ring = e :: rest →
      let label : Label := e.cue.label.getD { day := 0, month := 0, hour := 0, minute := 0 }
      let result : List Byte :=
        [Byte.ofNat (rest.length + 1),
         (match e.tuner with | .a => 0 | .b => 1 : Byte), Byte.ofNat (e.channel.getD 255)] ++
        bytes2 e.cue.network ++
        [Byte.ofNat label.day, Byte.ofNat label.month, Byte.ofNat label.hour, Byte.ofNat label.minute,
         (match e.cue.status with | .run => 0 | .hold => 1 | .clear => 2 : Byte),
         Byte.ofNat e.at_.date.day, Byte.ofNat e.at_.date.month, Byte.ofNat e.at_.date.year,
         Byte.ofNat e.at_.hour, Byte.ofNat e.at_.minute, Byte.ofNat e.at_.second,
         (match e.status with | .unset => 0 | .setManual => 1 | .setBroadcast => 2 : Byte)]
      Sys2Proof.Machine.exec (.readCue tag []) s =
        .next { s with clu := s.clu.answered tag 29 .done .none result } ∧
      Sys2Proof.Machine.exec (.releaseCue tag []) s =
        .next { s with
          cue := { s.cue with ring := rest }, clu := s.clu.answered tag 30 .done .none [Byte.ofNat rest.length] })

/-! ### The clock and the calendar (chapter 8) -/

/-- SET CLOCK with a real date and time sets the clock, its day of the week and its status, starts the second phase again and
raises CLOCK_SET; any other bytes are refused RANGE; READ CLOCK returns the nine bytes, auto-set on as 0 and off as 1 (the
model's reading, log 14). A second event takes the clock one second on by the calendar, in every power state and during the
reset input (log 35). Within a minute, and with nothing scheduled, nothing else changes. -/
def Obligations.TheClockIsSetReadAndTicks : Prop :=
  (∀ (tag : Byte) (s : State), s.serves tag →
    (∀ d m y h n sec : Byte,
      let t : DateTime :=
        { date := { day := d.toNat, month := m.toNat, year := y.toNat }, hour := h.toNat, minute := n.toNat, second := sec.toNat }
      let real : Prop := 1 ≤ m.toNat ∧ m.toNat ≤ 12 ∧ y.toNat ≤ 99 ∧ 1 ≤ d.toNat ∧ d.toNat ≤ monthLength y.toNat m.toNat ∧
        h.toNat ≤ 23 ∧ n.toNat ≤ 59 ∧ sec.toNat ≤ 59
      (real → s.schedulerIdle →
        Sys2Proof.Machine.exec (.setClock tag [d, m, y, h, n, sec]) s =
          .next { s with
            clk := { s.clk with now := t, dow := t.date.dow, phase := 0, status := .setManual }
            clu := { s.clu.answered tag 31 .done .none [Byte.ofNat t.date.dow] with
              sticky := s.clu.sticky ||| Sticky.clockSet.mask } }) ∧
      (¬ real → Sys2Proof.Machine.exec (.setClock tag [d, m, y, h, n, sec]) s =
        .next { s with clu := s.clu.answered tag 31 .refused .range [] })) ∧
    (∀ args : List Byte, args.length ≠ 6 →
      Sys2Proof.Machine.exec (.setClock tag args) s =
        .next { s with clu := s.clu.answered tag 31 .refused .range [] }) ∧
    (let k := s.clk
     let result : List Byte :=
       [Byte.ofNat k.now.date.day, Byte.ofNat k.now.date.month, Byte.ofNat k.now.date.year, Byte.ofNat k.dow,
        Byte.ofNat k.now.hour, Byte.ofNat k.now.minute, Byte.ofNat k.now.second,
        (match k.status with | .unset => 0 | .setManual => 1 | .setBroadcast => 2 : Byte), if k.autoSet then 0 else 1]
     Sys2Proof.Machine.exec (.readClock tag []) s =
       .next { s with clu := s.clu.answered tag 32 .done .none result })) ∧
  (∀ s : State, s.clk.now.second < 59 ∨ s.schedulerIdle →
    Sys2Proof.Machine.exec .secondEvent s =
      .next { s with clk := { s.clk with now := s.clk.now.secondLater, dow := s.clk.now.secondLater.date.dow } })

/-- The calendar: the lengths of the months, the 25 leap years, which dates are valid, and the next day, counted on by one
but for the wrap of the last day; SET CLOCK and the time cue test dates by it. The day of the week is the count of days from
01-01-00, a Saturday, by the three terms of R127, and WEEKDAYS and WEEKLY match by it; the table of R127 holds. -/
def Obligations.TheCalendarAndTheDayOfTheWeek : Prop :=
  ((∀ y m : Nat, 1 ≤ m → m ≤ 12 →
     monthLength y m =
       if m = 1 ∨ m = 3 ∨ m = 5 ∨ m = 7 ∨ m = 8 ∨ m = 10 ∨ m = 12 then 31
       else if m = 4 ∨ m = 6 ∨ m = 9 ∨ m = 11 then 30
       else if y % 4 = 0 then 29 else 28) ∧
   ((List.range 100).filter fun y => monthLength y 2 = 29).length = 25 ∧
   (∀ d : Date, d.valid = true ↔
     1 ≤ d.month ∧ d.month ≤ 12 ∧ d.year ≤ 99 ∧ 1 ≤ d.day ∧ d.day ≤ monthLength d.year d.month) ∧
   (∀ d : Date, d.valid = true → d ≠ { day := 31, month := 12, year := 99 } →
     d.nextDay.valid = true ∧ d.nextDay.dayNumber = d.dayNumber + 1 ∧
     (d.day = monthLength d.year d.month → d.nextDay.day = 1 ∧
       (d.month < 12 → d.nextDay.month = d.month + 1 ∧ d.nextDay.year = d.year) ∧
       (d.month = 12 → d.nextDay.month = 1 ∧ d.nextDay.year = d.year + 1))) ∧
   (∀ (bytes : List Byte) (t : DateTime), parseClock bytes = some t → t.date.valid = true) ∧
   (∀ (bytes : List Byte) (t : TimeDecode), decodeTime bytes = some t → t.at_.date.valid = true)) ∧
  ((∀ d : Date, d.valid = true →
     d.dayNumber =
       (365 * d.year + ((List.range d.year).filter fun y => y % 4 = 0).length) +
       ((List.range (d.month - 1)).map fun i => monthLength d.year (i + 1)).sum + (d.day - 1) ∧
     d.dow = (match d.dayNumber % 7 with | 0 => 5 | 1 => 6 | 2 => 0 | 3 => 1 | 4 => 2 | 5 => 3 | _ => 4) ∧
     (Repeat.weekdays.matchesDay d.dayNumber = true ↔ d.dow ≤ 4) ∧
     ∀ w, (Repeat.weekly w).matchesDay d.dayNumber = true ↔ d.dow = w) ∧
   (Date.dayNumber { day := 1, month := 1, year := 0 } = 0 ∧ Date.dow { day := 1, month := 1, year := 0 } = 5) ∧
   (Date.dayNumber { day := 29, month := 2, year := 24 } = 8825 ∧ Date.dow { day := 29, month := 2, year := 24 } = 3) ∧
   (Date.dayNumber { day := 14, month := 5, year := 24 } = 8900 ∧ Date.dow { day := 14, month := 5, year := 24 } = 1) ∧
   (Date.dayNumber { day := 1, month := 3, year := 25 } = 9191 ∧ Date.dow { day := 1, month := 3, year := 25 } = 5) ∧
   (Date.dayNumber { day := 31, month := 12, year := 99 } = 36524 ∧ Date.dow { day := 31, month := 12, year := 99 } = 3))

/-! ### Timer entries (chapter 9) -/

/-- A repeating definition's next occurrence is on the earliest matching date whose stop is after now, and after an occurrence
on the earliest such date after its own; a ONCE definition's is on its date. Days are counted on past 31-12-99, where the
calendar wraps (the model's choice, log 18); the second part leaves out a date of the last fortnight left behind by the wrap. -/
def Obligations.TheNextOccurrenceIsTheEarliest : Prop :=
  (∀ (t : TimerDef) (date : Date) (now : Nat), t.rep = .once date → t.newOccurrence now = some date.dayNumber) ∧
  (∀ (t : TimerDef) (d : Nat),
    t.startOn d = d * 1440 + t.startHour * 60 + t.startMinute ∧
    t.stopOn d = (if t.startHour * 60 + t.startMinute < t.stopHour * 60 + t.stopMinute then d else d + 1) * 1440 +
      t.stopHour * 60 + t.stopMinute) ∧
  (∀ (t : TimerDef) (now : Nat), (∀ date, t.rep ≠ .once date) → t.Commits →
    (∃ d, t.newOccurrence now = some d ∧ t.rep.On d ∧ now < t.stopOn d * 60 ∧
      ∀ e, e < d → t.rep.On e → t.stopOn e * 60 ≤ now) ∧
    ∀ last, last < 36509 ∨ 18263 * 86400 ≤ now → ∃ d, t.occurrenceAfter last now = some d ∧ last < d ∧ t.rep.On d ∧ now < t.stopOn d * 60 ∧
      ∀ e, last < e → e < d → t.rep.On e → t.stopOn e * 60 ≤ now)

/-- The fields of a timer definition, sent by STAGE TIMER, are staged as they were, and READ TIMER returns a definition by the
same fields, with its next date and its flags, and in part 1 the outcome. READ TIMER 16 returns the session's record, in part 1
its occurrence, its deadline and its label; without a session it is refused STATE. The model's choices: a set flag is 1 (log
14), a date past 31-12-99 is that of the calendar's next round (log 18), and an absent field is zero, while the start phase and
the pause cause are shown as they last stood (log 59). -/
def Obligations.TimerDefinitionsAreStagedAndRead : Prop :=
  ∀ (tag : Byte) (s : State), s.serves tag →
    let bits (l : List Bool) : Byte :=
      Byte.ofNat (((List.range l.length).map fun i => if l.getD i false then 2 ^ i else 0).sum)
    let sixBytes (d : DateTime) : List Byte :=
      [Byte.ofNat d.date.day, Byte.ofNat d.date.month, Byte.ofNat d.date.year, Byte.ofNat d.hour, Byte.ofNat d.minute,
       Byte.ofNat d.second]
    let reasonByte (r : Option EndReason) : Byte :=
      match r with
      | none => 0
      | some r => Byte.ofNat (1 + [EndReason.done, .doneLabel, .doneOverrun, .userStop, .tapeEnd, .transport, .pauseLimit, .dew,
          .mains, .deleted, .failedStart, .clock, .overlap, .late, .noCassette, .writeProtected].idxOf r)
    let minuteOf (m : Option Nat) : List Byte :=
      match m with
      | none => [0, 0, 0, 0, 0]
      | some m => [Byte.ofNat (dateOfDay (m / 1440)).day, Byte.ofNat (dateOfDay (m / 1440)).month,
          Byte.ofNat (dateOfDay (m / 1440)).year, Byte.ofNat (m % 1440 / 60), Byte.ofNat (m % 60)]
    (∀ t : TimerDef, t.FitsFields →
      Sys2Proof.Machine.exec (.stageTimer tag (timerFields t)) s =
        .next { s with sch := { s.sch with staging := some t }, clu := s.clu.answered tag 33 .done .none [] }) ∧
    (∀ (k : Byte) (e : TimerEntry), k.toNat ≤ 15 → s.sch.timers[k.toNat]? = some e →
      (e.defn = none →
        Sys2Proof.Machine.exec (.readTimer tag [k, 0]) s =
          .next { s with clu := s.clu.answered tag 35 .done .none [Byte.ofNat e.state.code] }) ∧
      (∀ t d, e.defn = some t → e.next = some d →
        let result : List Byte := [Byte.ofNat e.state.code] ++ timerFields t ++
          [Byte.ofNat (dateOfDay d).day, Byte.ofNat (dateOfDay d).month, Byte.ofNat (dateOfDay d).year,
           if e.deferred then 1 else 0, if e.interrupted then 1 else 0]
        Sys2Proof.Machine.exec (.readTimer tag [k, 0]) s =
          .next { s with clu := s.clu.answered tag 35 .done .none result }) ∧
      (e.outcome = none →
        Sys2Proof.Machine.exec (.readTimer tag [k, 1]) s =
          .next { s with clu := s.clu.answered tag 35 .done .none [0] }) ∧
      (∀ o, e.outcome = some o →
        let result : List Byte := [1, if o.lastStart.isSome then 1 else 0] ++
          (match o.lastStart with | none => [0, 0, 0, 0, 0, 0] | some d => sixBytes d) ++ sixBytes o.lastStop ++
          [reasonByte (some o.reason), Byte.ofNat (o.entryNo.getD 0), bits [o.notIndexed, o.seamUnlocked, o.switched]]
        Sys2Proof.Machine.exec (.readTimer tag [k, 1]) s =
          .next { s with clu := s.clu.answered tag 35 .done .none result })) ∧
    (∀ x : Session, s.sch.session = some x →
      let record : List Byte :=
        [Byte.ofNat (x.origin.getD 16), Byte.ofNat x.channel, Byte.ofNat ([SourceKind.air, .ext].idxOf x.source),
         Byte.ofNat ([SessionState.starting, .active, .paused, .closing].idxOf x.state),
         Byte.ofNat ([StartPhase.source, .irWait, .lockup].idxOf x.startPhase),
         match x.firstSpeed with | none => 0 | some .one => 1 | some .two => 2,
         match x.currentSpeed with | .one => 1 | .two => 2,
         if x.autoMark then 1 else 0, if x.pauseCause = some .label then 1 else 0,
         Byte.ofNat ([StopRule.clock, .label, .manual].idxOf x.stopRule),
         bits [x.notIndexed, x.seamUnlocked, x.switched, x.holdPending, x.cueLoss, x.clearNote],
         Byte.ofNat (x.entryNo.getD 0), reasonByte x.closeReason,
         Byte.ofNat (x.switchFrame.getD 0 / 65536), Byte.ofNat (x.switchFrame.getD 0 / 256),
         Byte.ofNat (x.switchFrame.getD 0)]
      let times : List Byte :=
        minuteOf (x.occurrence.map Prod.fst) ++ minuteOf (x.occurrence.map Prod.snd) ++ minuteOf x.deadline ++
        (match x.label with
         | none => [0, 0, 0, 0]
         | some l => [Byte.ofNat l.day, Byte.ofNat l.month, Byte.ofNat l.hour, Byte.ofNat l.minute])
      Sys2Proof.Machine.exec (.readTimer tag [16, 0]) s =
        .next { s with clu := s.clu.answered tag 35 .done .none record } ∧
      Sys2Proof.Machine.exec (.readTimer tag [16, 1]) s =
        .next { s with clu := s.clu.answered tag 35 .done .none times }) ∧
    (s.sch.session = none → ∀ part : Byte, part.toNat ≤ 1 →
      Sys2Proof.Machine.exec (.readTimer tag [16, part]) s =
        .next { s with clu := s.clu.answered tag 35 .refused .state [] })

/-- COMMIT TIMER refuses by the checks of R137 in their order, the running entry's other channel, repeat, start or speed
RUNNING; onto an entry that is not running, whose occurrence is still to come, it arms the entry with its next occurrence,
empties the staging record and marks the definition. Onto the running entry it gives the session the new stop and deadline and,
where the label changed, the label, rule CLOCK and clear marks, the loss timer stopped: a label pause is resumed, a matching RUN
of its channel gives rule LABEL, and a stop already past under CLOCK begins the close DONE. CLEAR TIMER empties an idle entry
and marks its record, does nothing to an EMPTY one, and of the running entry begins the close DELETED. -/
def Obligations.TimersAreCommittedAndCleared : Prop :=
  (∀ (tag k : Byte) (s : State), s.serves tag →
    let refusedWith (r : Reason) : Prop :=
      Sys2Proof.Machine.exec (.commitTimer tag [k]) s = .next { s with clu := s.clu.answered tag 34 .refused r [] }
    (15 < k.toNat → refusedWith .range) ∧
    (k.toNat ≤ 15 → s.sch.staging = none → refusedWith .state) ∧
    (∀ t, k.toNat ≤ 15 → s.sch.staging = some t →
      (¬ t.Commits → refusedWith .range) ∧
      (t.Commits → s.channel t.channel = none → refusedWith .referenced) ∧
      (∀ ch, t.Commits → s.channel t.channel = some ch →
        (t.label.isSome → ch.isExt = true → refusedWith .range) ∧
        (t.label = none ∨ ch.isExt = false →
          (∀ date, t.rep = .once date → s.clk.status = .unset → refusedWith .unsetClock) ∧
          (∀ x, (∀ date, t.rep = .once date → s.clk.status ≠ .unset) → s.sch.session = some x → x.origin = some k.toNat →
            x.state = .closing → refusedWith .busy) ∧
          (∀ x u, (∀ date, t.rep = .once date → s.clk.status ≠ .unset) → s.sch.session = some x → x.origin = some k.toNat →
            x.state ≠ .closing → (s.timer k.toNat).defn = some u →
            t.channel ≠ u.channel ∨ t.rep ≠ u.rep ∨ t.startHour ≠ u.startHour ∨ t.startMinute ≠ u.startMinute ∨
              t.speed ≠ u.speed → refusedWith .running) ∧
          ((∀ date, t.rep = .once date → s.clk.status ≠ .unset) →
            (∀ x, s.sch.session = some x → x.origin ≠ some k.toNat) → s.watchesNothing → s.sch.timers.length = 16 →
            (s.clk.status = .unset ∨ ∃ d, t.newOccurrence s.clk.now.seconds = some d ∧
              s.clk.now.seconds < (if t.label = none then t.startOn d else t.startOn d - 15) * 60) →
            let u := markRecord (.timer k.toNat)
              { s with sch := { s.sch with
                  staging := none
                  timers := s.sch.timers.modify k.toNat fun e =>
                    { e with
                      state := .armed, defn := some t, deferred := false, interrupted := false
                      next := t.newOccurrence s.clk.now.seconds } } }
            Sys2Proof.Machine.exec (.commitTimer tag [k]) s =
              .next { u with clu := s.clu.answered tag 34 .done .none [] }))))) ∧
  (∀ (tag k : Byte) (t u : TimerDef) (ch : Channel) (x : Session) (start old : Nat) (s : State), s.serves tag →
    k.toNat ≤ 15 → s.sch.staging = some t → t.Commits → s.channel t.channel = some ch → t.label = none ∨ ch.isExt = false →
    (∀ date, t.rep = .once date → s.clk.status ≠ .unset) → s.sch.session = some x → x.origin = some k.toNat →
    x.state ≠ .closing → (s.timer k.toNat).defn = some u →
    t = { u with stopHour := t.stopHour, stopMinute := t.stopMinute, label := t.label } → s.watchesNothing →
    x.occurrence = some (start, old) →
    let stop := t.stopOn (start / 1440)
    stop < 36525 * 1440 →
    let due : Prop := stop * 60 ≤ s.clk.now.seconds
    let labelPaused : Prop := x.state = .paused ∧ x.pauseCause = some .label
    let kept : Session :=
      { x with occurrence := some (start, stop), deadline := if x.deadline.isSome then some (stop + 180) else none }
    let relabelled : Session :=
      { x with
        occurrence := some (start, stop), deadline := if t.label.isSome then some (stop + 180) else none
        label := t.label, stopRule := .clock, holdPending := false, cueLoss := false, lossTimer := none }
    let gives (y : Session) (v : State) (change : TimerEntry → TimerEntry) : Prop :=
      let w := markRecord (.timer k.toNat)
        { v with sch := { s.sch with
            staging := none, session := some y
            timers := s.sch.timers.modify k.toNat fun e => change { e with defn := some t } } }
      Sys2Proof.Machine.exec (.commitTimer tag [k]) s = .next { w with clu := s.clu.answered tag 34 .done .none [] }
    (t.label = u.label →
      (x.stopRule ≠ .clock ∨ ¬ due → gives kept s id) ∧
      (x.stopRule = .clock → due → x.state = .active → s.trc.state = .record → s.trc.held = none →
        gives { kept with state := .closing, closeReason := some .done }
          (s.transportTo
            { s.trc.stops with
              atRestMark := true, pausePoint := none, markDue := false, heldHalt := false, heldStart := none,
              heldPause := false, heldResume := none }) id)) ∧
    (t.label ≠ u.label → ¬ due → t.label = none ∨ s.channelCue x.channel = none →
      (¬ labelPaused → gives relabelled s id) ∧
      (labelPaused → s.trc.state = .recordPause →
        gives { relabelled with state := .active, pauseCause := none }
          (s.transportTo
            { s.trc.movesInto .lockup .backspace with
              orderedSpeed := x.currentSpeed, orderedIndex := false, backspaceCount := 0 })
          (fun e => { e with state := .recording }))) ∧
    (∀ cue, t.label ≠ u.label → t.label.isSome → x.state = .active → s.channelCue x.channel = some cue →
      cue.label = t.label → cue.status = .run → (∀ c n, s.channel x.channel = some c → c.network = some n → cue.network = n) →
      gives { relabelled with stopRule := .label } s id)) ∧
  (∀ (tag k : Byte) (s : State), s.serves tag → k.toNat ≤ 15 → s.sch.timers.length = 16 →
    ((∀ x, s.sch.session = some x → x.origin ≠ some k.toNat) → s.watchesNothing →
      (s.sch.timers[k.toNat]?.map TimerEntry.state = some .empty →
        Sys2Proof.Machine.exec (.clearTimer tag [k]) s =
          .next { s with clu := s.clu.answered tag 36 .done .none [] }) ∧
      (s.sch.timers[k.toNat]?.map TimerEntry.state ≠ some .empty →
        let u := markRecord (.timer k.toNat)
          { s with sch := { s.sch with timers := s.sch.timers.modify k.toNat fun _ => TimerEntry.empty } }
        Sys2Proof.Machine.exec (.clearTimer tag [k]) s =
          .next { u with clu := s.clu.answered tag 36 .done .none [] })) ∧
    (∀ x, s.sch.session = some x → x.origin = some k.toNat → x.state = .active → s.trc.state = .record →
      s.trc.held = none → s.clu.inFlight.length < 2 → s.watchesNothing →
      Sys2Proof.Machine.exec (.clearTimer tag [k]) s =
        .next { s.transportTo
            { s.trc.stops with
              atRestMark := true, pausePoint := none, markDue := false, heldHalt := false, heldStart := none,
              heldPause := false, heldResume := none } with
          sch := { s.sch with
            session := some { x with state := .closing, closeReason := some .deleted, clearNote := true }
            clears := s.sch.clears ++ [s.clu.nextId] }
          clu := s.clu.holding tag 36 .sch }))

/-! ### Settings, power, events and unit resets (chapters 11 and 12) -/

/-- SET OPTION puts a value inside its range in its place and marks the options record when the value changes; clock auto-set
reaches the clock, and a mains level above the sense is a mains failure there and then; any other value, option or length is
refused RANGE. POWER ON gives ON; POWER STANDBY is refused RUNNING with a session and BUSY while the deck threads, writes its
directory or unthreads; else it stops a host's motion with its command ABORTED NOT_ON and releases the view. On is 0 and off 1
(log 14), and level v stands for 900 + 100 v millivolts (log 33): the model's readings. -/
def Obligations.OptionsAndPowerAreSet : Prop :=
  (∀ (tag i v : Byte) (s : State), s.serves tag →
    let o := s.sto.options
    let marked (p : Options) : State :=
      if p = o then s else markRecord .options { s with sto := { s.sto with options := p } }
    let setTo (p : Options) : Prop :=
      Sys2Proof.Machine.exec (.setOption tag [i, v]) s =
        .next { marked p with clu := s.clu.answered tag 37 .done .none [] }
    let refused (args : List Byte) : Prop :=
      Sys2Proof.Machine.exec (.setOption tag args) s = .next { s with clu := s.clu.answered tag 37 .refused .range [] }
    (i = 0 → v.toNat ≤ 1 → setTo { o with autoRewind := v = 0 }) ∧
    (i = 1 → v.toNat ≤ 1 →
      Sys2Proof.Machine.exec (.setOption tag [i, v]) s =
        .next { marked { o with clockAutoSet := v = 0 } with
          clk := { s.clk with autoSet := v = 0 }, clu := s.clu.answered tag 37 .done .none [] }) ∧
    (i = 2 → v.toNat ≤ 15 → setTo { o with presenceThreshold := v.toNat }) ∧
    (i = 3 → 1 ≤ v.toNat → v.toNat ≤ 4 → setTo { o with presenceRun := v.toNat }) ∧
    (i = 4 → 6 ≤ v.toNat → v.toNat ≤ 22 → setTo { o with defaultCueLine := v.toNat }) ∧
    (i = 5 → v.toNat ≤ 3 →
      (900 + 100 * v.toNat ≤ s.pins.mainsSense → setTo { o with mainsLevel := v.toNat }) ∧
      (s.pins.mainsSense < 900 + 100 * v.toNat →
        Sys2Proof.Machine.exec (.setOption tag [i, v]) s =
          Sys2Proof.Machine.exec (.mainsFailure s.pins.mainsSense)
            { marked { o with mainsLevel := v.toNat } with clu := s.clu.answered tag 37 .done .none [] })) ∧
    (i = 6 → v.toNat ≤ 7 → setTo { o with defaultProfile := v.toNat }) ∧
    ((i.toNat ≤ 1 ∧ 1 < v.toNat) ∨ (i = 2 ∧ 15 < v.toNat) ∨ (i = 3 ∧ (v = 0 ∨ 4 < v.toNat)) ∨
      (i = 4 ∧ (v.toNat < 6 ∨ 22 < v.toNat)) ∨ (i = 5 ∧ 3 < v.toNat) ∨ (i = 6 ∧ 7 < v.toNat) ∨ 7 ≤ i.toNat →
      refused [i, v]) ∧
    (∀ args : List Byte, args.length ≠ 2 → refused args)) ∧
  (∀ (tag : Byte) (s : State), s.serves tag →
    let answer := s.clu.answered tag 38 .done .none []
    let refusedWith (args : List Byte) (r : Reason) : Prop :=
      Sys2Proof.Machine.exec (.power tag args) s = .next { s with clu := s.clu.answered tag 38 .refused r [] }
    (Sys2Proof.Machine.exec (.power tag [0]) s =
      .next { s with sto := { s.sto with power := .on }, clu := answer }) ∧
    (s.sto.power = .standby → Sys2Proof.Machine.exec (.power tag [1]) s = .next { s with clu := answer }) ∧
    (s.sto.power = .on → s.sch.session ≠ none → refusedWith [1] .running) ∧
    (s.sto.power = .on → s.sch.session = none →
      let userMode : Prop := s.trc.takesOrder ∧ s.trc.state ≠ .stopped
      let off : Sto := { s.sto with power := .standby }
      (s.trc.state = .loading ∨ s.trc.state = .dirWrite ∨ s.trc.state = .unloading → refusedWith [1] .busy) ∧
      (s.trc.state = .empty ∨ s.trc.state = .ejected ∨ s.trc.state = .stopped ∨ s.trc.state = .dewHold ∨
          s.trc.state = .fault →
        (s.tun.view = none →
          Sys2Proof.Machine.exec (.power tag [1]) s = .next { s with sto := off, clu := answer }) ∧
        (∀ n, s.tun.view = some (n, .tunerA) →
          Sys2Proof.Machine.exec (.power tag [1]) s =
            .next { (s.untuned .a).viewing none with sto := off, clu := answer })) ∧
      (userMode → s.tun.view = none →
        (s.trc.held = none →
          Sys2Proof.Machine.exec (.power tag [1]) s =
            .next { s.readCut.transportTo s.trc.stops with sto := off, clu := answer }) ∧
        (∀ f : InFlight, s.trc.held = some { id := f.id, code := f.code } →
          s.clu.inFlight.find? (fun g => g.id = f.id) = some f →
          Sys2Proof.Machine.exec (.power tag [1]) s =
            .next { s.readCut.transportTo { s.trc.stops with held := none } with
              sto := off
              clu := (s.clu.completed f .aborted .notOn).answered tag 38 .done .none [] }))) ∧
    (∀ args : List Byte, args ≠ [0] → args ≠ [1] → refusedWith args .range))

/-- What the four STATUS lines hold, byte by byte, in every state: the power state, the transport, its indications and the
counters, the remaining frames at the current speed with the estimate's status, the directory and the session; the tuners, the
external box and the session's origin and speed; the clock; and the readiness of the blocks, the store's results, the places
held and free and the sticky events. -/
def Obligations.TheStatusLineShowsTheState : Prop :=
  ∀ s : State,
    let bits (l : List Bool) : Byte :=
      Byte.ofNat (((List.range l.length).map fun i => if l.getD i false then 2 ^ i else 0).sum)
    let three (n : Nat) : List Byte := [Byte.ofNat (n / 65536), Byte.ofNat (n / 256), Byte.ofNat n]
    let frames : Nat := match s.tcb.history with
      | [] => 0
      | e :: rest =>
        (match s.speedInForce with | .one => 1 | .two => 2) * ((e :: rest).sum / (e :: rest).length)
    let channel (c : Option Nat) : Byte := match c with | none => 255 | some c => Byte.ofNat c
    let owner (o : Owner) : Byte := Byte.ofNat ([Owner.none, .record, .watch, .view, .search].idxOf o)
    let result (r : StoreResult) : Byte := Byte.ofNat ([StoreResult.none, .pass, .fail].idxOf r)
    let tuner (t : Tuner) : List Byte := [owner t.owner, channel t.channel, bits [t.present, t.afcLimit]]
    let states : List TState :=
      [.empty, .loading, .dirRead, .stopped, .play, .playPause, .record, .recordPause, .lockup, .windFwd, .windBack, .searchFwd,
       .searchBack, .locate, .dirWrite, .unloading, .ejected, .dewHold, .fault]
    let notReady : Bool := s.trc.state ∈ [TState.loading, .lockup, .dirWrite, .unloading, .dewHold, .fault]
    let reading : Bool := s.sto.reading ≠ none
    let part1 : List Byte :=
      [Byte.ofNat ([PowerState.on, .standby, .backup].idxOf s.sto.power), Byte.ofNat (states.idxOf s.trc.state),
       bits [s.trc.servoLocked, s.pins.cassette ≠ .slotOpen, s.pins.tab = .tabOut, s.trc.endLatch, s.tcb.exact, s.tcb.blankFlag]] ++
      three (BitVec.ofInt 24 s.tcb.relCounter).toNat ++ three s.tcb.absPos ++ three frames ++
      [if s.tcb.history.length = 0 then 0 else if s.tcb.history.length < 8 then 1 else 2,
       Byte.ofNat ([DirState.unknown, .blank, .valid, .damaged].idxOf s.dir.state), if s.dir.dirty then 1 else 0,
       match s.sch.session with
       | none => 0
       | some x => Byte.ofNat (1 + [SessionState.starting, .active, .paused, .closing].idxOf x.state)]
    let part2 : List Byte :=
      [match s.sch.session with | none => 255 | some x => Byte.ofNat (x.origin.getD 16),
       match s.speedInForce with | .one => 1 | .two => 2] ++
      tuner s.tun.tunerA ++ tuner s.tun.tunerB ++ [owner s.tun.ext.owner, channel s.tun.ext.channel] ++ List.replicate 6 0
    let part3 : List Byte :=
      [Byte.ofNat s.clk.now.date.day, Byte.ofNat s.clk.now.date.month, Byte.ofNat s.clk.now.date.year, Byte.ofNat s.clk.dow,
       Byte.ofNat s.clk.now.hour, Byte.ofNat s.clk.now.minute, Byte.ofNat s.clk.now.second,
       Byte.ofNat ([ClockStatus.unset, .setManual, .setBroadcast].idxOf s.clk.status)] ++ List.replicate 8 0
    let part4 : List Byte :=
      [bits [notReady, s.tun.search.state ≠ .idle,
         reading || s.sch.session.any fun x => x.state = .starting || x.state = .closing, reading || s.sto.writing.isSome],
       result s.sto.current, result s.sto.previous, Byte.ofNat s.clu.inFlight.length,
       Byte.ofNat (6 - (s.clu.ready.length + s.clu.reserved.length)),
       Byte.ofNat s.clu.sticky.toNat, Byte.ofNat (s.clu.sticky.toNat / 256), Byte.ofNat (s.clu.sticky.toNat / 65536)] ++
      List.replicate 8 0
    statusLines s = [[6, 1, 0, 0, 0] ++ part1, [6, 2, 0, 0, 0] ++ part2, [6, 3, 0, 0, 0] ++ part3, [6, 4, 0, 0, 0] ++ part4]

/-- ACKNOWLEDGE clears the events its mask names and returns those of them that were set, in the order of R183, in ON, in
STANDBY and during the cold-start read; a mask of other than 3 bytes or beyond the 18 events is refused RANGE; an event
raised afterwards is set again. -/
def Obligations.EventsAreAcknowledged : Prop :=
  (∀ (tag : Byte) (s : State), s.takes tag →
    (∀ a b c : Byte, c.toNat < 4 →
      let mask : BitVec 18 := BitVec.ofNat 18 (a.toNat + 256 * b.toNat + 65536 * c.toNat)
      let found := (s.clu.sticky &&& mask).toNat
      let left := s.clu.sticky &&& ~~~mask
      (Sys2Proof.Machine.exec (.acknowledge tag [a, b, c]) s =
        .next { s with clu :=
          { s.clu.answered tag 39 .done .none [Byte.ofNat found, Byte.ofNat (found / 256), Byte.ofNat (found / 65536)] with
            sticky := left } }) ∧
      (∀ e : Sticky, left.getLsbD e.index = (s.sticky e && !mask.getLsbD e.index)) ∧
      (∀ n : Nat, n < 18 → mask.getLsbD n = (if n < 8 then a.getLsbD n else if n < 16 then b.getLsbD (n - 8)
        else c.getLsbD (n - 16)))) ∧
    (∀ a b c : Byte, 4 ≤ c.toNat →
      Sys2Proof.Machine.exec (.acknowledge tag [a, b, c]) s =
        .next { s with clu := s.clu.answered tag 39 .refused .range [] }) ∧
    (∀ args : List Byte, args.length ≠ 3 →
      Sys2Proof.Machine.exec (.acknowledge tag args) s =
        .next { s with clu := s.clu.answered tag 39 .refused .range [] })) ∧
  ([Sticky.tapeEnd, .tapeStart, .nearEnd, .sessionOpen, .sessionClose, .entryMissed, .searchEnd, .cueRingFull, .checkFail,
    .overrun, .stateCorrected, .stateAbort, .storeFail, .storeCheck, .viewLost, .clockSet, .mainsReturn,
    .dirFull].map Sticky.index = List.range 18) ∧
  (∀ (e x : Sticky) (s : State), (raise e s).sticky x = (decide (x = e) || s.sticky x))

/-- RESET UNIT: CLU empties the reply queue and the in-flight list, its own reply first in them; CUE forgets what it
decoded; SCH returns the entries to ARMED; TUN clears the tuners, the box and the view; TRC stops, its command CANCELLED
before the DONE. Any other unit or length is refused RANGE, and so is a code that names no command, under its own code. -/
def Obligations.UnitsAreReset : Prop :=
  ∀ (tag : Byte) (s : State), s.takes tag →
    let answer := s.clu.answered tag 40 .done .none []
    let becomes (unit : Byte) (t : State) : Prop :=
      Sys2Proof.Machine.exec (.resetUnit tag [unit]) s = .next t
    (becomes 4 { s with clu :=
      { s.clu with ready := [], inFlight := [], reserved := [] }.answered tag 40 .done .none [] }) ∧
    (s.sch.session = none →
      (let forgets (r : CueRecord) : CueRecord := { r with lastCue := none, lastTime := none, age := 0, current := none }
       becomes 3 { s with cue := { a := forgets s.cue.a, b := forgets s.cue.b, ring := [] }, clu := answer }) ∧
      (s.tun.tunerB.owner ≠ .watch → (∀ f ∈ s.clu.inFlight, f.owner = .trc) →
        let back (e : TimerEntry) : TimerEntry :=
          { e with
            state := if e.state = .waiting ∨ e.state = .recording ∨ e.state = .paused then .armed else e.state
            deferred := false }
        becomes 2 { s with
          sch := { s.sch with timers := s.sch.timers.map back, staging := none, watch := none, clears := [] }
          clu := answer }) ∧
      (s.tun.search.state = .idle → s.tun.tunerA.owner ≠ .record → s.tun.ext.owner ≠ .record →
        s.tun.tunerB.owner ≠ .watch →
        let cleared := ((s.untuned .a).untuned .b).viewing none
        becomes 1 { cleared with
          tun := { cleared.tun with ext := ExtRecord.cleared, staging := none }, clu := answer }) ∧
      (s.pins.cassette = .home → s.pins.threaded = true → s.pins.dew = false →
        let stopped : Trc :=
          { s.trc.stops with
            held := none, pausePoint := none, heldHalt := false, heldStart := none, heldPause := false
            heldResume := none, markDue := false }
        ((∀ f ∈ s.clu.inFlight, f.owner = .sch) → becomes 0 { s.readCut.transportTo stopped with clu := answer }) ∧
        (∀ f : InFlight, f.owner = .trc → s.clu.inFlight = [f] →
          becomes 0 { s.readCut.transportTo stopped with
            clu := (s.clu.completed f .cancelled .none).answered tag 40 .done .none [] }))) ∧
    (∀ args : List Byte, (∀ unit : Byte, unit.toNat ≤ 4 → args ≠ [unit]) →
      Sys2Proof.Machine.exec (.resetUnit tag args) s =
        .next { s with clu := s.clu.answered tag 40 .refused .range [] }) ∧
    (∀ (code : Byte) (args : List Byte), (Instr.unknownCommand tag code args).wellFormed = true →
      Sys2Proof.Machine.exec (.unknownCommand tag code args) s =
        .next { s with clu := s.clu.answered tag code.toNat .refused .range [] })

/-- A command of any code is not taken while the part is asleep; with no reply place free a tagged one is discarded with
OVERRUN and does nothing; and during the cold-start read codes 1 to 38 are refused STARTING. -/
def Obligations.CommandsAreTurnedAway : Prop :=
  ∀ (tag code : Byte) (args : List Byte) (s : State),
    (s.asleep = true → Sys2Proof.Machine.exec (rowOfCode code tag args) s = .next s) ∧
    (s.asleep = false → tag ≠ 0 → s.clu.freePlaces = 0 →
      Sys2Proof.Machine.exec (rowOfCode code tag args) s = .next (s.withSticky Sticky.overrun.mask)) ∧
    (s.takes tag → s.starting = true → 1 ≤ code.toNat → code.toNat ≤ 38 →
      Sys2Proof.Machine.exec (rowOfCode code tag args) s =
        .next { s with clu := s.clu.answered tag code.toNat .refused .starting [] })

/-- What the part writes into the settings store, the cold-start read loads again as it was: a record's bytes sum to 0 and
carry its kind, index and length, and the content of every kind of record gives back what its owner held. -/
def Obligations.StoredRecordsAreReadBack : Prop :=
  (∀ (name : RecordName) (content : List Byte), content.length < 256 →
    sumBytes (frameRecord name content) = 0 ∧ unframeRecord name (frameRecord name content) = some content) ∧
  (∀ s t : State,
    let reads (name : RecordName) : State := loadRecord name (some (frameRecord name (recordContent s name))) t
    (∀ i, s.channel i = none → reads (.channel i) = { t with tun := { t.tun with channels := t.tun.channels.set i none } }) ∧
    (∀ i c, s.channel i = some c → c.FitsFields → c.Commits →
      reads (.channel i) = { t with tun := { t.tun with channels := t.tun.channels.set i (some c) } }) ∧
    (∀ i p, s.profile i = p → p.points.length = 33 → p.points.getD 0 0 ≤ 450000 → p.code < 256 →
      (∀ k, k < 32 → p.points.getD (k + 1) 0 ≤ p.points.getD k 0) →
      reads (.profile i) =
        { t with tcb := { t.tcb with profiles := t.tcb.profiles.set i (if p.valid then p else Profile.empty) } }) ∧
    (∀ p, s.tun.irProfile = p → 300 ≤ p.carrier → p.carrier ≤ 600 → p.durations.length = 8 →
      (∀ d ∈ p.durations, 1 ≤ d ∧ d ≤ 255) →
      reads .irProfile = { t with tun := { t.tun with irProfile := p } }) ∧
    (∀ o, s.sto.options = o → o.presenceThreshold ≤ 15 → 1 ≤ o.presenceRun → o.presenceRun ≤ 4 → 6 ≤ o.defaultCueLine →
      o.defaultCueLine ≤ 22 → o.mainsLevel ≤ 3 → o.defaultProfile ≤ 7 → t.tcb.selected = o.defaultProfile →
      reads .options =
        { t with sto := { t.sto with options := o }, clk := { t.clk with autoSet := o.clockAutoSet } }) ∧
    (∀ i d, s.sch.timers[i]?.bind TimerEntry.defn = some d → d.FitsFields → d.Commits →
      (∃ c, t.channel d.channel = some c ∧ (d.label = none ∨ c.isExt = false)) →
      reads (.timer i) =
        { t with sch := { t.sch with timers := t.sch.timers.modify i fun _ =>
            { state := .armed, defn := some d, next := none, deferred := false, interrupted := false,
              outcome := none } } }) ∧
    (∀ i e, s.sch.timers[i]? = some e → e.defn = none →
      reads (.timer i) = { t with sch := { t.sch with timers := t.sch.timers.modify i fun _ => TimerEntry.empty } })) ∧
  (∀ r : Reply, r.result.length ≤ 24 →
    sumBytes ([r.tag, Byte.ofNat r.code, Byte.ofNat r.outcome.code, Byte.ofNat r.reason.code,
      Byte.ofNat r.result.length] ++ r.result ++ [r.check]) = 0 ∧
    r.lines.length = (if r.result.length ≤ 14 then 1 else 2) ∧ ∀ l ∈ r.lines, l.length = 21)

/-! ### The line port (chapter 4) -/

/-- A field header opens a field of its stream: LIVE, the header kept, no line taken, 40 ms of silence allowed; CTRL's begins
a new CTRL field. 40 ms without one make the stream SILENT, and then substitute fields of the other parity and grade 0 are
made on every stream but CTRL. A MON or REC field that carried the stream's field before is finished. Streams that MON and REC do
not carry now and tuners that no one owns: nothing else changes. A silence row with no timer running and a substitute row on a
stream that is not SILENT change nothing (the model's choice, log 2). -/
def Obligations.FieldHeadersAreTaken : Prop :=
  ∀ (i : Inbound) (s : State), s.asleep = false → s.monChoice ≠ .stream i → s.recChoice ≠ .stream i →
    let f := s.lpt.field i
    let idle : Prop := ∀ x, (i = .ta ∧ x = .a) ∨ (i = .tb ∧ x = .b) →
      (s.tuner x).owner = .none ∧ s.cueRecord x = CueRecord.untuned
    (∀ (p : Parity) (grade : Fin 16) (afc : Byte), idle →
      let opened := setField i
        { presence := .live, header := some { parity := p, grade := grade.val, afc := afc.toInt }, lastLine := none,
          silence := some 40 } s
      (i ≠ .ctrl → Sys2Proof.Machine.exec (.fieldHeader i p grade afc) s = .next (opened.fieldsEnded i)) ∧
      (i = .ctrl → Sys2Proof.Machine.exec (.fieldHeader i p grade afc) s =
        .next { opened.fieldsEnded i with clu :=
          { s.clu with
            lineCount := 0, pendingLine := none
            sticky := if s.clu.pendingLine = none then s.clu.sticky
                      else s.clu.sticky ||| Sticky.checkFail.mask } })) ∧
    (Sys2Proof.Machine.exec (.streamSilenceTimeout i) s =
      .next (if f.silence = none then s else setField i { f with presence := .silent, silence := none } s)) ∧
    (f.presence ≠ .silent ∨ i = .ctrl → Sys2Proof.Machine.exec (.substituteField i) s = .next s) ∧
    (f.presence = .silent → i ≠ .ctrl → idle →
      let p : Parity := match f.header.map Header.parity with | some .first => .second | some .second => .first | none => .first
      Sys2Proof.Machine.exec (.substituteField i) s =
        .next ((setField i { f with header := some { parity := p, grade := 0, afc := 0 }, lastLine := none } s).fieldsEnded i))

/-- A header of a tuner that RECORD, WATCH or VIEW owns: while the tuner settles it only lowers the settle count, the last
one ending the settling; else it works the presence detector, the AFC loop and the cue's age. Eight readings are averaged
and move the offset by at most one unit within 24, with a new word. -/
def Obligations.HeadersWorkThePresenceAndTheAfc : Prop :=
  ∀ (x : TunerId) (p : Parity) (grade : Fin 16) (afc : Byte) (s : State),
    let i : Inbound := match x with | .a => .ta | .b => .tb
    let t := s.tuner x
    let o := s.sto.options
    let opened := State.fieldsEnded (setField i
      { presence := .live, header := some { parity := p, grade := grade.val, afc := afc.toInt }, lastLine := none,
        silence := some 40 } s) i
    s.asleep = false → s.monChoice ≠ .stream i → s.recChoice ≠ .stream i →
    t.owner = .record ∨ t.owner = .watch ∨ t.owner = .view →
    (s.settling x ≠ .none → ¬ (s.settling x = .tune ∧ t.owner = .record) →
      let lowered := setTuner x { t with settle := t.settle - 1 } opened
      (2 ≤ t.settle → Sys2Proof.Machine.exec (.fieldHeader i p grade afc) s = .next lowered) ∧
      (t.settle ≤ 1 → Sys2Proof.Machine.exec (.fieldHeader i p grade afc) s = .next (setSettling x .none lowered))) ∧
    (s.settling x = .none → (s.cueRecord x).tuning.isSome → (s.cueRecord x).age < 124 →
      let strong := min (max o.presenceRun t.strongRun) (t.strongRun + 1)
      let weak := min (max 25 t.weakRun) (t.weakRun + 1)
      let judged : Tuner :=
        if o.presenceThreshold ≤ grade.val then
          { t with strongRun := strong, weakRun := 0, present := t.present || decide (o.presenceRun ≤ strong) }
        else { t with strongRun := 0, weakRun := weak, present := t.present && decide (weak < 25) }
      let heard (u : State) : State :=
        setCueRecord x { s.cueRecord x with taking := true, age := (s.cueRecord x).age + 1 } u
      let gives (u : State) : Prop := Sys2Proof.Machine.exec (.fieldHeader i p grade afc) s = .next (heard u)
      (grade.val < o.presenceThreshold → gives (setTuner x judged opened)) ∧
      (o.presenceThreshold ≤ grade.val →
        (t.afcHistory.length < 7 →
          gives (setTuner x { judged with afcHistory := t.afcHistory ++ [afc.toInt] } opened)) ∧
        (t.afcHistory.length = 7 →
          let avg := (t.afcHistory.sum + afc.toInt).tdiv 8
          let moves (offset : Int) : State :=
            let stepped := setTuner x { judged with afcHistory := [], afc := offset, afcLimit := false, settle := 8 } opened
            let word : Option SynthWord := t.frequency.map fun (f : Nat) =>
              { band := (if f ≤ 3399 then .low else if f ≤ 8999 then .mid else .high : Band)
                n := (f : Int) + 778 + t.fine + offset }
            setSettling x .trim (setWord x word stepped)
          (-16 ≤ avg → avg ≤ 16 →
            gives (setTuner x { judged with afcHistory := [], afcLimit := false } opened)) ∧
          (16 < avg → -24 < t.afc → gives (moves (t.afc - 1))) ∧
          (16 < avg → t.afc ≤ -24 → gives (setTuner x { judged with afcHistory := [], afcLimit := true } opened)) ∧
          (avg < -16 → t.afc < 24 → gives (moves (t.afc + 1))) ∧
          (avg < -16 → 24 ≤ t.afc → gives (setTuner x { judged with afcHistory := [], afcLimit := true } opened)))))

/-- VIEW suspends the search that holds tuner B and VIEW NONE on B gives B back to it: its phase starts again from the
beginning, at the frequency it held. While the search runs, every header of tuner B counts as its phase says: STEP and CONFIRM
wait for the presence run, six and 25 headers long; TRIM works the AFC loop, and folds a trimmed offset into the frequency for
NAME; a lost carrier is passed over in TRIM and NAME, 5 further up. A cue that becomes current for tuner B in NAME ends it, and
where the table holds its network already the search goes on 140 further up. Where a header retunes tuner B, its cue record may
have taken the header before or after (log 9), and the DONE of VIEW NONE has an empty result (log 71): the model's choices. -/
def Obligations.TheSearchWorksTunerB : Prop :=
  let withSearch (r : Search) (u : State) : State := { u with tun := { u.tun with search := r } }
  let retuned (r : Search) (u : State) : State :=
    (withSearch r u).tuned .b .search none r.frequency 0 u.sto.options.defaultCueLine
  (∀ (tag n : Byte) (ch : Channel) (f : Nat) (fine : Int) (s : State), s.serves tag → s.sto.power = .on → n.toNat ≤ 99 →
    s.channel n.toNat = some ch → ch.tuning = .air f fine → s.tun.tunerA.owner = .record → s.tun.tunerB.owner = .search →
    s.tun.search.state = .running → s.tun.view = none →
    let suspended := withSearch { s.tun.search with state := .suspended, count := 0, network := none } s
    Sys2Proof.Machine.exec (.view tag [n]) s =
      .next { (suspended.tuned .b .view (some n.toNat) f fine (s.lineOf ch)).viewing (some (n.toNat, .tunerB)) with
        clu := s.clu.answered tag 20 .done .none [n, 1] }) ∧
  (∀ (tag : Byte) (m : Nat) (s : State), s.serves tag → s.sto.power = .on → s.tun.view = some (m, .tunerB) →
    s.tun.search.state = .suspended →
    Sys2Proof.Machine.exec (.view tag [255]) s =
      .next { (retuned { s.tun.search with state := .running, count := 0, network := none } s).viewing none with
        clu := s.clu.answered tag 20 .done .none [] }) ∧
  (∀ (p : Parity) (grade : Fin 16) (afc : Byte) (s : State), s.asleep = false → s.monChoice ≠ .stream .tb →
    s.recChoice ≠ .stream .tb → s.tun.tunerB.owner = .search → s.tun.search.state = .running →
    s.cue.b.tuning.isSome → s.cue.b.age < 124 →
    let r := s.tun.search
    let t := s.tun.tunerB
    let o := s.sto.options
    let opened := State.fieldsEnded (setField .tb
      { presence := .live, header := some { parity := p, grade := grade.val, afc := afc.toInt }, lastLine := none,
        silence := some 40 } s) .tb
    let heard (u : State) : State := { u with cue := { u.cue with b := { s.cue.b with taking := true, age := s.cue.b.age + 1 } } }
    let gives (b : Tuner) (x : Search) : Prop :=
      Sys2Proof.Machine.exec (.fieldHeader .tb p grade afc) s =
        .next (heard { opened with tun := { s.tun with tunerB := b, search := x } })
    let passesOver : Prop :=
      ∃ (c : CueRecord) (n : Nat), Sys2Proof.Machine.exec (.fieldHeader .tb p grade afc) s =
        .next { retuned { r with frequency := r.frequency + 5, phase := .step, count := 0, network := none } opened with
          cue := { s.cue with b := c }, choices := n }
    let counted : Search := { r with count := r.count + 1 }
    let strong : Prop := o.presenceThreshold ≤ grade.val
    let weakened : Tuner := { t with strongRun := 0, weakRun := min (max 25 t.weakRun) (t.weakRun + 1) }
    let strengthened : Tuner := { t with strongRun := min (max o.presenceRun t.strongRun) (t.strongRun + 1), weakRun := 0 }
    let found : Prop := strong ∧ o.presenceRun ≤ strengthened.strongRun
    let judged : Tuner := if strong then strengthened else weakened
    (s.settling .b = .none → t.present = false → r.phase = .step ∨ r.phase = .confirm →
      let limit : Nat := match r.phase with | .step => 6 | _ => 25
      (¬ found → r.count + 1 < limit → gives judged counted) ∧
      (¬ found → limit ≤ r.count + 1 → r.frequency ≤ 17195 → passesOver) ∧
      (found → r.phase = .step →
        gives { t with present := false, strongRun := 0, weakRun := 0 } { counted with phase := .confirm, count := 0 }) ∧
      (found → r.phase = .confirm →
        gives { strengthened with present := true } { counted with phase := .trim, count := 0 })) ∧
    (s.settling .b = .none → t.present = true → t.weakRun < 25 → r.phase = .trim ∨ r.phase = .name →
      r.count + 1 < (match r.phase with | .trim => 40 | _ => 100) →
      (¬ strong → t.weakRun ≤ 23 → gives weakened counted) ∧
      (¬ strong → t.weakRun = 24 → r.frequency ≤ 17195 → passesOver) ∧
      (strong → r.phase = .name → gives strengthened counted) ∧
      (strong → r.phase = .trim → t.afcHistory.length < 7 →
        gives { strengthened with afcHistory := t.afcHistory ++ [afc.toInt] } counted) ∧
      (strong → r.phase = .trim → t.afcHistory.length = 7 →
        let avg := (t.afcHistory.sum + afc.toInt).tdiv 8
        let f : Int := r.frequency + t.afc
        let band (g : Int) : Nat := if g ≤ 3399 then 0 else if g ≤ 8999 then 1 else 2
        (-16 ≤ avg → avg ≤ 16 → 900 ≤ f → f ≤ 17200 → band f = band r.frequency → s.cue.b.current = none →
          gives { strengthened with afcHistory := [], afcLimit := false, frequency := some f.toNat, afc := 0 }
            { r with frequency := f.toNat, phase := .name, count := 0, network := none }) ∧
        (16 < avg → t.afc ≤ -24 → gives { strengthened with afcHistory := [], afcLimit := true } counted) ∧
        (16 < avg → -24 < t.afc → ∀ g, t.frequency = some g →
          Sys2Proof.Machine.exec (.fieldHeader .tb p grade afc) s =
            .next (heard { opened with
              tun := { s.tun with
                tunerB := { strengthened with afcHistory := [], afcLimit := false, afc := t.afc - 1, settle := 8 }
                wordB := some { band := (wordFor g t.fine).band, n := (g : Int) + 778 + t.fine + (t.afc - 1) }
                search := counted }
              lpt := { opened.lpt with settlingB := .trim } })))) ∧
    (s.settling .b = .trim → 2 ≤ t.settle → r.phase = .trim → r.count + 1 < 40 →
      Sys2Proof.Machine.exec (.fieldHeader .tb p grade afc) s =
        .next { opened with tun := { s.tun with tunerB := { t with settle := t.settle - 1 }, search := counted } }) ∧
    (s.settling .b = .tune → 2 ≤ t.settle →
      Sys2Proof.Machine.exec (.fieldHeader .tb p grade afc) s =
        .next { opened with tun := { s.tun with tunerB := { t with settle := t.settle - 1 } } })) ∧
  (∀ (line : BitVec 16) (bytes : List (Byte × Bool)) (cue : Cue) (s : State), s.confirms .b line bytes cue →
    s.cue.b.tuning = some none → s.tun.search.state = .running → s.tun.search.phase = .name →
    (∃ c x, c < s.tun.channels.length ∧ s.channel c = some x ∧ x.network = some cue.network) →
    s.tun.search.frequency ≤ 17060 →
    Sys2Proof.Machine.exec (.linePacket .tb line (.data bytes)) s =
      .next (retuned
        { s.tun.search with frequency := s.tun.search.frequency + 140, phase := .step, count := 0, network := none }
        (s.cueHeard .b line bytes cue)))

/-- MON carries what R71's table says, and each of its fields begins a reply field of grade 15 and the same parity: two replies
at most leave the queue and the status lines are taken after them, each byte with its parity bit. A generated blank field has
grade 15 and the parity after the last one sent; on REC it has the tape's own lines 9 and 10. A header of any stream is handed
on, and then begins the fields of the outbound streams that carry it: a real one with its header, a substitute as a blank field.
The field of a stream that is still being sent is finished first. The model's choices: the first blank field is FIRST (log 5); a
blank row begins its field whatever is selected, but none while a field is being sent on, and a SILENT stream's field is over
(log 32); a directory write whose last frame is on REC is complete before the next field begins, and a field at absolute 0 has
no frame number (log 31); the status is taken after the header is handled (log 30), and a blank field for a substitute has its
parity (log 68). -/
def Obligations.OutboundFieldsBegin : Prop :=
  ∀ s : State, s.asleep = false →
    let after (last : Option Parity) : Parity :=
      match last with | some .first => .second | some .second => .first | none => .first
    let sent (l : List Byte) : DataLine := l.map fun b => (b, ((List.range 8).filter fun k => b.getLsbD k).length % 2 = 0)
    let monField (m : MonField) (u : State) : State :=
      let drained : State := { u with clu := { u.clu with ready := u.clu.ready.drop 2 } }
      { drained with lpt := { u.lpt with
          mon := some m
          rpl := some { parity := m.parity, grade := 15, status := (statusLines drained).map sent,
                        replyLines := (((u.clu.ready.take 2).map Reply.lines).flatten).map sent } } }
    let recOf (p : Parity) (grade : Nat) (source : Option Inbound) (u : State) : RecField :=
      let writes : Prop := u.trc.state = .dirWrite ∧ u.trc.phase = .writing
      let image : Option (List Byte) := if writes then u.dir.writeImage else none
      { parity := p, grade := grade, source := source, sending := source.isSome,
        frame := if writes then u.frameNumber else none
        line9 := sent (dirLineFor image u.frameNumber p 9), line10 := sent (dirLineFor image u.frameNumber p 10)
        lines := [] }
    let goesOn (u : State) (source : Option Inbound) (sending : Bool) : Prop :=
      sending = true ∧ ∀ i, source = some i → (u.lpt.field i).presence ≠ .silent
    let monBusy (u : State) : Prop := ∃ m, u.lpt.mon = some m ∧ goesOn u m.source m.sending
    let recBusy (u : State) : Prop := ∃ r, u.lpt.recField = some r ∧ goesOn u r.source r.sending
    let begun (i : Inbound) (p : Parity) (grade : Nat) (source : Option Inbound) (u : State) : State :=
      let ended := u.fieldsEnded i
      let v := if ended.monChoice = .stream i ∧ ¬ monBusy ended then
          monField { parity := p, grade := grade, source := source, sending := source.isSome, lines := [] } ended
        else ended
      if v.recChoice = .stream i ∧ ¬ recBusy v then
        { v with lpt := { v.lpt with recField := some (recOf p grade source v) } }
      else v
    let playing : Prop := s.trc.state = .play ∨ s.trc.state = .playPause ∨ s.trc.state = .searchFwd ∨
      s.trc.state = .searchBack ∨ s.trc.state = .dirRead
    (Sys2Proof.Machine.exec (.generatedBlankField .mon) s =
      .next (if monBusy s then s else monField
        { parity := after (s.lpt.mon.map MonField.parity), grade := 15, source := none, sending := false, lines := [] } s)) ∧
    (recBusy s → Sys2Proof.Machine.exec (.generatedBlankField .recStream) s = .next s) ∧
    (¬ recBusy s → ¬ s.lastFrameOnRec →
      Sys2Proof.Machine.exec (.generatedBlankField .recStream) s =
        .next { s with lpt := { s.lpt with
          recField := some (recOf (after (s.lpt.recField.map RecField.parity)) 15 none s) } }) ∧
    (¬ recBusy s → s.lastFrameOnRec → ∀ w, Sys2Proof.Machine.exec .dirWriteComplete s = .next w →
      Sys2Proof.Machine.exec (.generatedBlankField .recStream) s =
        .next { w with lpt := { w.lpt with
          recField := some { parity := .first, grade := 15, source := none, sending := false, frame := none
                             line9 := sent emptyDirLine, line10 := sent emptyDirLine, lines := [] } } }) ∧
    (s.sto.power = .standby → s.monChoice = .blank) ∧
    (s.sto.power = .on → playing → s.monChoice = .stream .play) ∧
    (s.sto.power = .on → ¬ playing →
      (∀ v, s.lpt.viewSource = some v →
        s.monChoice = .stream (match v with | .tunerA => .ta | .tunerB => .tb | .external => .aux)) ∧
      (∀ k, s.lpt.viewSource = none → s.lpt.sessionSource = some k →
        s.monChoice = .stream (match k with | .air => .ta | .ext => .aux)) ∧
      (s.lpt.viewSource = none → s.lpt.sessionSource = none → s.monChoice = .blank)) ∧
    (∀ (i : Inbound) (p : Parity) (grade : Fin 16) (afc : Byte),
      let h : Header := { parity := p, grade := grade.val, afc := afc.toInt }
      let opened := setField i { presence := .live, header := some h, lastLine := none, silence := some 40 } s
      let gives (u : State) : Prop :=
        Sys2Proof.Machine.exec (.fieldHeader i p grade afc) s = .next (begun i p grade.val (some i) u)
      gives (handOn i h true opened) ∧
      (i = .play ∨ i = .aux → gives opened) ∧
      (∀ x, i = streamOf x → (s.tuner x).owner ≠ .none → s.settling x = .tune → 2 ≤ (s.tuner x).settle →
        gives (setTuner x { s.tuner x with settle := (s.tuner x).settle - 1 } opened))) ∧
    (∀ i : Inbound, i ≠ .ctrl → (s.lpt.field i).presence = .silent →
      let p := after ((s.lpt.field i).header.map Header.parity)
      let h : Header := { parity := p, grade := 0, afc := 0 }
      let opened := setField i { s.lpt.field i with header := some h, lastLine := none } s
      let gives (u : State) : Prop := Sys2Proof.Machine.exec (.substituteField i) s = .next (begun i p 15 none u)
      gives (handOn i h false opened) ∧
      (i = .play ∨ i = .aux → gives opened) ∧
      (∀ x, i = streamOf x → (s.tuner x).owner ≠ .none → s.settling x = .tune → 2 ≤ (s.tuner x).settle →
        gives (setTuner x { s.tuner x with settle := (s.tuner x).settle - 1 } opened)))

/-- A line is taken in rising order within the field of its stream, is sent on by the fields that carry its stream while they are
being sent, black on MON while its tuner settles from a tune, and never as REC's lines 9 and 10. A data line failing parity is
discarded. On CTRL a command line whose bytes sum to 0 is the row of its code: in one line up to 16 argument bytes, in two up to
24; what else comes on CTRL raises CHECK_FAIL. On a tuner's cue line a CUE heard twice becomes current and joins the ring. In
DIR_READ the DIR lines 9 and 10 of PLAY are filed in the places of their frames. What counts as an open field on a SILENT stream
is the model's choice (log 51). -/
def Obligations.LinesAreTakenAndHandedOn : Prop :=
  ∀ (i : Inbound) (line : BitVec 16) (s : State), s.asleep = false →
    let f := s.lpt.field i
    let opened : Prop := f.presence ≠ .awaiting ∧ f.header ≠ none
    let fits : Prop := opened ∧ 1 ≤ line.toNat ∧ line.toNat ≤ 313 ∧ ∀ last ∈ f.lastLine, last < line.toNat
    let taken := setField i { f with lastLine := some line.toNat } s
    let counted (u : State) : State := { u with clu := { u.clu with lineCount := u.clu.lineCount + 1, pendingLine := none } }
    let reported (u : State) : State := (counted u).withSticky Sticky.checkFail.mask
    let odd (b : Byte × Bool) : Prop :=
      (((List.range 8).filter fun k => b.1.getLsbD k).length + (if b.2 then 1 else 0)) % 2 = 1
    let monQuiet : Prop := ∀ m ∈ s.lpt.mon, m.source = some i → m.sending = false
    let recQuiet : Prop := ∀ r ∈ s.lpt.recField, r.source = some i → r.sending = false
    let uncarried : Prop := monQuiet ∧ recQuiet
    let blacked : Prop := (i = .ta ∧ s.settling .a = .tune) ∨ (i = .tb ∧ s.settling .b = .tune)
    let onMon (m : MonField) (payload : Payload) : State :=
      let sent : OutLine := if blacked then .black line.toNat else .passed line.toNat payload
      { taken with lpt := { taken.lpt with
          mon := some { m with lines := m.lines ++ [sent], sending := line.toNat ≠ 313 } } }
    (∀ payload : Payload, ¬ fits →
      Sys2Proof.Machine.exec (.linePacket i line payload) s =
        .next (if i = .ctrl ∧ opened then reported s else s)) ∧
    (∀ content : List Byte, fits →
      (uncarried →
        Sys2Proof.Machine.exec (.linePacket i line (.video content)) s =
          .next (if i = .ctrl then reported taken else taken)) ∧
      (∀ m : MonField, s.lpt.mon = some m → i ≠ .ctrl → m.source = some i → m.sending = true → recQuiet →
        Sys2Proof.Machine.exec (.linePacket i line (.video content)) s = .next (onMon m (.video content))) ∧
      (∀ r : RecField, s.lpt.recField = some r → i ≠ .ctrl → r.source = some i → r.sending = true → monQuiet →
        Sys2Proof.Machine.exec (.linePacket i line (.video content)) s =
          .next { taken with lpt := { taken.lpt with
            recField := if line.toNat = 9 ∨ line.toNat = 10 then some r
                        else some { r with lines := r.lines ++ [.passed line.toNat (.video content)]
                                           sending := line.toNat ≠ 313 } } })) ∧
    (∀ (bytes : List (Byte × Bool)) (m : MonField), fits → i = .aux → s.lpt.mon = some m → m.source = some .aux →
      m.sending = true → recQuiet →
      ((∀ b ∈ bytes, odd b) →
        Sys2Proof.Machine.exec (.linePacket i line (.data bytes)) s = .next (onMon m (.data bytes))) ∧
      ((¬ ∀ b ∈ bytes, odd b) → Sys2Proof.Machine.exec (.linePacket i line (.data bytes)) s = .next taken)) ∧
    (∀ bytes : List (Byte × Bool), fits → uncarried →
      ((¬ ∀ b ∈ bytes, odd b) →
        Sys2Proof.Machine.exec (.linePacket i line (.data bytes)) s =
          .next (if i = .ctrl then reported taken else taken)) ∧
      ((∀ b ∈ bytes, odd b) → i = .ctrl → s.clu.lineCount ≤ 1 →
        (∀ (tag code length check : Byte) (content : List Byte),
          bytes.map Prod.fst = [4, tag, code, length, check] ++ content → content.length = 16 → s.clu.pendingLine = none →
          (length.toNat ≤ 16 → ([tag, code, length] ++ content.take length.toNat ++ [check]).sum = 0 →
            Sys2Proof.Machine.exec (.linePacket i line (.data bytes)) s =
              Sys2Proof.Machine.exec (rowOfCode code tag (content.take length.toNat)) (counted taken)) ∧
          (length.toNat ≤ 16 → ([tag, code, length] ++ content.take length.toNat ++ [check]).sum ≠ 0 →
            Sys2Proof.Machine.exec (.linePacket i line (.data bytes)) s = .next (reported taken)) ∧
          (16 < length.toNat → length.toNat ≤ 24 → s.clu.lineCount = 0 →
            Sys2Proof.Machine.exec (.linePacket i line (.data bytes)) s =
              .next { taken with clu := { s.clu with
                lineCount := 1
                pendingLine := some { tag := tag, code := code, length := length, check := check, args := content } } }) ∧
          (24 < length.toNat ∨ (16 < length.toNat ∧ s.clu.lineCount = 1) →
            Sys2Proof.Machine.exec (.linePacket i line (.data bytes)) s = .next (reported taken))) ∧
        (∀ (head content : List Byte), bytes.map Prod.fst = 5 :: (head ++ content) → head.length = 4 →
          (s.clu.pendingLine = none →
            Sys2Proof.Machine.exec (.linePacket i line (.data bytes)) s = .next (reported taken)) ∧
          (∀ l : PendingLine, s.clu.pendingLine = some l →
            let args := l.args ++ content.take (l.length.toNat - 16)
            (([l.tag, l.code, l.length] ++ args ++ [l.check]).sum = 0 →
              Sys2Proof.Machine.exec (.linePacket i line (.data bytes)) s =
                Sys2Proof.Machine.exec (rowOfCode l.code l.tag args) (counted taken)) ∧
            (([l.tag, l.code, l.length] ++ args ++ [l.check]).sum ≠ 0 →
              Sys2Proof.Machine.exec (.linePacket i line (.data bytes)) s = .next (reported taken)))) ∧
        (∀ (kind : Byte) (rest : List Byte), bytes.map Prod.fst = kind :: rest → kind ≠ 4 → kind ≠ 5 →
          Sys2Proof.Machine.exec (.linePacket i line (.data bytes)) s = .next (reported taken))) ∧
      ((∀ b ∈ bytes, odd b) → ∀ x : TunerId, i = streamOf x → s.cueLine x = some line.toNat → s.settling x = .none →
        ∀ (h l day month hour minute status : Byte) (head rest : List Byte),
          bytes.map Prod.fst = 1 :: (head ++ [h, l, day, month, hour, minute, status] ++ rest) → head.length = 4 →
          status.toNat ≤ 2 → 1 ≤ day.toNat → day.toNat ≤ 31 → 1 ≤ month.toNat → month.toNat ≤ 12 →
          hour.toNat ≤ 23 → minute.toNat ≤ 59 →
          let r := s.cueRecord x
          ∀ c, r.tuning = some c → r.taking = true →
          let cue : Cue :=
            { network := h.toNat * 256 + l.toNat
              label := some { day := day.toNat, month := month.toNat, hour := hour.toNat, minute := minute.toNat }
              status := if status = 0 then .run else if status = 1 then .hold else .clear }
          (r.lastCue ≠ some cue →
            Sys2Proof.Machine.exec (.linePacket i line (.data bytes)) s =
              .next (setCueRecord x { r with lastCue := some cue, age := 0 } taken)) ∧
          (r.lastCue = some cue → r.current = some cue →
            Sys2Proof.Machine.exec (.linePacket i line (.data bytes)) s =
              .next (setCueRecord x { r with age := 0 } taken)) ∧
          (r.lastCue = some cue → r.current ≠ some cue → s.schedulerIdle → s.tun.search.state = .idle →
            let current := setCueRecord x { r with age := 0, current := some cue } taken
            (s.cue.ring.length < 8 →
              Sys2Proof.Machine.exec (.linePacket i line (.data bytes)) s =
                .next { current with cue := { current.cue with
                  ring := s.cue.ring ++
                    [{ tuner := x, channel := c, cue := cue, at_ := s.clk.now, status := s.clk.status }] } }) ∧
            (s.cue.ring.length = 8 →
              Sys2Proof.Machine.exec (.linePacket i line (.data bytes)) s =
                .next (current.withSticky Sticky.cueRingFull.mask)))) ∧
      ((∀ b ∈ bytes, odd b) → i = .play → ∀ (mark : Byte) (head content : List Byte),
        bytes.map Prod.fst = 3 :: mark :: (head ++ content) → head.length = 3 →
        let read : Prop := s.trc.state = .dirRead ∧ s.tcb.exact = true ∧ s.tcb.pulseSinceExact = true ∧
          s.dir.collecting = true ∧ s.dir.blankTested = true
        (¬ read ∨ mark = 1 ∨ (line.toNat ≠ 9 ∧ line.toNat ≠ 10) →
          Sys2Proof.Machine.exec (.linePacket i line (.data bytes)) s = .next taken) ∧
        (∀ (copy place : Nat) (p : Header), read → mark = 0 → copy < 3 → place ≤ 24 → f.header = some p →
          s.tcb.absPos = 10 + 20 * copy + place / 4 + 1 → (p.parity = .first ↔ place % 4 < 2) →
          line.toNat = 9 + place % 2 →
          Sys2Proof.Machine.exec (.linePacket i line (.data bytes)) s =
            .next { taken with dir := { s.dir with
              copies := s.dir.copies.modify copy fun places => places.set place (some content) } }) ∧
        (∀ p : Header, read → f.header = some p →
          (∀ copy place : Nat, copy < 3 → place ≤ 24 →
            ¬ (s.tcb.absPos = 10 + 20 * copy + place / 4 + 1 ∧ (p.parity = .first ↔ place % 4 < 2) ∧
               line.toNat = 9 + place % 2)) →
          Sys2Proof.Machine.exec (.linePacket i line (.data bytes)) s = .next taken)))

/-- A TIME line on a tuner's cue line, of either tuner: a decode that is not valid, or at a tuner that takes none, changes
nothing; a valid one is kept, and confirmed when it agrees with the one before it. Its local time, unless it leaves the
calendar, then sets the clock, with CLOCK_SET, when auto-set is on and the clock is UNSET or 2 s or more away; it is ignored
otherwise, and while the store is read. Nothing else changes, with nothing scheduled. -/
def Obligations.TimeLinesSetTheClock : Prop :=
  ∀ (x : TunerId) (line : BitVec 16) (bytes : List (Byte × Bool)) (head rest : List Byte)
    (day month year hour minute second offset : Byte) (s : State), s.hears x line bytes →
    bytes.map Prod.fst = 2 :: (head ++ [day, month, year, hour, minute, second, offset] ++ rest) → head.length = 4 →
    let seen := s.lineSeen (streamOf x) line.toNat (.data bytes)
    let r := s.cueRecord x
    let date : Date := { day := day.toNat, month := month.toNat, year := year.toNat }
    let decode : TimeDecode :=
      { at_ := { date := date, hour := hour.toNat, minute := minute.toNat, second := second.toNat }, offset := offset.toInt }
    let valid : Prop := 1 ≤ month.toNat ∧ month.toNat ≤ 12 ∧ year.toNat ≤ 99 ∧ 1 ≤ day.toNat ∧
      day.toNat ≤ monthLength year.toNat month.toNat ∧ hour.toNat ≤ 23 ∧ minute.toNat ≤ 59 ∧ second.toNat ≤ 59 ∧
      -24 ≤ offset.toInt ∧ offset.toInt ≤ 24
    let agrees : Prop := ∃ old, r.lastTime = some old ∧ old.at_.date = date ∧ old.at_.hour = hour.toNat ∧
      old.at_.minute = minute.toNat ∧ old.offset = offset.toInt ∧
      (second.toNat = old.at_.second ∨ second.toNat = old.at_.second + 1)
    let kept := setCueRecord x { r with lastTime := some decode } seen
    let gives (t : State) : Prop := Sys2Proof.Machine.exec (.linePacket (streamOf x) line (.data bytes)) s = .next t
    (r.tuning = none ∨ r.taking = false ∨ ¬ valid → gives seen) ∧
    (r.tuning.isSome → r.taking = true → valid →
      (¬ agrees → gives kept) ∧
      (agrees →
        let localSeconds : Int := (decode.at_.seconds : Int) + 1800 * offset.toInt
        (localSeconds < 0 ∨ 36525 * 86400 ≤ localSeconds → gives kept) ∧
        (∀ t : DateTime, t.valid = true → (t.seconds : Int) = localSeconds →
          let apart : Int := (t.seconds : Int) - s.clk.now.seconds
          (s.starting = true ∨ s.clk.autoSet = false ∨ (s.clk.status ≠ .unset ∧ -1 ≤ apart ∧ apart ≤ 1) → gives kept) ∧
          (s.starting = false → s.clk.autoSet = true → s.clk.status = .unset ∨ apart < -1 ∨ 1 < apart → s.schedulerIdle →
            gives ({ kept with clk :=
              { s.clk with now := t, dow := t.date.dow, phase := 0, status := .setBroadcast } }.withSticky
                Sticky.clockSet.mask)))))

/-! ### Switches and sensors (chapter 1) -/

/-- The switches: a cassette pushed home is threaded with its counters at 0, once the motors rest; threading ends in STOPPED or
in a directory read, unthreading ends with the cassette pushed out, and the cassette at the slot completes EJECT. The tab is
only noted, and so is every switch while the part is asleep; that an input follows its row is the model's reading (log 61). -/
def Obligations.SwitchesMoveTheCassette : Prop :=
  ∀ s : State,
    let cassette (pos : CassettePos) : State := { s with pins := { s.pins with cassette := pos } }
    let threaded (b : Bool) : State := { s with pins := { s.pins with threaded := b } }
    let unthreaded (b : Bool) : State := { s with pins := { s.pins with unthreaded := b } }
    let pushedOut : Trc :=
      { s.trc with
        state := .unloading, phase := .pushOut, unthreadingLimit := none, threadingLimit := none,
        pushOutLimit := some 8000 }
    (∀ tab, Sys2Proof.Machine.exec (.writeProtectTab tab) s = .next { s with pins := { s.pins with tab := tab } }) ∧
    (s.asleep = true →
      (∀ pos, Sys2Proof.Machine.exec (.cassetteInSwitch pos) s = .next (cassette pos)) ∧
      (∀ b, Sys2Proof.Machine.exec (.threadedSwitch b) s = .next (threaded b)) ∧
      (∀ b, Sys2Proof.Machine.exec (.unthreadedSwitch b) s = .next (unthreaded b))) ∧
    (s.asleep = false →
      (s.trc.state = .empty ∨ s.trc.state = .ejected →
        Sys2Proof.Machine.exec (.cassetteInSwitch .home) s =
          .next { (cassette .home).transportTo
              { s.trc.restsIn .loading .idle with threadingLimit := if s.trc.atRestMark then none else some 8000 } with
            tcb := { s.tcb.closeWindow with
              relCounter := 0, indexCount := 0, selected := s.sto.options.defaultProfile, history := [], nearEnd := false }
            sch := { s.sch with settledFigure := none } }) ∧
      (s.trc.state = .ejected →
        Sys2Proof.Machine.exec (.cassetteInSwitch .slotOpen) s =
          .next ((cassette .slotOpen).transportTo (s.trc.restsIn .empty .idle))) ∧
      (s.trc.state = .empty → ∀ pos, pos ≠ .home →
        Sys2Proof.Machine.exec (.cassetteInSwitch pos) s = .next (cassette pos)) ∧
      (∀ c, s.trc.state = .unloading → s.trc.phase = .pushOut → s.trc.pushOutLimit.isSome → s.letsGo .done .none c →
        Sys2Proof.Machine.exec (.cassetteInSwitch .partway) s =
          .next { cassette .partway with
            trc := { s.trc.restsIn .ejected .idle with
              endLatch := false, locate := none, seek := none, atRestMark := false, held := none }
            tcb := { s.tcb.closeWindow with
              exact := false, absPos := 0, pulseSinceExact := false, history := [], nearEnd := false }
            dir := { s.dir.lost with copies := noFragments, blankTested := false }
            sch := { s.sch with settledFigure := none }
            clu := c }) ∧
      (s.trc.state = .loading → s.trc.threadingLimit.isSome → s.pins.dew = false →
        (s.pins.startSensor = false → s.trc.heldStart = none →
          Sys2Proof.Machine.exec (.threadedSwitch true) s =
            .next { threaded true with
              trc := { s.trc.restsIn .stopped .idle with servoLocked := false, heldHalt := false }
              tcb := { s.tcb.closeWindow with exact := false, pulseSinceExact := false }
              dir := s.dir.lost }) ∧
        (s.pins.startSensor = true → s.sch.session = none →
          let unknown : Bool := s.dir.state = .unknown
          Sys2Proof.Machine.exec (.threadedSwitch true) s =
            .next { (threaded true).transportTo
                { s.trc.movesInto .dirRead .idle with locate := s.trc.locate, seek := s.trc.seek, heldHalt := false } with
              dir := { s.dir with
                collecting := unknown, copies := if unknown then noFragments else s.dir.copies, blankTest := none
                blankTested := false, writeImage := none } })) ∧
      (s.trc.state = .dewHold → s.trc.phase = .dewRethread →
        Sys2Proof.Machine.exec (.threadedSwitch true) s =
          .next { (threaded true).transportTo { s.trc.restsIn .stopped .idle with servoLocked := false } with
            tcb := { s.tcb.closeWindow with exact := false, pulseSinceExact := false } }) ∧
      (s.trc.state = .unloading → s.trc.phase = .unthread → s.trc.unthreadingLimit.isSome →
        Sys2Proof.Machine.exec (.unthreadedSwitch true) s = .next { unthreaded true with trc := pushedOut }) ∧
      (s.trc.state = .dewHold → s.trc.phase = .dewUnthread → s.trc.unthreadingLimit.isSome →
        ((∃ id, s.trc.held = some { id := id, code := 11 }) →
          Sys2Proof.Machine.exec (.unthreadedSwitch true) s = .next { unthreaded true with trc := pushedOut }) ∧
        (s.trc.held = none → s.pins.dew = true →
          Sys2Proof.Machine.exec (.unthreadedSwitch true) s =
            .next { unthreaded true with trc := { s.trc with phase := .dewWait, unthreadingLimit := none } }) ∧
        (s.trc.held = none → s.pins.dew = false →
          Sys2Proof.Machine.exec (.unthreadedSwitch true) s =
            .next { unthreaded true with
              trc := { s.trc with phase := .dewRethread, unthreadingLimit := none, threadingLimit := some 8000 } })))

/-- The leader and dew sensors: the leader's edge makes the position EXACT at 0; a motion that runs into its leader stops with
its command FAILED NOT_REACHED, TAPE_START or TAPE_END and, forward, the end latch; dew unthreads a threaded tape with its
command FAILED DEW, and re-threading follows when it clears. Elsewhere, and asleep, a sensor is only noted; END_SENSOR_ACTIVE
with its level inactive only notes the level (the model's choices, logs 61 and 17). -/
def Obligations.SensorsStopTheTape : Prop :=
  ∀ s : State,
    let start (b : Bool) : State := { s with pins := { s.pins with startSensor := b } }
    let endOf (b : Bool) : State := { s with pins := { s.pins with endSensor := b } }
    let dew (b : Bool) : State := { s with pins := { s.pins with dew := b } }
    (Sys2Proof.Machine.exec (.endSensorActive false) s = .next (endOf false)) ∧
    (s.asleep = true ∨ s.trc.state = .stopped ∨ s.trc.state = .empty →
      Sys2Proof.Machine.exec .startSensorActive s = .next (start true) ∧
      Sys2Proof.Machine.exec .startSensorInactive s = .next (start false) ∧
      Sys2Proof.Machine.exec (.endSensorActive true) s = .next (endOf true) ∧
      Sys2Proof.Machine.exec .dewSensorClear s = .next (dew false)) ∧
    (s.asleep = true ∨ s.trc.state = .empty ∨ s.trc.state = .fault →
      Sys2Proof.Machine.exec .dewSensorActive s = .next (dew true)) ∧
    (s.asleep = false →
      (∀ c, s.trc.state = .windBack ∨ s.trc.state = .searchBack → s.letsGo .failed .notReached c →
        Sys2Proof.Machine.exec .startSensorActive s =
          .next { (start true).transportTo { s.trc.stops with held := none } with
            tcb := s.tcb.closeWindow.atZero
            clu := { c with sticky := s.clu.sticky ||| Sticky.tapeStart.mask } }) ∧
      (s.trc.state = .lockup → s.trc.phase = .backspace → s.trc.backspaceCount ≠ 0 →
        Sys2Proof.Machine.exec .startSensorActive s =
          .next ({ start true with
            trc := { s.trc with phase := .forwardRun }, tcb := s.tcb.atZero }.withSticky Sticky.tapeStart.mask)) ∧
      (s.trc.state = .dirWrite → s.trc.phase = .writeRewind →
        Sys2Proof.Machine.exec .startSensorActive s =
          .next ({ start true with
            trc := { s.trc with phase := .writeLead }, tcb := s.tcb.atZero }.withSticky Sticky.tapeStart.mask)) ∧
      (s.trc.state = .play ∨ s.trc.state = .windFwd ∨ s.trc.state = .searchFwd ∨ s.trc.state = .record →
        Sys2Proof.Machine.exec .startSensorInactive s = .next { start false with tcb := s.tcb.atZero }) ∧
      (s.trc.state = .dirRead →
        Sys2Proof.Machine.exec .startSensorInactive s =
          .next { start false with
            trc := { s.trc with dirReadLock := if s.trc.servoLocked then none else some 3000 }
            tcb := s.tcb.atZero
            dir := if s.dir.blankTested then s.dir else { s.dir with blankTest := some 2000, blankTested := true } }) ∧
      (s.trc.state = .lockup → s.trc.phase = .leaderClear →
        Sys2Proof.Machine.exec .startSensorInactive s =
          .next { start false with
            trc := { s.trc with phase := .reserve, recordingSpeed := .one }, tcb := s.tcb.atZero }) ∧
      (s.trc.state = .dirWrite → s.trc.phase = .writeLead → s.trc.servoLocked = true →
        Sys2Proof.Machine.exec .startSensorInactive s =
          .next { start false with
            trc := { s.trc with phase := .writing }, tcb := s.tcb.atZero
            dir := { s.dir with
              writeImage := some (copyBytes s.dir.headerProfile ((s.dir.generation + 1) % 256)
                (s.dir.image.filter fun e => e.length.isSome))
              changed := false } }) ∧
      (∀ c, s.trc.state = .dirWrite → s.trc.phase = .writeLead → s.trc.servoLocked = false → s.letsGo .failed .lock c →
        Sys2Proof.Machine.exec .startSensorInactive s =
          .next { (start false).transportTo { s.trc.stops with held := none } with
            tcb := s.tcb.closeWindow.atZero, clu := c }) ∧
      (∀ c, s.trc.state = .play ∨ s.trc.state = .windFwd ∨ s.trc.state = .searchFwd ∨ s.trc.state = .dirRead →
        s.sch.session = none → s.letsGo .failed .notReached c →
        Sys2Proof.Machine.exec (.endSensorActive true) s =
          .next { (endOf true).readCut.transportTo
              { s.trc.stops with
                held := none, endLatch := true, pausePoint := none, markDue := false
                rewindDue := s.sto.options.autoRewind } with
            clu := { c with sticky := s.clu.sticky ||| Sticky.tapeEnd.mask } }) ∧
      (∀ x, s.trc.state = .record → s.sch.session = some x → x.state ≠ .closing → s.trc.held = none →
        Sys2Proof.Machine.exec (.endSensorActive true) s =
          .next ({ (endOf true).transportTo
              { s.trc.stops with
                endLatch := true, pausePoint := none, markDue := false, rewindDue := s.sto.options.autoRewind
                heldHalt := false, heldStart := none, heldPause := false, heldResume := none } with
            sch := { s.sch with
              session := some { x with state := .closing, closeReason := some .tapeEnd } } }.withSticky
                Sticky.tapeEnd.mask)) ∧
      (∀ c, s.trc.takesOrder → s.sch.session = none → s.letsGo .failed .dew c →
        let holds (t : Trc) : State :=
          { (dew true).readCut.transportTo { t with held := none, locate := none, seek := none, pausePoint := none } with
            clu := c }
        Sys2Proof.Machine.exec .dewSensorActive s =
          .next (if s.trc.atRestMark || s.trc.state.isMotion then
              holds { s.trc.restsIn .dewHold .dewBrake with atRestMark := true }
            else holds { s.trc.restsIn .dewHold .dewUnthread with unthreadingLimit := some 8000 })) ∧
      (s.trc.state = .dewHold →
        (s.trc.phase = .dewRethread →
          Sys2Proof.Machine.exec .dewSensorActive s =
            .next { dew true with trc := { s.trc with
              phase := .dewUnthread, unthreadingLimit := some 8000, threadingLimit := none } }) ∧
        (s.trc.phase = .dewWait →
          Sys2Proof.Machine.exec .dewSensorClear s =
            .next { dew false with trc := { s.trc with
              phase := .dewRethread, unthreadingLimit := none, threadingLimit := some 8000 } })))

/-! ### Pulses (chapters 1 and 2) -/

/-- A control pulse steps the relative counter within its limits, the absolute position while it is EXACT, and the index count
when it is marked; it restarts the blank tests. In RECORD the pulse written is marked as ordered, and moves the written end up.
Each reel's pulse restarts its watch and, in the steady window, gives its period; a take-up pulse with both periods usable and a
VALID profile adds a measurement to the history; eight of them are a settled figure, and a figure short of the frames still
needed switches an AUTO session from speed 1 to speed 2, once. The model's readings: a pause order kept in RECORD is taken with
the pulse of the frame written (log 67), the resume order kept behind it follows at once (log 20), and a target that a pulse
reaches with the end action PLAY enters PLAY also while the end sensor is active (log 64). -/
def Obligations.PulsesCountAndMeasure : Prop :=
  ∀ s : State, s.asleep = false →
    let clamp (n x : Int) : Int := max (-n) (min n x)
    let counted (dir : Direction) (mark : Bool) : Tcb :=
      let step : Int := match dir with | .forward => 1 | .reverse => -1
      { s.tcb with
        relCounter := clamp 899999 (s.tcb.relCounter + step)
        absPos := if s.tcb.exact then (match dir with | .forward => min 899999 (s.tcb.absPos + 1) | .reverse => s.tcb.absPos - 1)
                  else s.tcb.absPos
        pulseSinceExact := s.tcb.exact || s.tcb.pulseSinceExact
        indexCount := if mark then clamp 99999 (s.tcb.indexCount + step) else s.tcb.indexCount
        blankFlag := false
        blankTimer := if s.tcb.steadyOpen then some 1000 else none }
    let pulse (dir : Direction) (mark : Bool) : State :=
      { s with tcb := counted dir mark, dir := { s.dir with blankTest := none } }
    let restarted (t : Timer) : Timer := t.map fun _ => 4096
    (∀ (dir : Direction) (mark : Bool), s.tcb.absPos ≤ 899999 →
      (s.trc.state = .play ∨ s.trc.state = .stopped ∨ s.trc.state = .windFwd ∨ s.trc.state = .windBack ∨
          s.trc.state = .searchFwd ∨ s.trc.state = .searchBack →
        Sys2Proof.Machine.exec (.controlPulse dir mark) s = .next (pulse dir mark)) ∧
      (s.trc.state = .locate → s.trc.phase = .wind → ∀ l, s.trc.locate = some l → l.kind = .counter →
        (l.target ≠ some (counted dir mark).relCounter →
          Sys2Proof.Machine.exec (.controlPulse dir mark) s = .next (pulse dir mark)) ∧
        (∀ c, l.target = some (counted dir mark).relCounter → s.letsGo .done .none c →
          Sys2Proof.Machine.exec (.controlPulse dir mark) s =
            .next { (pulse dir mark).transportTo { s.trc.endsWith l.endAction with held := none } with clu := c })) ∧
      (s.trc.state = .locate → s.trc.phase = .wind → ∀ l, s.trc.locate = some l → l.kind = .index → 2 ≤ l.remaining →
        Sys2Proof.Machine.exec (.controlPulse dir true) s =
          .next { pulse dir true with
            trc := { s.trc with locate := some { l with remaining := l.remaining - 1 } } }) ∧
      (s.trc.state = .record →
        let written : State :=
          { pulse dir s.trc.markDue with
            trc := { s.trc with markDue := false }
            dir := { s.dir with
              blankTest := none
              range := s.dir.range.map fun r =>
                if s.tcb.exact then { r with writtenEnd := max r.writtenEnd (counted dir false).absPos } else r } }
        let paused : State :=
          written.transportTo
            { written.trc.restsIn .recordPause .idle with
              pausePoint := some written.tcb.relCounter, pauseTimer := some 300000, heldPause := false, heldResume := none }
        (s.trc.heldPause = false → Sys2Proof.Machine.exec (.controlPulse dir mark) s = .next written) ∧
        (s.trc.heldPause = true → s.trc.heldResume = none →
          Sys2Proof.Machine.exec (.controlPulse dir mark) s = .next paused) ∧
        (∀ speed, s.trc.heldPause = true → s.trc.heldResume = some speed →
          Sys2Proof.Machine.exec (.controlPulse dir mark) s =
            .next (paused.transportTo
              { paused.trc.movesInto .lockup .backspace with
                orderedSpeed := speed, orderedIndex := false, backspaceCount := 0 }))) ∧
      (s.trc.state = .lockup → s.trc.phase = .lock →
        Sys2Proof.Machine.exec (.controlPulse dir mark) s = .next (pulse dir mark)) ∧
      (s.trc.state = .lockup → s.trc.phase = .reserve → (counted dir mark).absPos < 75 →
        Sys2Proof.Machine.exec (.controlPulse dir mark) s = .next (pulse dir false)) ∧
      (s.trc.state = .lockup → s.trc.phase = .backspace → s.trc.backspaceCount < 49 →
        Sys2Proof.Machine.exec (.controlPulse dir mark) s =
          .next { pulse dir mark with trc := { s.trc with backspaceCount := s.trc.backspaceCount + 1 } }) ∧
      (s.trc.state = .lockup → s.trc.phase = .forwardRun → 2 ≤ s.trc.backspaceCount →
        Sys2Proof.Machine.exec (.controlPulse dir mark) s =
          .next { pulse dir mark with trc := { s.trc with backspaceCount := s.trc.backspaceCount - 1 } })) ∧
    (∀ ms : Nat,
      Sys2Proof.Machine.exec (.supplyReelPulse ms) s =
        .next { s with
          trc := { s.trc with supplyWatch := restarted s.trc.supplyWatch }
          tcb := { s.tcb with
            supplyPeriod := if s.tcb.steadyOpen then (if s.tcb.supplySeen then some ms else none) else s.tcb.supplyPeriod
            supplySeen := s.tcb.steadyOpen || s.tcb.supplySeen } }) ∧
    (∀ ms : Nat,
      let watched : State := { s with trc := { s.trc with takeUpWatch := restarted s.trc.takeUpWatch } }
      (s.tcb.steadyOpen = false → Sys2Proof.Machine.exec (.takeUpReelPulse ms) s = .next watched) ∧
      (s.tcb.steadyOpen = true → s.tcb.takeUpSeen = false →
        Sys2Proof.Machine.exec (.takeUpReelPulse ms) s =
          .next { watched with tcb := { s.tcb with takeUpPeriod := none, takeUpSeen := true } }) ∧
      (s.tcb.steadyOpen = true → s.tcb.takeUpSeen = true →
        let timed : Tcb := { s.tcb with takeUpPeriod := some ms }
        let usable (p : Nat) : Prop := 1 ≤ p ∧ p ≤ 4095
        let profile := s.profile s.tcb.selected
        (s.tcb.supplyPeriod = none ∨ ¬ usable ms ∨ (∃ ps, s.tcb.supplyPeriod = some ps ∧ ¬ usable ps) ∨
            profile.valid = false →
          Sys2Proof.Machine.exec (.takeUpReelPulse ms) s = .next { watched with tcb := timed }) ∧
        (∀ ps, s.tcb.supplyPeriod = some ps → usable ps → usable ms → profile.valid = true →
          s.tcb.history.length < 7 → s.tcb.nearEnd = false →
          Sys2Proof.Machine.exec (.takeUpReelPulse ms) s =
            .next { watched with
              tcb := { timed with
                history := s.tcb.history ++ [interpolate profile.points (1024 * ms / (ps + ms))] } }) ∧
        (∀ ps e1 rest, s.tcb.supplyPeriod = some ps → usable ps → usable ms → profile.valid = true →
          s.tcb.history = e1 :: rest → rest.length = 7 →
          let history := rest ++ [interpolate profile.points (1024 * ms / (ps + ms))]
          let figure := history.sum / 8
          let settled : State :=
            { State.nearEndTested { watched with tcb := { timed with history := history } } with
              sch := { s.sch with settledFigure := some figure } }
          let short (x : Session) : Prop :=
            ∃ start stop, x.occurrence = some (start, stop) ∧ figure < (stop * 60 - s.clk.now.seconds) * 25
          let auto (x : Session) : Prop :=
            x.state = .active ∧ x.autoMark = true ∧ x.currentSpeed = .one ∧ x.switched = false
          (∀ x ∈ s.sch.session, ∀ o ∈ x.occurrence, o.2 < 36525 * 1440) →
          ((∀ x ∈ s.sch.session, ¬ (auto x ∧ short x)) →
            Sys2Proof.Machine.exec (.takeUpReelPulse ms) s = .next settled) ∧
          (∀ x, s.sch.session = some x → auto x → short x → s.trc.state = .record → s.trc.heldPause = false →
            Sys2Proof.Machine.exec (.takeUpReelPulse ms) s =
              .next (State.nearEndTested { settled.transportTo
                { s.trc.movesInto .lockup .backspace with
                  supplyWatch := some 4096, takeUpWatch := some 4096, pausePoint := some s.tcb.relCounter
                  orderedSpeed := .two, orderedIndex := false, backspaceCount := 0, heldPause := false
                  heldResume := none } with
                sch := { settled.sch with
                  session := some { x with switched := true, currentSpeed := .two } } })))))

/-- The servo and the motors: LOCKED ends the wait of PLAY, of the directory read and of the lock-up, whose first frame makes
the session ACTIVE and its entry RECORDING; with the directory known and the position EXACT the open entry is inserted before
the entries of no lower start, and with 24 entries DIR_FULL is raised. With the hold-pending mark the session is PAUSED, the
pause order kept for the frame (log 67). The motion-steady event opens the steady window and completes the winds, the picture
search and the PAUSE that left PLAY_PAUSE; at rest, STOP is complete, a waiting threading or unthreading begins, and the tape
wound to its end is rewound when the option says so. The model's readings: LOCKED stands after RECORD is entered (log 26), the
entry of an EXT session has the source 100 (log 36), a held start order is taken at rest without another test of the end sensor
(log 44), and AT_REST without the mark changes nothing (log 60). -/
def Obligations.ServoAndMotorsAreFollowed : Prop :=
  ∀ s : State, s.asleep = false →
    let locked : State := { s with trc := { s.trc with servoLocked := true } }
    (Sys2Proof.Machine.exec .servoUnlocked s = .next { s with trc := { s.trc with servoLocked := false } }) ∧
    (s.trc.state = .windFwd ∨ s.trc.state = .searchBack ∨ s.trc.state = .dirWrite ∨ s.trc.state = .record ∨
        (s.trc.state = .play ∧ s.trc.playLock = none) ∨ (s.trc.state = .lockup ∧ s.trc.phase ≠ .lock) →
      Sys2Proof.Machine.exec .servoLocked s = .next locked) ∧
    (s.trc.state = .play → s.trc.playLock.isSome →
      (s.trc.held = none →
        Sys2Proof.Machine.exec .servoLocked s =
          .next { locked with trc := { locked.trc with playLock := none } }) ∧
      (∀ f c, s.trc.held = some { id := f, code := 1 } → s.letsGo .done .none c →
        Sys2Proof.Machine.exec .servoLocked s =
          .next { locked with trc := { locked.trc with playLock := none, held := none }, clu := c })) ∧
    (s.trc.state = .dirRead →
      Sys2Proof.Machine.exec .servoLocked s =
        .next { locked with trc := { locked.trc with dirReadLock := none } }) ∧
    (∀ x c, s.trc.state = .lockup → s.trc.phase = .lock → s.trc.lockupLock.isSome → s.sch.session = some x →
      x.state = .starting → x.switched = false → (x.stopRule = .label → s.channelCue x.channel ≠ none) →
      (∀ k, x.origin = some k → (s.timer k).state ≠ .waiting ∨
        (s.sch.watch = none ∧ ∀ j e, j ≠ k → s.sch.timers[j]? = some e → e.state ≠ .waiting)) → s.letsGo .done .none c →
      (∀ h ∈ s.trc.held, h.code = 2) →
      let here := s.tcb.absPos
      let begun (y : Session) (st : EntryState) (range : SessionRange) (d : Dir) (raised : BitVec 18) (pausing : Bool) : State :=
        { s.transportTo
            { s.trc.movesInto .record .idle with
              locate := s.trc.locate, seek := s.trc.seek, steadyAwaited := false, servoLocked := true, held := none
              recordingSpeed := s.trc.orderedSpeed, markDue := s.trc.orderedIndex, pausePoint := none
              heldPause := s.trc.heldPause || pausing, heldResume := if pausing then none else s.trc.heldResume } with
          tcb := { s.tcb with
            steadyOpen := true, supplyPeriod := none, takeUpPeriod := none, supplySeen := false, takeUpSeen := false
            blankTimer := some 1000, blankFlag := false }
          dir := { d with writeImage := none, range := some range }
          sch := { s.sch with
            session := some { y with startedAt := some s.clk.now }
            timers := match x.origin with
              | none => s.sch.timers
              | some k => s.sch.timers.modify k fun e => { e with state := st } }
          clu := { c with sticky := s.clu.sticky ||| raised ||| Sticky.sessionOpen.mask } }
      let known : Prop := s.tcb.exact = true ∧ s.dir.state ≠ .unknown
      let active : Session := { x with state := .active }
      let becomes (y : Session) (st : EntryState) (range : SessionRange) (d : Dir) (raised : BitVec 18) (p : Bool) : Prop :=
        Sys2Proof.Machine.exec .servoLocked s = .next (begun y st range d raised p)
      (x.holdPending = false →
        (¬ known → becomes { active with notIndexed := true } .recording
          { start := none, writtenEnd := here, opened := false } s.dir 0 false) ∧
        (known → 24 ≤ s.dir.image.length → becomes active .recording
          { start := some here, writtenEnd := here, opened := false } s.dir Sticky.dirFull.mask false) ∧
        (∀ speed, known → s.dir.image.length < 24 → x.firstSpeed = some speed →
          let entry : DirEntry :=
            { start := here, length := none, firstSpeed := speed, switchFrame := none
              source := match x.source with | .ext => 100 | .air => x.channel
              network := (s.channel x.channel).bind Channel.network, label := x.label
              recordedAt := if s.clk.status = .unset then none else some s.clk.now, origin := x.origin, endedBy := none }
          let image := s.dir.image.filter (fun e => e.start < here) ++ entry :: s.dir.image.filter (fun e => here ≤ e.start)
          becomes { active with entryNo := (image.findIdx? fun e => e.length.isNone).map (· + 1) } .recording
            { start := some here, writtenEnd := here, opened := true }
            { s.dir with image := image, dirty := true, changed := true } 0 false)) ∧
      (x.holdPending = true → ¬ known →
        becomes
          { x with
            state := .paused, pauseCause := some .label, holdPending := false, cueLoss := false, lossTimer := none
            notIndexed := true }
          .paused { start := none, writtenEnd := here, opened := false } s.dir 0 true)) ∧
    (s.trc.steadyAwaited = false → Sys2Proof.Machine.exec .motionSteady s = .next s) ∧
    (s.trc.steadyAwaited = true →
      (s.trc.state = .locate ∨ s.trc.state = .dirRead ∨ s.trc.state = .lockup →
        Sys2Proof.Machine.exec .motionSteady s = .next { s with trc := { s.trc with steadyAwaited := false } }) ∧
      (∀ code c, (s.trc.state = .windFwd ∧ code = 5) ∨ (s.trc.state = .windBack ∧ code = 6) ∨
          (s.trc.state = .searchFwd ∧ code = 7) ∨ (s.trc.state = .searchBack ∧ code = 7) ∨
          (s.trc.state = .play ∧ code = 3) →
        s.letsGo .done .none c → (∀ h ∈ s.trc.held, h.code = code) →
        Sys2Proof.Machine.exec .motionSteady s =
          .next { s with
            trc := { s.trc with steadyAwaited := false, held := none }
            tcb := { s.tcb with
              steadyOpen := true, supplyPeriod := none, takeUpPeriod := none, supplySeen := false, takeUpSeen := false
              blankTimer := some 1000 }
            clu := c })) ∧
    (let rested : State := { s with trc := { s.trc with atRestMark := false } }
     (s.trc.atRestMark = false → Sys2Proof.Machine.exec .atRest s = .next s) ∧
     (s.trc.atRestMark = true →
       (s.trc.state = .loading →
         Sys2Proof.Machine.exec .atRest s =
           .next { s with trc := { s.trc with atRestMark := false, threadingLimit := some 8000 } }) ∧
       (s.trc.state = .unloading →
         Sys2Proof.Machine.exec .atRest s =
           .next { s with trc := { s.trc with atRestMark := false, phase := .unthread, unthreadingLimit := some 8000 } }) ∧
       (s.trc.state = .dewHold →
         Sys2Proof.Machine.exec .atRest s =
           .next { s with trc := { s.trc with
             atRestMark := false, phase := .dewUnthread, unthreadingLimit := some 8000 } }) ∧
       (s.trc.state = .stopped → s.trc.heldStart = none → s.sch.session = none →
         (s.trc.rewindDue = false → s.trc.held = none → Sys2Proof.Machine.exec .atRest s = .next rested) ∧
         (∀ f c, s.trc.rewindDue = false → s.trc.held = some { id := f, code := 4 } → s.letsGo .done .none c →
           Sys2Proof.Machine.exec .atRest s =
             .next { rested with trc := { rested.trc with held := none }, clu := c }) ∧
         (s.trc.rewindDue = true → s.trc.held = none →
           Sys2Proof.Machine.exec .atRest s =
             .next (rested.transportTo (s.trc.movesInto .windBack .idle)))) ∧
       (∀ speed index x, s.trc.state = .stopped → s.trc.heldStart = some (speed, index) → s.sch.session = some x →
         x.state = .starting → s.trc.held = none → s.tcb.exact = false → s.pins.startSensor = false →
         Sys2Proof.Machine.exec .atRest s =
           .next (s.transportTo
             { s.trc.movesInto .lockup .lock with
               heldStart := none, orderedSpeed := speed, orderedIndex := index, lockupLock := some 3000 }))))

/-! ### Faults, limits and counts (chapter 1) -/

/-- The faults: a limit of the threading, unthreading or pushing out, a stalled reel, the cassette or the threading leaving its
switch, and a double upset enter FAULT with the command held FAILED or ABORTED; a single upset is only reported. Rows whose
limit does not run change nothing (log 2), and a double upset clears the pause point as every entry to FAULT does, where R22 and
R23 pull apart (log 62): the model's choices. -/
def Obligations.FaultsStopTheTransport : Prop :=
  ∀ s : State, s.asleep = false →
    let faulted (c : Clu) : State := { s.readCut.transportTo { s.trc.faults with held := none } with clu := c }
    (∀ c, s.sch.session = none → s.letsGo .failed .fault c →
      (s.trc.threadingLimit.isSome → Sys2Proof.Machine.exec .threadingLimit s = .next (faulted c)) ∧
      (s.trc.unthreadingLimit.isSome → Sys2Proof.Machine.exec .unthreadingLimit s = .next (faulted c)) ∧
      (s.trc.pushOutLimit.isSome → Sys2Proof.Machine.exec .pushOutLimit s = .next (faulted c)) ∧
      (s.trc.takesOrder →
        Sys2Proof.Machine.exec (.threadedSwitch false) s =
          .next { faulted c with pins := { s.pins with threaded := false } }) ∧
      (s.trc.takesOrder ∨ s.trc.state = .loading → s.pins.cassette = .home → ∀ pos, pos ≠ .home →
        Sys2Proof.Machine.exec (.cassetteInSwitch pos) s =
          .next { faulted c with pins := { s.pins with cassette := pos } })) ∧
    (∀ c, s.sch.session = none → s.letsGo .failed .stall c →
      (s.trc.supplyWatch.isSome → Sys2Proof.Machine.exec (.reelStall .supply) s = .next (faulted c)) ∧
      (s.trc.takeUpWatch.isSome → Sys2Proof.Machine.exec (.reelStall .takeUp) s = .next (faulted c))) ∧
    (∀ c, s.sch.session = none → s.letsGo .aborted .fault c →
      Sys2Proof.Machine.exec .doubleUpset s =
        .next { faulted c with clu := { c with sticky := s.clu.sticky ||| Sticky.stateAbort.mask } }) ∧
    (Sys2Proof.Machine.exec .singleUpset s = .next (s.withSticky Sticky.stateCorrected.mask)) ∧
    (s.trc.threadingLimit = none → Sys2Proof.Machine.exec .threadingLimit s = .next s) ∧
    (s.trc.unthreadingLimit = none → Sys2Proof.Machine.exec .unthreadingLimit s = .next s) ∧
    (s.trc.pushOutLimit = none → Sys2Proof.Machine.exec .pushOutLimit s = .next s) ∧
    (s.trc.supplyWatch = none → Sys2Proof.Machine.exec (.reelStall .supply) s = .next s) ∧
    (s.trc.takeUpWatch = none → Sys2Proof.Machine.exec (.reelStall .takeUp) s = .next s)

/-- The limits that stop the tape: the pause timer, the lock limits of PLAY, of the lock-up (whose session is FAILED_START) and
of the directory read, the blank tests; and the counts at their ends: the reserve, the backspace, the seam with its first frame,
the region read or written, the locate's target. The seam of a session that was switched notes its first frame of speed 2 in the
open entry. The model's readings: a directory write is complete once the SECOND field of its last frame is on REC, and not
before (log 31); UNLOCKED follows the seam (log 26); without an open entry no switch frame is noted (log 37); the end action
PLAY enters PLAY also while the end sensor is active (log 64); and a count that is not at its end changes nothing (log 2). -/
def Obligations.LimitsAndCountsRunOut : Prop :=
  ∀ s : State, s.asleep = false →
    let stoppedWith (t : Trc) : Trc :=
      { t with heldHalt := false, heldStart := none, heldPause := false, heldResume := none }
    let judged : Option (List DirEntry × Nat × Nat) := s.dir.copies.findSome? judgeCopy
    let readAs (st : DirState) (image : List DirEntry) (profile generation : Nat) : Dir :=
      { s.dir.lost with state := st, image := image, headerProfile := profile, generation := generation }
    (s.trc.pauseTimer.isSome →
      (s.trc.state = .playPause →
        Sys2Proof.Machine.exec .pauseTimerExpiry s = .next (s.transportTo s.trc.stops)) ∧
      (∀ x, s.trc.state = .recordPause → s.sch.session = some x → x.pauseCause = some .label →
        Sys2Proof.Machine.exec .pauseTimerExpiry s =
          .next (s.transportTo { s.trc.stops with pausePoint := none }))) ∧
    (∀ c, s.trc.playLock.isSome → s.letsGo .failed .lock c →
      Sys2Proof.Machine.exec .playLockLimit s =
        .next { s.transportTo { s.trc.stops with held := none } with clu := c }) ∧
    (∀ c x, s.trc.lockupLock.isSome → s.trc.state = .lockup → s.sch.session = some x → x.state ≠ .closing →
      s.letsGo .failed .lock c →
      Sys2Proof.Machine.exec .lockupLockLimit s =
        .next { s.transportTo (stoppedWith { s.trc.stops with held := none }) with
          sch := { s.sch with session := some { x with state := .closing, closeReason := some .failedStart } }
          clu := c }) ∧
    (s.trc.dirReadLock.isSome →
      (s.trc.seek = none →
        Sys2Proof.Machine.exec .dirReadNoLock s = .next { s.transportTo s.trc.stops with dir := s.dir.lost }) ∧
      (∀ e c, s.trc.seek = some e → s.letsGo .failed .unreadable c →
        Sys2Proof.Machine.exec .dirReadNoLock s =
          .next { s.transportTo { s.trc.stops with held := none } with dir := s.dir.lost, clu := c })) ∧
    (s.dir.blankTest.isSome → s.trc.state = .dirRead → s.trc.seek = none →
      Sys2Proof.Machine.exec .blankTestExpiry s =
        .next { s.transportTo s.trc.stops with
          dir := if s.dir.collecting then readAs .blank [] s.tcb.selected 0
                 else { s.dir with blankTest := none, writeImage := none } }) ∧
    (s.tcb.blankTimer.isSome → s.tcb.steadyOpen = true →
      s.trc.state = .play ∨ s.trc.state = .windFwd ∨ s.trc.state = .windBack ∨ s.trc.state = .searchFwd ∨
        s.trc.state = .searchBack →
      Sys2Proof.Machine.exec .blankFlagTimeout s =
        .next { s with tcb := { s.tcb with blankFlag := true, blankTimer := none } }) ∧
    (s.trc.state = .lockup →
      (s.trc.phase = .reserve → 75 ≤ s.tcb.absPos →
        Sys2Proof.Machine.exec .reserveComplete s =
          .next { s with trc := { s.trc with phase := .lock, lockupLock := some 3000 } }) ∧
      (s.trc.phase = .backspace → 50 ≤ s.trc.backspaceCount →
        Sys2Proof.Machine.exec .backspaceComplete s = .next { s with trc := { s.trc with phase := .forwardRun } }) ∧
      (∀ x c, s.trc.phase = .forwardRun → s.trc.backspaceCount = 0 → s.sch.session = some x → x.state ≠ .starting →
        s.letsGo .done .none c → (∀ h ∈ s.trc.held, h.code = 2 ∨ h.code = 3) →
        let resumed (y : Session) (d : Dir) : State :=
          { s.transportTo
              { s.trc.movesInto .record .idle with
                locate := s.trc.locate, seek := s.trc.seek, steadyAwaited := false, held := none
                recordingSpeed := s.trc.orderedSpeed, markDue := s.trc.orderedIndex, pausePoint := none } with
            tcb := { s.tcb with
              steadyOpen := true, supplyPeriod := none, takeUpPeriod := none, supplySeen := false, takeUpSeen := false
              blankTimer := some 1000, blankFlag := false }
            dir := { d with writeImage := none }
            sch := { s.sch with session := some { y with seamUnlocked := !s.trc.servoLocked || x.seamUnlocked } }
            clu := c }
        let isOpen (e : DirEntry) : Prop := e.length = none
        let notes : Prop := x.switched = true ∧ s.trc.recordingSpeed = .one ∧ s.trc.orderedSpeed = .two ∧
          ∃ e ∈ s.dir.image, isOpen e ∧ e.switchFrame = none
        (¬ notes → Sys2Proof.Machine.exec .seamWriteFrame s = .next (resumed x s.dir)) ∧
        (notes →
          let image := s.dir.image.map fun e => if isOpen e then { e with switchFrame := some s.tcb.absPos } else e
          Sys2Proof.Machine.exec .seamWriteFrame s =
            .next (resumed
              { x with
                switchFrame := some s.tcb.absPos
                entryNo := (image.findIdx? fun e => e.length.isNone).map (· + 1) }
              { s.dir with image := image, dirty := true, changed := true })))) ∧
    (s.trc.state = .dirRead → s.tcb.exact = true → 75 ≤ s.tcb.absPos → s.trc.seek = none →
      (s.dir.collecting = false →
        Sys2Proof.Machine.exec .regionPassed s =
          .next { s.transportTo s.trc.stops with
            dir := { s.dir with blankTest := none, collecting := false, writeImage := none } }) ∧
      (s.dir.collecting = true →
        (∀ image p g, judged = some (image, p, g) → s.tcb.selected = p →
          Sys2Proof.Machine.exec .regionPassed s =
            .next { s.transportTo s.trc.stops with dir := readAs .valid image p g }) ∧
        (∀ image p g, judged = some (image, p, g) → s.tcb.selected ≠ p →
          Sys2Proof.Machine.exec .regionPassed s =
            .next { s.transportTo s.trc.stops with
              tcb := { s.tcb.closeWindow with selected := p, history := [], nearEnd := false }
              sch := { s.sch with settledFigure := none }
              dir := readAs .valid image p g }) ∧
        (judged = none →
          let some_ : Prop := ∃ places ∈ s.dir.copies, ∃ f ∈ places, f ≠ none
          (some_ → Sys2Proof.Machine.exec .regionPassed s =
            .next { s.transportTo s.trc.stops with dir := readAs .damaged [] s.tcb.selected 0 }) ∧
          (¬ some_ → Sys2Proof.Machine.exec .regionPassed s =
            .next { s.transportTo s.trc.stops with dir := readAs .blank [] s.tcb.selected 0 })))) ∧
    (¬ s.lastFrameOnRec → Sys2Proof.Machine.exec .dirWriteComplete s = .next s) ∧
    (s.lastFrameOnRec →
      Sys2Proof.Machine.exec .dirWriteComplete s =
        .next { s.transportTo { s.trc.restsIn .unloading .unthreadWait with atRestMark := true } with
          dir := { s.dir with
            generation := (s.dir.generation + 1) % 256, state := .valid, dirty := s.dir.changed, writeImage := none } }) ∧
    (∀ l c, s.trc.state = .locate → s.trc.phase = .wind → s.trc.locate = some l →
      (l.kind = .counter ∧ l.target = some s.tcb.relCounter) ∨
        (l.kind = .absolute ∧ l.target = some (s.tcb.absPos : Int)) ∨ (l.kind = .index ∧ l.remaining = 0) →
      s.letsGo .done .none c →
      Sys2Proof.Machine.exec .locateTargetReached s =
        .next { s.transportTo { s.trc.endsWith l.endAction with held := none } with clu := c })

/-! ### Sessions (chapters 9 and 10) -/

/-- At rest, a close that began goes on to its end: the directory is told, tuner A released, the timer entry given its outcome,
the session removed and SESSION_CLOSE raised. The entry of a session that reached ACTIVE was served: DONE, or its next
occurrence; without ACTIVE it is missed with ENTRY_MISSED, a reason DONE standing as CLOCK; with the clear note it becomes
EMPTY, its record marked, ENTRY_MISSED not raised (log 74) and the CLEAR TIMER that waited DONE; closed by an SCH unit reset it
is ARMED with the interrupted mark. Then a deferred clock-timed entry is attempted: before its stop it opens its session on
tuner A, and at or after it the occurrence is missed OVERLAP, with ENTRY_MISSED; one interrupted as well keeps its outcome with
that reason (logs 21 and 66). The logs name the model's readings. -/
def Obligations.AtRestACloseEnds : Prop :=
  ∀ (x : Session) (r : EndReason) (s : State), s.asleep = false → s.trc.atRestMark = true → s.trc.state = .stopped →
    s.sch.session = some x → x.state = .closing → x.closeReason = some r → x.source = .air → x.byMains = false →
    s.tun.tunerA.owner = .record → s.trc.held = none → s.trc.rewindDue = false → s.watchesNothing →
    let rested : State := { s with trc := { s.trc with atRestMark := false } }
    let told := closeNotice r rested
    let outcome : TimerOutcome :=
      { lastStart := x.startedAt, lastStop := s.clk.now, reason := if x.startedAt = none ∧ r = .done then .clock else r,
        entryNo := told.2, notIndexed := x.notIndexed, seamUnlocked := x.seamUnlocked, switched := x.switched }
    let plain : Prop := x.clearNote = false ∧ x.byUnitReset = false ∧ s.sch.clears = []
    let nothingDeferred : Prop := ∀ e ∈ s.sch.timers, e.deferred = false
    let closed (timers : List TimerEntry) : State :=
      State.nearEndTested { rested with
        dir := told.1.dir
        tun := (s.untuned .a).tun
        cue := (s.untuned .a).cue
        lpt := { (s.untuned .a).lpt with sessionSource := none }
        sch := { s.sch with session := none, timers := timers }
        clu := { s.clu with sticky := s.clu.sticky ||| Sticky.sessionClose.mask } }
    (plain → nothingDeferred → x.origin = none →
      Sys2Proof.Machine.exec .atRest s = .next (closed s.sch.timers)) ∧
    (∀ k t, plain → nothingDeferred → x.origin = some k → (s.timer k).defn = some t →
      let ended (u : State) : Prop :=
        Sys2Proof.Machine.exec .atRest s =
          .next (if x.startedAt = none then u.withSticky Sticky.entryMissed.mask else u)
      ((∃ d, t.rep = .once d) →
        ended (closed (s.sch.timers.modify k fun e =>
          { e with
            state := if x.startedAt = none then .missed else .done
            deferred := false, interrupted := false, outcome := some outcome }))) ∧
      ((∀ d, t.rep ≠ .once d) →
        ended (closed (s.sch.timers.modify k fun e =>
          { e with
            state := .armed, deferred := false, interrupted := false, outcome := some outcome
            next := t.occurrenceAfter (e.next.getD 0) s.clk.now.seconds })))) ∧
    (∀ k (f : InFlight), nothingDeferred → x.origin = some k → x.clearNote = true → s.sch.clears = [f.id] →
      s.clu.inFlight.find? (fun g => g.id = f.id) = some f →
      let emptied := markRecord (.timer k) (closed (s.sch.timers.modify k fun _ => TimerEntry.empty))
      Sys2Proof.Machine.exec .atRest s =
        .next { emptied with sch := { emptied.sch with clears := [] }, clu := emptied.clu.completed f .done .none }) ∧
    (∀ k, nothingDeferred → x.origin = some k → x.clearNote = false → x.byUnitReset = true → s.sch.clears = [] →
      Sys2Proof.Machine.exec .atRest s =
        .next (closed (s.sch.timers.modify k fun e =>
          { e with state := .armed, interrupted := true, outcome := some outcome }))) ∧
    (∀ (k d : Nat) (e : TimerEntry) (t : TimerDef), plain → x.origin = none → k < 16 →
      s.sch.timers = (List.replicate 16 TimerEntry.empty).set k e → e.state = .armed → e.deferred = true →
      e.defn = some t → e.next = some d → t.label = none → s.clk.status ≠ .unset →
      let freed := closed s.sch.timers
      (∀ date, t.rep = .once date → t.stopOn d * 60 ≤ s.clk.now.seconds →
        let unserved : TimerOutcome :=
          { lastStart := none, lastStop := s.clk.now, reason := .overlap, entryNo := none, notIndexed := false,
            seamUnlocked := false, switched := false }
        let missed : TimerOutcome :=
          match e.interrupted, e.outcome with | true, some o => { o with reason := .overlap } | _, _ => unserved
        Sys2Proof.Machine.exec .atRest s =
          .next ({ freed with sch := { freed.sch with timers := s.sch.timers.modify k fun e =>
            { e with state := .missed, outcome := some missed, deferred := false, interrupted := false } } }.withSticky
              Sticky.entryMissed.mask)) ∧
      (∀ (ch : Channel) (f : Nat) (fine : Int), s.clk.now.seconds < t.stopOn d * 60 → s.channel t.channel = some ch →
        ch.tuning = .air f fine → s.tun.view = none → s.pins.tab = .tabIn → s.trc.endLatch = false →
        ∃ u, Sys2Proof.Machine.exec .atRest s = .next u ∧
          (∃ y, u.sch.session = some y ∧ y.origin = some k ∧ y.channel = t.channel ∧ y.source = .air ∧
            y.occurrence = some (t.startOn d, t.stopOn d) ∧ y.state = .starting ∧ y.startPhase = .source ∧
            y.stopRule = .clock ∧ y.label = none ∧ y.closeReason = none) ∧
          u.sch.timers = s.sch.timers.modify k (fun e => { e with deferred := false }) ∧
          (let tuned := freed.tuned .a .record (some t.channel) f fine (s.lineOf ch)
           u.tun = tuned.tun ∧ u.cue = tuned.cue ∧ u.lpt = tuned.lpt) ∧
          u.trc = rested.trc ∧ u.dir = freed.dir ∧ u.pins = s.pins ∧ u.sto = s.sto ∧ u.clk = s.clk))

/-- At a whole minute the table is evaluated: an armed clock-timed entry, alone in the table, whose occurrence has begun opens
its session on tuner A; without a cassette the occurrence is missed, and so it is, CLOCK, past its stop, with ENTRY_MISSED;
before its start nothing happens. While another session exists the entry is deferred instead. The opening drops a pending
auto-rewind (the model's choice, log 41). -/
def Obligations.AnOccurrenceOpensASession : Prop :=
  ∀ (k d : Nat) (e : TimerEntry) (t : TimerDef) (ch : Channel) (f : Nat) (fine : Int) (s : State), k < 16 →
    s.asleep = false → s.clk.status ≠ .unset → s.clk.now.second = 59 →
    s.clk.now.date ≠ { day := 31, month := 12, year := 99 } →
    s.sch.watch = none → s.sch.timers = (List.replicate 16 TimerEntry.empty).set k e →
    e.state = .armed → e.defn = some t → e.next = some d → e.deferred = false → e.interrupted = false → t.label = none →
    s.channel t.channel = some ch → ch.tuning = .air f fine → s.tun.view = none →
    let now := s.clk.now.secondLater
    let ticked : State := { s with clk := { s.clk with now := now, dow := now.date.dow } }
    let missedFor (reason : EndReason) : State :=
      let outcome : TimerOutcome :=
        { lastStart := none, lastStop := now, reason := reason, entryNo := none, notIndexed := false,
          seamUnlocked := false, switched := false }
      { ticked with sch := { s.sch with timers := s.sch.timers.modify k fun e =>
          { e with
            state := .missed, outcome := some outcome, deferred := false
            interrupted := false } } }.withSticky Sticky.entryMissed.mask
    (∀ x, s.sch.session = some x → x.stopRule = .manual → x.deadline = none → x.origin ≠ some k →
      (now.seconds < t.startOn d * 60 → Sys2Proof.Machine.exec .secondEvent s = .next ticked) ∧
      (t.startOn d * 60 ≤ now.seconds → now.seconds < t.stopOn d * 60 →
        Sys2Proof.Machine.exec .secondEvent s =
          .next { ticked with sch := { s.sch with timers := s.sch.timers.modify k fun e => { e with deferred := true } } })) ∧
    (s.sch.session = none → now.seconds < t.startOn d * 60 → Sys2Proof.Machine.exec .secondEvent s = .next ticked) ∧
    (s.sch.session = none → ∀ date, t.rep = .once date → t.startOn d * 60 ≤ now.seconds →
      t.stopOn d * 60 ≤ now.seconds →
      Sys2Proof.Machine.exec .secondEvent s = .next (missedFor .clock)) ∧
    (s.sch.session = none → t.startOn d * 60 ≤ now.seconds → now.seconds < t.stopOn d * 60 →
      (s.trc.state = .empty → (∃ date, t.rep = .once date) →
        Sys2Proof.Machine.exec .secondEvent s = .next (missedFor .noCassette)) ∧
      (s.trc.state = .stopped → s.pins.tab = .tabIn → s.trc.endLatch = false →
        ∃ u, Sys2Proof.Machine.exec .secondEvent s = .next u ∧ u.clk = ticked.clk ∧
          (∃ x, u.sch.session = some x ∧ x.origin = some k ∧ x.channel = t.channel ∧ x.source = .air ∧
            x.occurrence = some (t.startOn d, t.stopOn d) ∧ x.state = .starting ∧ x.startPhase = .source ∧
            x.stopRule = .clock ∧ x.label = none ∧ x.closeReason = none ∧
            x.currentSpeed = (match t.speed with | .two => .two | .one => .one | .auto => .one)) ∧
          u.sch.timers = s.sch.timers ∧ u.tun = (s.tuned .a .record (some t.channel) f fine (s.lineOf ch)).tun ∧
          u.lpt = (s.tuned .a .record (some t.channel) f fine (s.lineOf ch)).lpt ∧
          u.trc = { s.trc with rewindDue := false } ∧ u.dir = s.dir ∧ u.pins = s.pins ∧ u.sto = s.sto))

/-- A label-controlled entry waits from 15 minutes before its start, with tuner B watching its channel, and is missed LATE 180
minutes after its stop. A cue that matches it with RUN opens its session under LABEL, and any other leaves it waiting. The
session's cues then pause it (HOLD), resume it (RUN), close it DONE (label) (CLEAR, or no match), mark it while it starts, and
bring it from CLOCK to LABEL; a channel left without a cue gets the mark and the loss timer; and at the overrun deadline the
session closes. That a matching HOLD clears the cue-loss mark while the session is STARTING is the model's reading (log 54). -/
def Obligations.LabelsControlTheRecording : Prop :=
  let closes (y : Session) (reason : EndReason) (u : State) : State :=
    { u.transportTo
        { u.trc.stops with
          atRestMark := true, pausePoint := none, markDue := false, heldHalt := false, heldStart := none, heldPause := false
          heldResume := none } with
      sch := { u.sch with session := some { y with state := .closing, closeReason := some reason } } }
  (∀ (k d : Nat) (e : TimerEntry) (t : TimerDef) (ch : Channel) (f : Nat) (fine : Int) (s : State), k < 16 →
    s.asleep = false → s.clk.status ≠ .unset → s.clk.now.second = 59 →
    s.clk.now.date ≠ { day := 31, month := 12, year := 99 } → s.sch.session = none → s.sch.watch = none →
    s.sch.timers = (List.replicate 16 TimerEntry.empty).set k e → e.state = .armed → e.defn = some t → e.next = some d →
    e.deferred = false → e.interrupted = false → t.label.isSome → s.channel t.channel = some ch → ch.tuning = .air f fine →
    s.tun.tunerA.channel ≠ some t.channel → s.cue.a.tuning ≠ some (some t.channel) → s.tun.tunerB.owner = .none →
    let now := s.clk.now.secondLater
    let ticked : State := { s with clk := { s.clk with now := now, dow := now.date.dow } }
    (now.seconds < (t.startOn d - 15) * 60 → now.seconds < (t.stopOn d + 180) * 60 →
      Sys2Proof.Machine.exec .secondEvent s = .next ticked) ∧
    ((t.startOn d - 15) * 60 ≤ now.seconds → now.seconds < t.startOn d * 60 → now.seconds < (t.stopOn d + 180) * 60 →
      Sys2Proof.Machine.exec .secondEvent s =
        .next { ticked.tuned .b .watch (some t.channel) f fine (s.lineOf ch) with
          sch := { s.sch with
            watch := some t.channel
            timers := s.sch.timers.modify k fun e => { e with state := .waiting } } }) ∧
    (∀ date, t.rep = .once date → (t.stopOn d + 180) * 60 ≤ now.seconds →
      let outcome : TimerOutcome :=
        { lastStart := none, lastStop := now, reason := .late, entryNo := none, notIndexed := false, seamUnlocked := false,
          switched := false }
      Sys2Proof.Machine.exec .secondEvent s =
        .next ({ ticked with sch := { s.sch with timers := s.sch.timers.modify k fun e =>
          { e with state := .missed, outcome := some outcome, deferred := false, interrupted := false } } }.withSticky
            Sticky.entryMissed.mask))) ∧
  (∀ (x : TunerId) (line : BitVec 16) (bytes : List (Byte × Bool)) (cue : Cue) (c : Nat) (ch : Channel) (f : Nat)
    (fine : Int) (s : State), s.confirms x line bytes cue → (s.cueRecord x).tuning = some (some c) →
    s.channel c = some ch → ch.tuning = .air f fine → s.tun.search.state ≠ .running →
    let heard := s.cueHeard x line bytes cue
    let gives (u : State) : Prop := Sys2Proof.Machine.exec (.linePacket (streamOf x) line (.data bytes)) s = .next u
    let matched (label : Option Label) : Prop := label.isSome ∧ cue.label = label ∧ ∀ n, ch.network = some n → cue.network = n
    (∀ (k d : Nat) (e : TimerEntry) (t : TimerDef), k < 16 → s.sch.session = none → s.clk.status ≠ .unset →
      s.sch.timers = (List.replicate 16 TimerEntry.empty).set k e → e.state = .waiting → e.defn = some t → e.next = some d →
      t.channel = c →
      (¬ (matched t.label ∧ cue.status = .run) → gives heard) ∧
      (matched t.label → cue.status = .run → s.trc.state = .stopped → s.pins.tab = .tabIn → s.trc.endLatch = false →
        s.tun.view = none → s.sch.watch = some c → s.tun.tunerB.owner = .watch → s.tun.search.state = .idle →
        ∃ u, gives u ∧
          (∃ y, u.sch.session = some y ∧ y.origin = some k ∧ y.channel = c ∧ y.source = .air ∧ y.state = .starting ∧
            y.startPhase = .source ∧ y.occurrence = some (t.startOn d, t.stopOn d) ∧ y.stopRule = .label ∧
            y.label = t.label ∧ y.deadline = some (t.stopOn d + 180) ∧ y.holdPending = false ∧ y.cueLoss = false) ∧
          u.sch.timers = s.sch.timers.modify k (fun e => { e with deferred := false }) ∧
          u.sch.watch = none ∧
          u.tun = ((s.tuned .a .record (some c) f fine (s.lineOf ch)).untuned .b).tun)) ∧
    (∀ y, s.sch.session = some y → y.channel = c → y.label.isSome → s.watchesNothing →
      (∀ k, y.origin = some k → (s.timer k).state ≠ .waiting) → s.trc.held = none →
      let timers (st : EntryState) : List TimerEntry :=
        match y.origin with
        | none => s.sch.timers
        | some k => s.sch.timers.modify k fun e => { e with state := st }
      let told (y' : Session) : State := { heard with sch := { s.sch with session := some y' } }
      let kept : Session := { y with cueLoss := false, lossTimer := none }
      (y.stopRule = .clock → y.state ≠ .closing → ¬ (matched y.label ∧ cue.status ≠ .clear) → gives heard) ∧
      (y.stopRule = .clock → y.state = .active → matched y.label → cue.status = .run →
        gives (told { kept with stopRule := .label })) ∧
      (y.stopRule = .label → y.state = .starting → matched y.label → cue.status ≠ .clear →
        gives (told { kept with holdPending := cue.status = .hold })) ∧
      (y.stopRule = .label → y.state = .active → matched y.label →
        (cue.status = .run → gives (told kept)) ∧
        (cue.status = .hold → s.trc.state = .record → s.trc.heldPause = false →
          gives { heard.transportTo
              { s.trc.restsIn .recordPause .idle with
                pausePoint := some s.tcb.relCounter, pauseTimer := some 300000, heldPause := false, heldResume := none } with
            sch := { s.sch with
              session := some { kept with state := .paused, pauseCause := some .label }
              timers := timers .paused } })) ∧
      (y.stopRule = .label → y.state = .paused → y.pauseCause = some .label → matched y.label →
        (cue.status = .hold → gives (told kept)) ∧
        (cue.status = .run → s.trc.state = .recordPause →
          gives { heard.transportTo
              { s.trc.movesInto .lockup .backspace with
                orderedSpeed := y.currentSpeed, orderedIndex := false, backspaceCount := 0 } with
            sch := { s.sch with
              session := some { kept with state := .active, pauseCause := none }
              timers := timers .recording } })) ∧
      (y.stopRule = .label → y.state = .active ∨ y.state = .paused → ¬ matched y.label ∨ cue.status = .clear →
        s.trc.state = .record ∨ s.trc.state = .recordPause → gives (closes y .doneLabel heard)))) ∧
  (∀ (x : TunerId) (c : Nat) (y : Session) (s : State), s.asleep = false →
    let r := s.cueRecord x
    let lost := setCueRecord x { r with lastCue := none, current := none } s
    125 ≤ r.age → r.tuning = some (some c) → r.current.isSome → s.sch.session = some y → y.channel = c →
    y.stopRule = .label → y.state ≠ .closing →
    (lost.channelCue c = none →
      Sys2Proof.Machine.exec (.cueAgeExpiry x) s =
        .next { lost with sch := { s.sch with
          session := some (if y.cueLoss then y else { y with cueLoss := true, lossTimer := some 300000 }) } }) ∧
    (lost.channelCue c ≠ none → Sys2Proof.Machine.exec (.cueAgeExpiry x) s = .next lost)) ∧
  (∀ (k deadline : Nat) (e : TimerEntry) (y : Session) (s : State), s.asleep = false → s.clk.status ≠ .unset →
    s.clk.now.second = 59 → s.clk.now.date ≠ { day := 31, month := 12, year := 99 } →
    s.sch.timers = (List.replicate 16 TimerEntry.empty).set k e → e.state ≠ .waiting → s.sch.watch = none →
    s.sch.session = some y → y.origin = some k → y.stopRule = .label → y.state = .active → y.cueLoss = false →
    s.channelCue y.channel ≠ none → y.deadline = some deadline → deadline < 36525 * 1440 → s.trc.state = .record →
    s.trc.held = none →
    let now := s.clk.now.secondLater
    let ticked : State := { s with clk := { s.clk with now := now, dow := now.date.dow } }
    (now.seconds < deadline * 60 → Sys2Proof.Machine.exec .secondEvent s = .next ticked) ∧
    (deadline * 60 ≤ now.seconds → Sys2Proof.Machine.exec .secondEvent s = .next (closes y .doneOverrun ticked)))

/-! ### Supply and store (chapter 12) -/

/-- Below its threshold the mains sense takes the part into BACKUP: the motors stop, the tuners, the cues, the outbound fields,
the replies and the commands in flight are lost, a position in motion becomes UNKNOWN, and a write in flight goes back to its
set; at its return the blocks start by the switches, with MAINS_RETURN, or cold when the backup domain was lost. The reset input
does the same with the power state and the search record kept, which BACKUP then loses. A session is closed with reason MAINS,
its entry ARMED and interrupted; at the return the interrupted occurrence opens its session again before its stop, and is served
or missed MAINS after it. The model's choices: the registers of a start (log 4), the reset input in BACKUP (log 25), the
thresholds in millivolts (log 33), COLD_START at any time and the state after BACKUP_SUPPLY_LOST (log 34), the outcome of the
occurrence missed MAINS (log 66). -/
def Obligations.SupplyFailsAndReturns : Prop :=
  ∀ (mv : Nat) (s : State),
    let sensed : State := { s with pins := { s.pins with mainsSense := mv } }
    let low : Prop := mv < 900 + 100 * s.sto.options.mainsLevel
    let dropped (c : Clu) : Clu :=
      { lineCount := 0, pendingLine := none, inFlight := [], ready := [], reserved := [], sticky := c.sticky, nextId := c.nextId }
    let quiet (t : Tcb) : Tcb :=
      { t.closeWindow with
        supplyPeriod := none, takeUpPeriod := none
        staging := { header := none, slots := List.replicate 33 none } }
    let idleDir (d : Dir) : Dir :=
      { d with copies := noFragments, collecting := false, blankTest := none, blankTested := false, writeImage := none }
    let untunedAll (r : Search) (cut : Bool) : Tun :=
      { s.tun with
        tunerA := Tuner.cleared, tunerB := Tuner.cleared, ext := ExtRecord.cleared, staging := none, view := none
        search := r, searchCut := cut }
    let noField : FieldRecord := { presence := .awaiting, header := none, lastLine := none, silence := none }
    let failed (r : Search) (cut : Bool) : State :=
      let t : Trc := if s.trc.state.isThreaded then { s.trc.restsIn .stopped .idle with servoLocked := false }
                     else s.trc.restsIn s.trc.state .idle
      { s with
        trc := { t with
          locate := none, seek := none, pausePoint := none, atRestMark := false, held := none, heldHalt := false
          heldStart := none, heldPause := false, heldResume := none, markDue := false }
        tcb := if s.trc.state.isMotion then { quiet s.tcb with exact := false, pulseSinceExact := false } else quiet s.tcb
        dir := idleDir s.readCut.dir
        lpt := { Lpt.reset with ta := noField, tb := noField, aux := noField, play := noField, ctrl := noField }
        tun := untunedAll r cut
        cue := { a := CueRecord.untuned, b := CueRecord.untuned, ring := [] }
        sch := { s.sch with staging := none, watch := none, settledFigure := none, clears := [] }
        clu := dropped s.clu
        sto := { s.sto with
          reading := none, writing := none
          pendingWrites := match s.sto.writing with
            | none => s.sto.pendingWrites
            | some w => w.1 :: s.sto.pendingWrites.filter (· ≠ w.1) } }
    let closes (x : Session) (t : State) : State :=
      let told := closeNotice .mains s.readCut
      let outcome : TimerOutcome :=
        { lastStart := x.startedAt, lastStop := s.clk.now, reason := .mains, entryNo := told.2, notIndexed := x.notIndexed
          seamUnlocked := x.seamUnlocked, switched := x.switched }
      State.nearEndTested { t with
        dir := idleDir told.1.dir
        sch := { t.sch with
          session := none
          timers := match x.origin with
            | none => s.sch.timers
            | some k => s.sch.timers.modify k fun e =>
                { e with state := .armed, interrupted := true, outcome := some outcome } }
        clu := { t.clu with sticky := s.clu.sticky ||| Sticky.sessionClose.mask } }
    let runs (x : Session) : Prop :=
      s.sch.session = some x ∧ x.state ≠ .closing ∧ x.clearNote = false ∧ ∀ e ∈ s.sch.timers, e.deferred = false
    let started (latch : Bool) (speed : Speed) : Trc :=
      let st : TState := match s.pins.cassette with
        | .slotOpen => .empty
        | .partway => .ejected
        | .home => if s.pins.threaded then (if s.pins.dew then .dewHold else .stopped) else .loading
      { Trc.reset with
        state := st, phase := (if st = .dewHold then .dewUnthread else .idle : Phase), endLatch := latch, speedSetting := speed
        threadingLimit := if st = .loading then some 8000 else none
        unthreadingLimit := if st = .dewHold then some 8000 else none }
    let returned (r : Search) (raised : BitVec 18) : State :=
      { s with
        trc := started s.trc.endLatch s.trc.speedSetting
        tcb := quiet s.tcb
        dir := idleDir s.dir
        lpt := Lpt.reset
        tun := untunedAll r false
        cue := { a := CueRecord.untuned, b := CueRecord.untuned, ring := [] }
        sch := { s.sch with staging := none, watch := none, settledFigure := none, clears := [] }
        clu := { dropped s.clu with sticky := s.clu.sticky ||| raised } }
    let cold (p : Pins) : State :=
      { State.reset with pins := p, trc := started false .one, choices := s.choices, pending := s.pending }
    (¬ low ∨ s.sto.power = .backup → Sys2Proof.Machine.exec (.mainsFailure mv) s = .next sensed) ∧
    (low → s.sto.power ≠ .backup →
      let cut := s.tun.searchCut || decide (s.tun.search.state ≠ .idle)
      let lost : State :=
        { failed Search.reset cut with
          pins := sensed.pins
          sto := { (failed Search.reset cut).sto with heldPower := s.sto.power, power := .backup } }
      (s.sto.resetAsserted = false → s.sch.session = none →
        Sys2Proof.Machine.exec (.mainsFailure mv) s = .next lost) ∧
      (∀ x, s.sto.resetAsserted = false → runs x →
        Sys2Proof.Machine.exec (.mainsFailure mv) s = .next (closes x lost)) ∧
      (s.sto.resetAsserted = true →
        Sys2Proof.Machine.exec (.mainsFailure mv) s =
          .next { sensed with
            tun := { s.tun with search := Search.reset, searchCut := cut }
            sto := { s.sto with heldPower := s.sto.power, power := .backup } })) ∧
    (low ∨ s.sto.power ≠ .backup → Sys2Proof.Machine.exec (.mainsReturn mv) s = .next sensed) ∧
    (¬ low → s.sto.power = .backup → s.sto.resetAsserted = false →
      (s.sto.validity = false → Sys2Proof.Machine.exec (.mainsReturn mv) s = .next (cold sensed.pins)) ∧
      (s.sto.validity = true → s.schedulerIdle → s.sto.writing = none → s.sto.pendingWrites = [] →
        let up (r : Search) (raised : BitVec 18) : State :=
          { returned r raised with pins := sensed.pins, sto := { s.sto with power := s.sto.heldPower } }
        (s.tun.searchCut = false →
          Sys2Proof.Machine.exec (.mainsReturn mv) s = .next (up Search.reset Sticky.mainsReturn.mask)) ∧
        (s.tun.searchCut = true →
          Sys2Proof.Machine.exec (.mainsReturn mv) s =
            .next (up { Search.reset with result := .mains } (Sticky.searchEnd.mask ||| Sticky.mainsReturn.mask)))) ∧
      (∀ (k d : Nat) (e : TimerEntry) (t : TimerDef), s.sto.validity = true → k < 16 → s.sch.session = none →
        s.sch.watch = none → s.sch.timers = (List.replicate 16 TimerEntry.empty).set k e → e.state = .armed →
        e.interrupted = true → e.deferred = false → e.defn = some t → e.next = some d → t.label = none →
        s.clk.status ≠ .unset → s.sto.writing = none → s.sto.pendingWrites = [] → s.tun.searchCut = false →
        s.sto.heldPower ≠ .backup →
        let back : State :=
          { returned Search.reset Sticky.mainsReturn.mask with
            pins := sensed.pins, sto := { s.sto with power := s.sto.heldPower } }
        let ends (st : EntryState) (o : TimerOutcome) : State :=
          { back with sch := { back.sch with timers := s.sch.timers.modify k fun e =>
            { e with state := st, outcome := some o, deferred := false, interrupted := false } } }
        (∀ date o, t.rep = .once date → e.outcome = some o → t.stopOn d * 60 ≤ s.clk.now.seconds →
          (o.lastStart.isSome → Sys2Proof.Machine.exec (.mainsReturn mv) s = .next (ends .done o)) ∧
          (o.lastStart = none →
            Sys2Proof.Machine.exec (.mainsReturn mv) s =
              .next ((ends .missed { o with reason := .mains }).withSticky Sticky.entryMissed.mask))) ∧
        (∀ (ch : Channel) (f : Nat) (fine : Int), s.clk.now.seconds < t.stopOn d * 60 → s.channel t.channel = some ch →
          ch.tuning = .air f fine → s.pins.cassette = .home → s.pins.threaded = true → s.pins.dew = false →
          s.pins.tab = .tabIn → s.trc.endLatch = false →
          ∃ u, Sys2Proof.Machine.exec (.mainsReturn mv) s = .next u ∧
            (∃ y, u.sch.session = some y ∧ y.origin = some k ∧ y.channel = t.channel ∧ y.source = .air ∧
              y.occurrence = some (t.startOn d, t.stopOn d) ∧ y.state = .starting ∧ y.startPhase = .source ∧
              y.stopRule = .clock ∧ y.label = none ∧ y.closeReason = none) ∧
            u.sch.timers = s.sch.timers ∧
            u.tun = (back.tuned .a .record (some t.channel) f fine (s.lineOf ch)).tun ∧
            u.trc = back.trc ∧ u.dir = back.dir ∧ u.pins = sensed.pins ∧ u.clk = s.clk))) ∧
    (s.sto.resetAsserted = true → Sys2Proof.Machine.exec .resetInputAssert s = .next s) ∧
    (s.sto.resetAsserted = false → Sys2Proof.Machine.exec .resetInputRelease s = .next s) ∧
    (s.sto.resetAsserted = false → s.sto.power = .backup →
      Sys2Proof.Machine.exec .resetInputAssert s = .next { s with sto := { s.sto with resetAsserted := true } }) ∧
    (s.sto.resetAsserted = false → s.sto.power ≠ .backup → s.tun.search.state = .idle →
      let t := failed s.tun.search s.tun.searchCut
      let held : State := { t with sto := { t.sto with resetAsserted := true } }
      (s.sch.session = none → Sys2Proof.Machine.exec .resetInputAssert s = .next held) ∧
      (∀ x, runs x → Sys2Proof.Machine.exec .resetInputAssert s = .next (closes x held))) ∧
    (s.sto.resetAsserted = true → s.sto.power = .backup →
      Sys2Proof.Machine.exec .resetInputRelease s = .next { s with sto := { s.sto with resetAsserted := false } }) ∧
    (s.sto.resetAsserted = true → s.sto.power ≠ .backup →
      (s.sto.validity = false → Sys2Proof.Machine.exec .resetInputRelease s = .next (cold s.pins)) ∧
      (s.sto.validity = true → s.schedulerIdle → s.sto.writing = none → s.sto.pendingWrites = [] →
        s.tun.searchCut = false →
        Sys2Proof.Machine.exec .resetInputRelease s =
          .next { returned s.tun.search 0 with sto := { s.sto with resetAsserted := false } })) ∧
    (Sys2Proof.Machine.exec .coldStart s = .next (cold s.pins)) ∧
    (s.sto.power ≠ .backup → Sys2Proof.Machine.exec .backupSupplyLost s = .next s) ∧
    (s.sto.power = .backup →
      Sys2Proof.Machine.exec .backupSupplyLost s =
        .next { cold s.pins with sto :=
          { State.reset.sto with power := .backup, reading := none, resetAsserted := s.sto.resetAsserted } })

/-- What a cold start leaves: the clock UNSET at 01-01-00, a Saturday, 00:00:00; every channel, profile and timer entry
EMPTY; the default IR profile; the directory UNKNOWN, the tuners cleared; no command, reply, event or write; power ON, the
validity mark clear, and the read of the store at its first record. -/
def Obligations.AColdStartLeavesTheseValues : Prop :=
  ∀ (s t : State), Sys2Proof.Machine.exec .coldStart s = .next t →
    t.clk = { now := { date := { day := 1, month := 1, year := 0 }, hour := 0, minute := 0, second := 0 }, dow := 5, phase := 0,
              status := .unset, autoSet := false } ∧
    t.tun.channels = List.replicate 100 none ∧ t.tun.view = none ∧ t.tun.search = Search.reset ∧
    t.tun.tunerA = Tuner.cleared ∧ t.tun.tunerB = Tuner.cleared ∧
    t.tun.irProfile = { carrier := 400, idleHigh := false, durations := [80, 40, 5, 15, 5, 5, 5, 300] } ∧
    t.tcb.profiles = List.replicate 8 { valid := false, code := 0, points := List.replicate 33 0 } ∧
    t.tcb.exact = false ∧ t.tcb.history = [] ∧ t.dir.state = .unknown ∧ t.dir.image = [] ∧ t.dir.dirty = false ∧
    t.sch.timers = List.replicate 16 TimerEntry.empty ∧ t.sch.session = none ∧ t.sch.watch = none ∧
    t.cue.ring = [] ∧ t.clu.ready = [] ∧ t.clu.reserved = [] ∧ t.clu.inFlight = [] ∧ t.clu.sticky = 0 ∧
    t.trc.speedSetting = .one ∧ t.trc.endLatch = false ∧ t.trc.held = none ∧
    t.sto.power = .on ∧ t.sto.pendingWrites = [] ∧ t.sto.writing = none ∧ t.sto.current = .none ∧ t.sto.previous = .none ∧
    t.sto.validity = false ∧ t.sto.reading = some 0 ∧ t.pins = s.pins ∧ t.pending = s.pending

/-- The store: a marked record joins the set of pending writes once, the write in flight ends with its result and the next one
begins with the record's content as it then stands; the cold-start read loads its 126 records one by one, each good one as
its owner's and each bad one as its default, with STORE_CHECK, and ends with the validity mark set. The form of
STORE_READ_DONE and of the store, and that a row with no write in flight or no read under way changes nothing, are the model's
choices (logs 52 and 2). -/
def Obligations.TheStoreIsWrittenAndRead : Prop :=
  (∀ (name : RecordName) (s : State), s.asleep = false → s.starting = false →
    (s.sto.writing.isSome → name ∈ s.sto.pendingWrites → markRecord name s = s) ∧
    (s.sto.writing.isSome → name ∉ s.sto.pendingWrites →
      markRecord name s = { s with sto := { s.sto with pendingWrites := s.sto.pendingWrites ++ [name] } }) ∧
    (s.sto.writing = none → s.sto.pendingWrites = [] →
      markRecord name s = { s with sto := { s.sto with writing := some (name, frameRecord name (recordContent s name)) } })) ∧
  (∀ s : State, s.asleep = false →
    let ended (r : StoreResult) : Sto := { s.sto with previous := s.sto.current, current := r, writing := none }
    (s.sto.writing = none →
      Sys2Proof.Machine.exec .writeDone s = .next s ∧ Sys2Proof.Machine.exec .writeFail s = .next s) ∧
    (s.sto.writing.isSome → s.sto.pendingWrites = [] →
      Sys2Proof.Machine.exec .writeDone s = .next { s with sto := ended .pass } ∧
      Sys2Proof.Machine.exec .writeFail s = .next ({ s with sto := ended .fail }.withSticky Sticky.storeFail.mask)) ∧
    (∀ name rest, s.sto.writing.isSome → s.sto.pendingWrites = name :: rest → s.starting = false →
      let next (r : StoreResult) : State :=
        { s with sto := { ended r with
          pendingWrites := rest
          writing := some (name, frameRecord name (recordContent s name)) } }
      Sys2Proof.Machine.exec .writeDone s = .next (next .pass) ∧
      Sys2Proof.Machine.exec .writeFail s = .next ((next .fail).withSticky Sticky.storeFail.mask)) ∧
    (∀ bytes, s.sto.reading = none → Sys2Proof.Machine.exec (.storeReadDone bytes) s = .next s) ∧
    (∀ (i : Nat) (bytes : Option (List Byte)), s.sto.reading = some i →
      let loaded := loadRecord (recordAt i) bytes s
      (i < 125 →
        Sys2Proof.Machine.exec (.storeReadDone bytes) s =
          .next { loaded with sto := { loaded.sto with reading := some (i + 1) } }) ∧
      (125 ≤ i → loaded.sto.pendingWrites = [] →
        Sys2Proof.Machine.exec (.storeReadDone bytes) s =
          .next { loaded with sto := { loaded.sto with reading := none, validity := true } })) ∧
    (∀ (bytes : Option (List Byte)), (∀ l, bytes = some l → sumBytes l ≠ 0) →
      (∀ i, loadRecord (.channel i) bytes s =
        { s with tun := { s.tun with channels := s.tun.channels.set i none } }.withSticky Sticky.storeCheck.mask) ∧
      (∀ i, loadRecord (.profile i) bytes s =
        { s with tcb := { s.tcb with profiles := s.tcb.profiles.set i Profile.empty } }.withSticky Sticky.storeCheck.mask) ∧
      (∀ i, loadRecord (.timer i) bytes s =
        { s with sch := { s.sch with timers := s.sch.timers.modify i fun _ => TimerEntry.empty } }.withSticky
          Sticky.storeCheck.mask) ∧
      (loadRecord .irProfile bytes s =
        { s with tun := { s.tun with irProfile := IrProfile.default } }.withSticky Sticky.storeCheck.mask) ∧
      (s.tcb.selected = 0 →
        loadRecord .options bytes s =
          { s with
            sto := { s.sto with options := Options.default }
            clk := { s.clk with autoSet := true } }.withSticky Sticky.storeCheck.mask))) ∧
  (recordAt 0 = .options ∧ recordAt 1 = .irProfile ∧ (∀ p, p < 8 → recordAt (2 + p) = .profile p) ∧
    (∀ c, c < 100 → recordAt (10 + c) = .channel c) ∧ ∀ k, k < 16 → recordAt (110 + k) = .timer k)

/-! ### Counts of the tuners, the search, the keys and the cues (chapters 5 to 7 and 10) -/

/-- The counts of the channel search at their ends: STEP and CONFIRM pass on by 5, TRIM folds the AFC offset into the frequency
and begins NAME, NAME adds the channel to the first EMPTY entry, unless its network is known, and goes on by 140; past the
top of the range the search is DONE, without an EMPTY entry FULL. A count short of its end changes nothing (log 2), and a search
that has ended keeps its last frequency, with the count 0 and no network (log 29): the model's readings. -/
def Obligations.TheSearchMeetsItsLimits : Prop :=
  ∀ s : State, s.asleep = false →
    let r := s.tun.search
    let withSearch (x : Search) (u : State) : State := { u with tun := { u.tun with search := x } }
    let raised (n : Nat) (u : State) : State :=
      let x : Search :=
        { u.tun.search with frequency := u.tun.search.frequency + n, phase := .step, count := 0, network := none }
      (withSearch x u).tuned .b .search none x.frequency 0 s.sto.options.defaultCueLine
    let ended (result : SearchResult) : State :=
      ((withSearch { r with state := .idle, result := result, count := 0, network := none } s).untuned .b).withSticky
        Sticky.searchEnd.mask
    let due (p : SearchPhase) (n : Nat) : Prop := r.state = .running ∧ r.phase = p ∧ n ≤ r.count
    (¬ due .step 6 → Sys2Proof.Machine.exec .stepObservationLimit s = .next s) ∧
    (¬ due .confirm 25 → Sys2Proof.Machine.exec .confirmLimit s = .next s) ∧
    (¬ due .trim 40 → Sys2Proof.Machine.exec .trimLimit s = .next s) ∧
    (¬ due .name 100 → Sys2Proof.Machine.exec .nameLimit s = .next s) ∧
    (due .step 6 →
      Sys2Proof.Machine.exec .stepObservationLimit s = .next (if r.frequency ≤ 17195 then raised 5 s else ended .done)) ∧
    (due .confirm 25 →
      Sys2Proof.Machine.exec .confirmLimit s = .next (if r.frequency ≤ 17195 then raised 5 s else ended .done)) ∧
    (due .trim 40 →
      let f : Int := r.frequency + s.tun.tunerB.afc
      let band (g : Int) : Nat := if g ≤ 3399 then 0 else if g ≤ 8999 then 1 else 2
      let folded : State :=
        { s with tun := { s.tun with
            tunerB := { s.tun.tunerB with frequency := some f.toNat, afc := 0 }
            search := { r with frequency := f.toNat, phase := .name, count := 0, network := none } } }
      (900 ≤ f → f ≤ 17200 → s.cue.b.current = none →
        (band f = band r.frequency → Sys2Proof.Machine.exec .trimLimit s = .next folded) ∧
        (band f ≠ band r.frequency → s.settling .b = .none →
          Sys2Proof.Machine.exec .trimLimit s =
            .next { folded with
              tun := { folded.tun with
                tunerB := { folded.tun.tunerB with settle := 8 }
                wordB := some (wordFor f.toNat s.tun.tunerB.fine) }
              lpt := { s.lpt with settlingB := .trim } })) ∧
      (f < 900 ∨ 17200 < f → r.frequency ≤ 17195 → Sys2Proof.Machine.exec .trimLimit s = .next (raised 5 s))) ∧
    (due .name 100 →
      let known : Prop := ∃ n, r.network = some n ∧ ∃ c x, c < s.tun.channels.length ∧ s.channel c = some x ∧ x.network = some n
      (known → r.frequency ≤ 17060 → Sys2Proof.Machine.exec .nameLimit s = .next (raised 140 s)) ∧
      (known → 17060 < r.frequency → Sys2Proof.Machine.exec .nameLimit s = .next (ended .done)) ∧
      (¬ known → (∀ x ∈ s.tun.channels, x ≠ none) → Sys2Proof.Machine.exec .nameLimit s = .next (ended .full)) ∧
      (∀ k, ¬ known → s.tun.channels[k]? = some none → (∀ j, j < k → s.tun.channels[j]? ≠ some none) →
        r.frequency ≤ 17060 →
        let entry : Channel := { tuning := .air r.frequency 0, network := r.network, cueLine := none, skip := false }
        let added := markRecord (.channel k) { s with tun := { s.tun with channels := s.tun.channels.set k (some entry) } }
        Sys2Proof.Machine.exec .nameLimit s =
          .next (raised 140 (withSearch { r with added := r.added + 1 } added))))

/-- A cue not heard for 125 headers is lost; a settle count at 0 ends the settling; a key's end begins the next key, the waiting
list or the session's wait of 2 s; and a source that is ready gives its session the speed and the record start order, held while
the motors brake: a manual session the setting's, a timer session its definition's, and AUTO speed 1 where the settled figure
reaches the frames needed, or there is none, and else speed 2. The loss timer's end closes a label-controlled session once its
stop has passed. The model's readings: a list cut in its last key gives no IR-done, also when it was sent for RECORD (log 45),
and a row whose timer or count is not at its end changes nothing (log 2). -/
def Obligations.CuesKeysAndSourcesRunOut : Prop :=
  ∀ s : State, s.asleep = false →
    let ready (x : Session) (speed : Speed) (auto : Bool) (u : State) : State :=
      let v : State := State.nearEndTested { u with
        lpt := { u.lpt with sessionSource := some x.source }
        sch := { u.sch with
          session := some { x with
            startPhase := .lockup, firstSpeed := some speed, currentSpeed := speed, autoMark := auto, irWait := none } } }
      { v with trc := { v.trc with heldStart := some (speed, true) } }
    let held (x : Session) : Prop :=
      s.sch.session = some x ∧ x.state = .starting ∧ s.pins.endSensor = false ∧
      s.trc.state = .stopped ∧ s.trc.atRestMark = true
    let chooses (x : Session) (speed : Speed) (auto : Bool) : Prop :=
      (x.origin = none ∧ speed = x.currentSpeed ∧ auto = false) ∨
      ∃ k t, x.origin = some k ∧ (s.timer k).defn = some t ∧
        ((t.speed = .one ∧ speed = .one ∧ auto = false) ∨ (t.speed = .two ∧ speed = .two ∧ auto = false) ∨
          (t.speed = .auto ∧ auto = true ∧
            ((s.sch.settledFigure = none ∧ speed = .one) ∨
              ∃ figure start stop, s.sch.settledFigure = some figure ∧ x.occurrence = some (start, stop) ∧
                stop < 36525 * 1440 ∧
                speed = if (stop * 60 - s.clk.now.seconds) * 25 ≤ figure then .one else .two)))
    (∀ x : TunerId,
      let r := s.cueRecord x
      (r.age < 125 ∨ (r.lastCue = none ∧ r.current = none) →
        Sys2Proof.Machine.exec (.cueAgeExpiry x) s = .next s) ∧
      (125 ≤ r.age → r.lastCue ≠ none ∨ r.current ≠ none → s.sch.session = none →
        Sys2Proof.Machine.exec (.cueAgeExpiry x) s =
          .next (setCueRecord x { r with lastCue := none, current := none } s)) ∧
      (s.settling x = .none ∨ (s.tuner x).settle ≠ 0 → Sys2Proof.Machine.exec (.settleCountExpiry x) s = .next s) ∧
      (s.settling x ≠ .none → (s.tuner x).settle = 0 → s.settling x = .trim ∨ (s.tuner x).owner ≠ .record →
        Sys2Proof.Machine.exec (.settleCountExpiry x) s = .next (setSettling x .none s))) ∧
    (∀ x speed auto, s.settling .a = .tune → s.tun.tunerA.settle = 0 → s.tun.tunerA.owner = .record → held x →
      x.startPhase = .source → chooses x speed auto →
      Sys2Proof.Machine.exec (.settleCountExpiry .a) s = .next (ready x speed auto (setSettling .a .none s))) ∧
    (let sends (l : Option IrList) (w : Option (Byte × List Byte × Owner)) : State :=
       { s with tun := { s.tun with ext := { s.tun.ext with sending := l, waiting := w } } }
     let e := s.tun.ext
     (e.sending = none → Sys2Proof.Machine.exec .irKeyComplete s = .next s) ∧
     (∀ l key rest, e.sending = some l → l.cut = false → l.rest = key :: rest →
       Sys2Proof.Machine.exec .irKeyComplete s =
         .next (sends (some { l with key := key, rest := rest, profile := s.tun.irProfile }) e.waiting)) ∧
     (∀ l, e.sending = some l → l.cut = true ∨ (l.rest = [] ∧ l.sentFor ≠ .record) →
       (e.waiting = none → Sys2Proof.Machine.exec .irKeyComplete s = .next (sends none none)) ∧
       (∀ key rest owner, e.waiting = some (key, rest, owner) →
         Sys2Proof.Machine.exec .irKeyComplete s =
           .next (sends (some { key := key, profile := s.tun.irProfile, rest := rest, sentFor := owner, cut := false }) none))) ∧
     (∀ l x, e.sending = some l → l.cut = false → l.rest = [] → l.sentFor = .record → e.waiting = none →
       s.sch.session = some x → x.state = .starting → x.startPhase = .source → x.source = .ext →
       Sys2Proof.Machine.exec .irKeyComplete s =
         .next { sends none none with sch := { s.sch with
           session := some { x with startPhase := .irWait, irWait := some 2000 } } })) ∧
    ((∀ x ∈ s.sch.session, x.irWait = none) → Sys2Proof.Machine.exec .irWaitExpiry s = .next s) ∧
    (∀ x speed auto, held x → x.startPhase = .irWait → x.irWait.isSome → chooses x speed auto →
      Sys2Proof.Machine.exec .irWaitExpiry s = .next (ready x speed auto s)) ∧
    ((∀ x ∈ s.sch.session, x.lossTimer = none) → Sys2Proof.Machine.exec .cueLossTimerExpiry s = .next s) ∧
    (∀ x start stop, s.sch.session = some x → x.lossTimer.isSome → x.occurrence = some (start, stop) →
      stop < 36525 * 1440 →
      (s.clk.now.seconds < stop * 60 →
        Sys2Proof.Machine.exec .cueLossTimerExpiry s =
          .next { s with sch := { s.sch with session := some { x with lossTimer := none } } }) ∧
      (stop * 60 ≤ s.clk.now.seconds → x.stopRule = .label → x.cueLoss = true → x.state = .active →
        s.trc.state = .record → s.trc.held = none →
        Sys2Proof.Machine.exec .cueLossTimerExpiry s =
          .next { s.transportTo
              { s.trc.stops with
                atRestMark := true, pausePoint := none, markDue := false, heldHalt := false, heldStart := none,
                heldPause := false, heldResume := none } with
            sch := { s.sch with
              session := some { x with lossTimer := none, state := .closing, closeReason := some .done } } }))
end

