-- ==== Sys2Proof/Laws/Calendar.lean ====
section
/-! SUPPORT. The calendar's small facts: month lengths, the next day, and that what the clock computes is a date. -/

namespace Sys2Proof.Machine

/-- Every month has at least 28 days. -/
theorem monthLength_pos {y m : Nat} (h1 : 1 ≤ m) (h2 : m ≤ 12) : 28 ≤ monthLength y m := by
  interval_cases m <;> simp [monthLength]
  split <;> omega

/-- The next day of a date is a date. -/
theorem Date.nextDay_valid (d : Date) (h : d.valid = true) : d.nextDay.valid = true := by
  simp only [Date.valid, decide_eq_true_eq] at h ⊢
  unfold Date.nextDay
  split
  · simp; omega
  · split
    · simp only
      have := @monthLength_pos d.year (d.month + 1) (by omega) (by omega)
      omega
    · split <;> (simp [monthLength] <;> omega)

/-- The next second of a date and time is one. -/
theorem DateTime.tick_valid (t : DateTime) (h : t.valid = true) : t.tick.valid = true := by
  simp only [DateTime.valid, timeValid, Bool.and_eq_true, decide_eq_true_eq] at h ⊢
  unfold DateTime.tick
  split
  · simp; exact ⟨h.1, by omega⟩
  · split
    · simp; exact ⟨h.1, by omega⟩
    · split
      · simp; exact ⟨h.1, by omega⟩
      · simp; exact Date.nextDay_valid _ h.1

/-- The walk over the months ends in a month of the year and on one of its days. -/
theorem monthDay_walk (y : Nat) : ∀ (fuel m n : Nat), 1 ≤ m → m + fuel = 13 → fuel ≠ 0 →
    n < ((List.range fuel).map fun i => monthLength y (m + i)).sum →
    1 ≤ (monthDay y fuel m n).1 ∧ (monthDay y fuel m n).1 ≤ 12 ∧ 1 ≤ (monthDay y fuel m n).2 ∧
    (monthDay y fuel m n).2 ≤ monthLength y (monthDay y fuel m n).1
  | 0, m, n, _, _, h, _ => absurd rfl h
  | fuel + 1, m, n, h1, h2, _, h => by
    unfold monthDay
    split
    · simp; omega
    · rename_i hn
      rw [List.range_succ_eq_map] at h
      simp only [List.map_cons, List.map_map, List.sum_cons, Nat.add_zero] at h
      by_cases hf : fuel = 0
      · subst hf; simp at h; omega
      · refine monthDay_walk y fuel (m + 1) _ (by omega) (by omega) hf ?_
        have : ((List.range fuel).map fun i => monthLength y (m + 1 + i)) =
            ((List.range fuel).map ((fun i => monthLength y (m + i)) ∘ Nat.succ)) := by
          apply List.map_congr_left; intro a _; simp [Nat.succ_eq_add_one, Nat.add_assoc, Nat.add_comm 1 a]
        rw [this]; omega

/-- The months of a year have 365 days, or 366 in a leap year. -/
theorem monthLengths_of_year (y : Nat) :
    ((List.range 12).map fun i => monthLength y (1 + i)).sum = if y % 4 = 0 then 366 else 365 := by
  simp [List.range_succ, monthLength, isLeap]; split <;> rfl

/-- The date of a day number is a date. -/
theorem dateOfDay_valid (n : Nat) : (dateOfDay n).valid = true := by
  have key : ∀ y k, k < (if y % 4 = 0 then 366 else 365) → y ≤ 99 →
      ({ day := (monthDay y 12 1 k).2, month := (monthDay y 12 1 k).1, year := y } : Date).valid = true := by
    intro y k hk hy
    have := monthDay_walk y 12 1 k (by omega) (by omega) (by omega) (by rw [monthLengths_of_year]; exact hk)
    simp only [Date.valid, decide_eq_true_eq]; omega
  unfold dateOfDay
  dsimp only
  split
  · apply key
    · rw [if_pos (by omega)]; assumption
    · omega
  · apply key
    · have : (4 * (n % 36525 / 1461) + 1 + (n % 36525 % 1461 - 366) / 365) % 4 ≠ 0 := by omega
      rw [if_neg this]; omega
    · omega

/-- The local time of a valid TIME decode is a date and time. -/
theorem localTime_valid (t : TimeDecode) (ht : t.at_.valid = true) (u : DateTime) (h : localTime t = some u) :
    u.valid = true := by
  unfold localTime at h
  dsimp only at h
  split at h
  · cases h
  · cases h
    simp only [DateTime.valid, timeValid, Bool.and_eq_true, decide_eq_true_eq] at ht ⊢
    refine ⟨dateOfDay_valid _, ?_, ?_, ?_⟩ <;> omega

/-- The days before the next month are those before this one and its own. -/
theorem daysBeforeMonth_succ (y m : Nat) (h : 1 ≤ m) : daysBeforeMonth y (m + 1) = daysBeforeMonth y m + monthLength y m := by
  obtain ⟨k, rfl⟩ := Nat.exists_eq_add_of_le' h
  simp [daysBeforeMonth, List.range_succ]

/-- The walk over the months finds the month and the day it was counted from. -/
theorem monthDay_days (y e : Nat) : ∀ (j fuel m : Nat), j < fuel → e < monthLength y (m + j) →
    monthDay y fuel m (((List.range j).map fun i => monthLength y (m + i)).sum + e) = (m + j, e + 1)
  | 0, fuel + 1, m, _, h => by
    have h' : e < monthLength y m := h
    simp [monthDay, h']
  | j + 1, fuel + 1, m, hj, h => by
    have hm : m + (j + 1) = m + 1 + j := by omega
    rw [hm] at h ⊢
    have ih := monthDay_days y e j fuel (m + 1) (by omega) h
    rw [List.range_succ_eq_map]
    simp only [List.map_cons, List.map_map, List.sum_cons, Nat.add_zero]
    have hc : ((fun i => monthLength y (m + i)) ∘ Nat.succ) = fun i => monthLength y (m + 1 + i) := by
      funext i; simp [Nat.succ_eq_add_one, Nat.add_assoc, Nat.add_comm 1 i]
    rw [hc, monthDay, if_neg (by omega), Nat.add_assoc, Nat.add_sub_cancel_left]
    exact ih

/-- The days of a year before a month, with a day of that month, are fewer than the days of the year. -/
theorem daysBeforeMonth_lt {y m e : Nat} (h1 : 1 ≤ m) (h2 : m ≤ 12) (h3 : e < monthLength y m) :
    daysBeforeMonth y m + e < if y % 4 = 0 then 366 else 365 := by
  interval_cases m <;> simp [daysBeforeMonth, List.range_succ, monthLength, isLeap] at h3 ⊢ <;> split_ifs at h3 ⊢ <;> omega

/-- Every date lies within the days of the calendar. -/
theorem Date.dayNumber_lt {d : Date} (h : d.valid = true) : d.dayNumber < calendarDays := by
  simp only [Date.valid, decide_eq_true_eq] at h
  obtain ⟨h1, h2, h3, h4, h5⟩ := h
  have hlt := daysBeforeMonth_lt (y := d.year) (e := d.day - 1) h1 h2 (by omega)
  simp only [Date.dayNumber, calendarDays]
  split at hlt <;> omega

/-- A date is the date of its day number. -/
theorem dateOfDay_dayNumber {d : Date} (h : d.valid = true) : dateOfDay d.dayNumber = d := by
  simp only [Date.valid, decide_eq_true_eq] at h
  obtain ⟨h1, h2, h3, h4, h5⟩ := h
  have hlt := daysBeforeMonth_lt (y := d.year) (e := d.day - 1) h1 h2 (by omega)
  have hwalk : monthDay d.year 12 1 (daysBeforeMonth d.year d.month + (d.day - 1)) = (d.month, d.day) := by
    have := monthDay_days d.year (d.day - 1) (d.month - 1) 12 1 (by omega)
      (by rw [Nat.add_sub_cancel' h1]; omega)
    rw [Nat.add_sub_cancel' h1, Nat.sub_add_cancel h4] at this
    rw [← this]
    congr 2
    unfold daysBeforeMonth
    congr 2
    funext i
    rw [Nat.add_comm]
  generalize hw : daysBeforeMonth d.year d.month + (d.day - 1) = w at hlt hwalk
  have hn : d.dayNumber = 365 * d.year + (d.year + 3) / 4 + w := by unfold Date.dayNumber; omega
  unfold dateOfDay
  rw [hn]
  have key : ∀ k, k = (365 * d.year + (d.year + 3) / 4 + w) % 36525 →
      (if k % 1461 < 366 then 4 * (k / 1461) else 4 * (k / 1461) + 1 + (k % 1461 - 366) / 365) = d.year ∧
      (if k % 1461 < 366 then k % 1461 else (k % 1461 - 366) % 365) = w := by
    intro k hk
    obtain ⟨q, j, hq, hj⟩ : ∃ q j, d.year = 4 * q + j ∧ j < 4 := ⟨d.year / 4, d.year % 4, by omega, by omega⟩
    have hk' : k = 365 * d.year + (d.year + 3) / 4 + w := by split at hlt <;> omega
    rw [hq] at hk' hlt ⊢
    have hj' : j = 0 ∨ j = 1 ∨ j = 2 ∨ j = 3 := by omega
    rcases hj' with rfl | rfl | rfl | rfl <;> split at hlt <;> (constructor <;> split <;> omega)
  obtain ⟨k1, k2⟩ := key _ rfl
  dsimp only
  rw [k1, k2, hwalk]

/-- The next day's number is one more, but for the calendar's last day. -/
theorem Date.nextDay_dayNumber (d : Date) (h : d.valid = true) (hl : d ≠ { day := 31, month := 12, year := 99 }) :
    d.nextDay.dayNumber = d.dayNumber + 1 := by
  simp only [Date.valid, decide_eq_true_eq] at h
  unfold Date.nextDay
  split
  · simp only [Date.dayNumber]; omega
  · split
    · simp only [Date.dayNumber, daysBeforeMonth_succ d.year d.month h.1]; omega
    · have hm : d.month = 12 := by omega
      split
      · simp only [Date.dayNumber, hm]
        have h1 : daysBeforeMonth d.year 12 = if d.year % 4 = 0 then 335 else 334 := by
          simp [daysBeforeMonth, List.range_succ, monthLength, isLeap]; split <;> rfl
        have h2 : daysBeforeMonth (d.year + 1) 1 = 0 := rfl
        have h3 : monthLength d.year d.month = 31 := by rw [hm]; rfl
        rw [h1, h2]
        split <;> omega
      · exfalso
        apply hl
        have h3 : monthLength d.year d.month = 31 := by rw [hm]; rfl
        obtain ⟨a, b, c⟩ := d
        simp only at *
        have : a = 31 := by omega
        have : c = 99 := by omega
        simp [*]

/-! ### Occurrences -/

/-- Where no date has been left behind by the wrap, the first of sixteen days is the first day from `d` on that matches with
its stop after now, so long as one of them does. -/
theorem TimerDef.firstFrom_first (t : TimerDef) (d now : Nat) (hd : d + 15 < calendarDays ∨ 18263 * 86400 ≤ now)
    (hex : ∃ e, d ≤ e ∧ e < d + 16 ∧ t.rep.matchesDay e = true ∧ now < t.stopOn e * 60) :
    ∃ x, t.firstFrom d now = some x ∧ d ≤ x ∧ t.rep.matchesDay x = true ∧ now < t.stopOn x * 60 ∧
      ∀ e, d ≤ e → e < x → t.rep.matchesDay e = true → t.stopOn e * 60 ≤ now := by
  unfold TimerDef.firstFrom
  have hds : (List.range 16).map (fun i => daySeen now (d + i)) = (List.range 16).map (d + ·) := by
    apply List.map_congr_left
    intro i hi
    have := List.mem_range.1 hi
    unfold daySeen
    rw [if_neg]
    rintro ⟨h1, h2⟩
    simp [inFirstHalf] at h2
    simp only [calendarDays] at hd h1
    omega
  rw [hds]
  cases h : ((List.range 16).map (d + ·)).find? (fun e => t.rep.matchesDay e && decide (now < t.stopOn e * 60)) with
  | none =>
    exfalso
    rw [List.find?_eq_none] at h
    obtain ⟨e, h1, h2, h3, h4⟩ := hex
    have := h e (by simp only [List.mem_map, List.mem_range]; exact ⟨e - d, by omega, by omega⟩)
    simp [h3, h4] at this
  | some x =>
    rw [List.find?_eq_some_iff_getElem] at h
    obtain ⟨hp, i, hi, hx, hj⟩ := h
    simp only [Bool.and_eq_true, decide_eq_true_eq] at hp
    simp only [List.getElem_map, List.getElem_range] at hx
    refine ⟨x, rfl, by omega, hp.1, hp.2, fun e h1 h2 h3 => ?_⟩
    have := hj (e - d) (by omega)
    simp only [List.getElem_map, List.getElem_range, show d + (e - d) = e from by omega, h3] at this
    simpa using this

end Sys2Proof.Machine
end

