-- ==== Sys2Proof/Laws/State.lean ====
section
/-! SUPPORT. Every field of the state after every update of one block: true by rfl, so that no later proof unfolds a
record update. -/

namespace Sys2Proof.Machine

variable (s : State)

/-! ### setPins -/

@[simp] theorem State.setPins_pins (x : Pins) : (s.setPins x).pins = x := rfl
@[simp] theorem State.setPins_trc (x : Pins) : (s.setPins x).trc = s.trc := rfl
@[simp] theorem State.setPins_tcb (x : Pins) : (s.setPins x).tcb = s.tcb := rfl
@[simp] theorem State.setPins_dir (x : Pins) : (s.setPins x).dir = s.dir := rfl
@[simp] theorem State.setPins_lpt (x : Pins) : (s.setPins x).lpt = s.lpt := rfl
@[simp] theorem State.setPins_tun (x : Pins) : (s.setPins x).tun = s.tun := rfl
@[simp] theorem State.setPins_cue (x : Pins) : (s.setPins x).cue = s.cue := rfl
@[simp] theorem State.setPins_clk (x : Pins) : (s.setPins x).clk = s.clk := rfl
@[simp] theorem State.setPins_sch (x : Pins) : (s.setPins x).sch = s.sch := rfl
@[simp] theorem State.setPins_clu (x : Pins) : (s.setPins x).clu = s.clu := rfl
@[simp] theorem State.setPins_sto (x : Pins) : (s.setPins x).sto = s.sto := rfl
@[simp] theorem State.setPins_choices (x : Pins) : (s.setPins x).choices = s.choices := rfl
@[simp] theorem State.setPins_pending (x : Pins) : (s.setPins x).pending = s.pending := rfl
@[simp] theorem State.setPins_twice (x y : Pins) : (s.setPins x).setPins y = s.setPins y := rfl
@[simp] theorem State.setPins_same : s.setPins s.pins = s := rfl

/-! ### setTrc -/

@[simp] theorem State.setTrc_pins (x : Trc) : (s.setTrc x).pins = s.pins := rfl
@[simp] theorem State.setTrc_trc (x : Trc) : (s.setTrc x).trc = x := rfl
@[simp] theorem State.setTrc_tcb (x : Trc) : (s.setTrc x).tcb = s.tcb := rfl
@[simp] theorem State.setTrc_dir (x : Trc) : (s.setTrc x).dir = s.dir := rfl
@[simp] theorem State.setTrc_lpt (x : Trc) : (s.setTrc x).lpt = s.lpt := rfl
@[simp] theorem State.setTrc_tun (x : Trc) : (s.setTrc x).tun = s.tun := rfl
@[simp] theorem State.setTrc_cue (x : Trc) : (s.setTrc x).cue = s.cue := rfl
@[simp] theorem State.setTrc_clk (x : Trc) : (s.setTrc x).clk = s.clk := rfl
@[simp] theorem State.setTrc_sch (x : Trc) : (s.setTrc x).sch = s.sch := rfl
@[simp] theorem State.setTrc_clu (x : Trc) : (s.setTrc x).clu = s.clu := rfl
@[simp] theorem State.setTrc_sto (x : Trc) : (s.setTrc x).sto = s.sto := rfl
@[simp] theorem State.setTrc_choices (x : Trc) : (s.setTrc x).choices = s.choices := rfl
@[simp] theorem State.setTrc_pending (x : Trc) : (s.setTrc x).pending = s.pending := rfl
@[simp] theorem State.setTrc_twice (x y : Trc) : (s.setTrc x).setTrc y = s.setTrc y := rfl
@[simp] theorem State.setTrc_same : s.setTrc s.trc = s := rfl

/-! ### setTcb -/

@[simp] theorem State.setTcb_pins (x : Tcb) : (s.setTcb x).pins = s.pins := rfl
@[simp] theorem State.setTcb_trc (x : Tcb) : (s.setTcb x).trc = s.trc := rfl
@[simp] theorem State.setTcb_tcb (x : Tcb) : (s.setTcb x).tcb = x := rfl
@[simp] theorem State.setTcb_dir (x : Tcb) : (s.setTcb x).dir = s.dir := rfl
@[simp] theorem State.setTcb_lpt (x : Tcb) : (s.setTcb x).lpt = s.lpt := rfl
@[simp] theorem State.setTcb_tun (x : Tcb) : (s.setTcb x).tun = s.tun := rfl
@[simp] theorem State.setTcb_cue (x : Tcb) : (s.setTcb x).cue = s.cue := rfl
@[simp] theorem State.setTcb_clk (x : Tcb) : (s.setTcb x).clk = s.clk := rfl
@[simp] theorem State.setTcb_sch (x : Tcb) : (s.setTcb x).sch = s.sch := rfl
@[simp] theorem State.setTcb_clu (x : Tcb) : (s.setTcb x).clu = s.clu := rfl
@[simp] theorem State.setTcb_sto (x : Tcb) : (s.setTcb x).sto = s.sto := rfl
@[simp] theorem State.setTcb_choices (x : Tcb) : (s.setTcb x).choices = s.choices := rfl
@[simp] theorem State.setTcb_pending (x : Tcb) : (s.setTcb x).pending = s.pending := rfl
@[simp] theorem State.setTcb_twice (x y : Tcb) : (s.setTcb x).setTcb y = s.setTcb y := rfl
@[simp] theorem State.setTcb_same : s.setTcb s.tcb = s := rfl

/-! ### setDir -/

@[simp] theorem State.setDir_pins (x : Dir) : (s.setDir x).pins = s.pins := rfl
@[simp] theorem State.setDir_trc (x : Dir) : (s.setDir x).trc = s.trc := rfl
@[simp] theorem State.setDir_tcb (x : Dir) : (s.setDir x).tcb = s.tcb := rfl
@[simp] theorem State.setDir_dir (x : Dir) : (s.setDir x).dir = x := rfl
@[simp] theorem State.setDir_lpt (x : Dir) : (s.setDir x).lpt = s.lpt := rfl
@[simp] theorem State.setDir_tun (x : Dir) : (s.setDir x).tun = s.tun := rfl
@[simp] theorem State.setDir_cue (x : Dir) : (s.setDir x).cue = s.cue := rfl
@[simp] theorem State.setDir_clk (x : Dir) : (s.setDir x).clk = s.clk := rfl
@[simp] theorem State.setDir_sch (x : Dir) : (s.setDir x).sch = s.sch := rfl
@[simp] theorem State.setDir_clu (x : Dir) : (s.setDir x).clu = s.clu := rfl
@[simp] theorem State.setDir_sto (x : Dir) : (s.setDir x).sto = s.sto := rfl
@[simp] theorem State.setDir_choices (x : Dir) : (s.setDir x).choices = s.choices := rfl
@[simp] theorem State.setDir_pending (x : Dir) : (s.setDir x).pending = s.pending := rfl
@[simp] theorem State.setDir_twice (x y : Dir) : (s.setDir x).setDir y = s.setDir y := rfl
@[simp] theorem State.setDir_same : s.setDir s.dir = s := rfl

/-! ### setLpt -/

@[simp] theorem State.setLpt_pins (x : Lpt) : (s.setLpt x).pins = s.pins := rfl
@[simp] theorem State.setLpt_trc (x : Lpt) : (s.setLpt x).trc = s.trc := rfl
@[simp] theorem State.setLpt_tcb (x : Lpt) : (s.setLpt x).tcb = s.tcb := rfl
@[simp] theorem State.setLpt_dir (x : Lpt) : (s.setLpt x).dir = s.dir := rfl
@[simp] theorem State.setLpt_lpt (x : Lpt) : (s.setLpt x).lpt = x := rfl
@[simp] theorem State.setLpt_tun (x : Lpt) : (s.setLpt x).tun = s.tun := rfl
@[simp] theorem State.setLpt_cue (x : Lpt) : (s.setLpt x).cue = s.cue := rfl
@[simp] theorem State.setLpt_clk (x : Lpt) : (s.setLpt x).clk = s.clk := rfl
@[simp] theorem State.setLpt_sch (x : Lpt) : (s.setLpt x).sch = s.sch := rfl
@[simp] theorem State.setLpt_clu (x : Lpt) : (s.setLpt x).clu = s.clu := rfl
@[simp] theorem State.setLpt_sto (x : Lpt) : (s.setLpt x).sto = s.sto := rfl
@[simp] theorem State.setLpt_choices (x : Lpt) : (s.setLpt x).choices = s.choices := rfl
@[simp] theorem State.setLpt_pending (x : Lpt) : (s.setLpt x).pending = s.pending := rfl
@[simp] theorem State.setLpt_twice (x y : Lpt) : (s.setLpt x).setLpt y = s.setLpt y := rfl
@[simp] theorem State.setLpt_same : s.setLpt s.lpt = s := rfl

/-! ### setTun -/

@[simp] theorem State.setTun_pins (x : Tun) : (s.setTun x).pins = s.pins := rfl
@[simp] theorem State.setTun_trc (x : Tun) : (s.setTun x).trc = s.trc := rfl
@[simp] theorem State.setTun_tcb (x : Tun) : (s.setTun x).tcb = s.tcb := rfl
@[simp] theorem State.setTun_dir (x : Tun) : (s.setTun x).dir = s.dir := rfl
@[simp] theorem State.setTun_lpt (x : Tun) : (s.setTun x).lpt = s.lpt := rfl
@[simp] theorem State.setTun_tun (x : Tun) : (s.setTun x).tun = x := rfl
@[simp] theorem State.setTun_cue (x : Tun) : (s.setTun x).cue = s.cue := rfl
@[simp] theorem State.setTun_clk (x : Tun) : (s.setTun x).clk = s.clk := rfl
@[simp] theorem State.setTun_sch (x : Tun) : (s.setTun x).sch = s.sch := rfl
@[simp] theorem State.setTun_clu (x : Tun) : (s.setTun x).clu = s.clu := rfl
@[simp] theorem State.setTun_sto (x : Tun) : (s.setTun x).sto = s.sto := rfl
@[simp] theorem State.setTun_choices (x : Tun) : (s.setTun x).choices = s.choices := rfl
@[simp] theorem State.setTun_pending (x : Tun) : (s.setTun x).pending = s.pending := rfl
@[simp] theorem State.setTun_twice (x y : Tun) : (s.setTun x).setTun y = s.setTun y := rfl
@[simp] theorem State.setTun_same : s.setTun s.tun = s := rfl

/-! ### setCue -/

@[simp] theorem State.setCue_pins (x : CueBlock) : (s.setCue x).pins = s.pins := rfl
@[simp] theorem State.setCue_trc (x : CueBlock) : (s.setCue x).trc = s.trc := rfl
@[simp] theorem State.setCue_tcb (x : CueBlock) : (s.setCue x).tcb = s.tcb := rfl
@[simp] theorem State.setCue_dir (x : CueBlock) : (s.setCue x).dir = s.dir := rfl
@[simp] theorem State.setCue_lpt (x : CueBlock) : (s.setCue x).lpt = s.lpt := rfl
@[simp] theorem State.setCue_tun (x : CueBlock) : (s.setCue x).tun = s.tun := rfl
@[simp] theorem State.setCue_cue (x : CueBlock) : (s.setCue x).cue = x := rfl
@[simp] theorem State.setCue_clk (x : CueBlock) : (s.setCue x).clk = s.clk := rfl
@[simp] theorem State.setCue_sch (x : CueBlock) : (s.setCue x).sch = s.sch := rfl
@[simp] theorem State.setCue_clu (x : CueBlock) : (s.setCue x).clu = s.clu := rfl
@[simp] theorem State.setCue_sto (x : CueBlock) : (s.setCue x).sto = s.sto := rfl
@[simp] theorem State.setCue_choices (x : CueBlock) : (s.setCue x).choices = s.choices := rfl
@[simp] theorem State.setCue_pending (x : CueBlock) : (s.setCue x).pending = s.pending := rfl
@[simp] theorem State.setCue_twice (x y : CueBlock) : (s.setCue x).setCue y = s.setCue y := rfl
@[simp] theorem State.setCue_same : s.setCue s.cue = s := rfl

/-! ### setClk -/

@[simp] theorem State.setClk_pins (x : Clk) : (s.setClk x).pins = s.pins := rfl
@[simp] theorem State.setClk_trc (x : Clk) : (s.setClk x).trc = s.trc := rfl
@[simp] theorem State.setClk_tcb (x : Clk) : (s.setClk x).tcb = s.tcb := rfl
@[simp] theorem State.setClk_dir (x : Clk) : (s.setClk x).dir = s.dir := rfl
@[simp] theorem State.setClk_lpt (x : Clk) : (s.setClk x).lpt = s.lpt := rfl
@[simp] theorem State.setClk_tun (x : Clk) : (s.setClk x).tun = s.tun := rfl
@[simp] theorem State.setClk_cue (x : Clk) : (s.setClk x).cue = s.cue := rfl
@[simp] theorem State.setClk_clk (x : Clk) : (s.setClk x).clk = x := rfl
@[simp] theorem State.setClk_sch (x : Clk) : (s.setClk x).sch = s.sch := rfl
@[simp] theorem State.setClk_clu (x : Clk) : (s.setClk x).clu = s.clu := rfl
@[simp] theorem State.setClk_sto (x : Clk) : (s.setClk x).sto = s.sto := rfl
@[simp] theorem State.setClk_choices (x : Clk) : (s.setClk x).choices = s.choices := rfl
@[simp] theorem State.setClk_pending (x : Clk) : (s.setClk x).pending = s.pending := rfl
@[simp] theorem State.setClk_twice (x y : Clk) : (s.setClk x).setClk y = s.setClk y := rfl
@[simp] theorem State.setClk_same : s.setClk s.clk = s := rfl

/-! ### setSch -/

@[simp] theorem State.setSch_pins (x : Sch) : (s.setSch x).pins = s.pins := rfl
@[simp] theorem State.setSch_trc (x : Sch) : (s.setSch x).trc = s.trc := rfl
@[simp] theorem State.setSch_tcb (x : Sch) : (s.setSch x).tcb = s.tcb := rfl
@[simp] theorem State.setSch_dir (x : Sch) : (s.setSch x).dir = s.dir := rfl
@[simp] theorem State.setSch_lpt (x : Sch) : (s.setSch x).lpt = s.lpt := rfl
@[simp] theorem State.setSch_tun (x : Sch) : (s.setSch x).tun = s.tun := rfl
@[simp] theorem State.setSch_cue (x : Sch) : (s.setSch x).cue = s.cue := rfl
@[simp] theorem State.setSch_clk (x : Sch) : (s.setSch x).clk = s.clk := rfl
@[simp] theorem State.setSch_sch (x : Sch) : (s.setSch x).sch = x := rfl
@[simp] theorem State.setSch_clu (x : Sch) : (s.setSch x).clu = s.clu := rfl
@[simp] theorem State.setSch_sto (x : Sch) : (s.setSch x).sto = s.sto := rfl
@[simp] theorem State.setSch_choices (x : Sch) : (s.setSch x).choices = s.choices := rfl
@[simp] theorem State.setSch_pending (x : Sch) : (s.setSch x).pending = s.pending := rfl
@[simp] theorem State.setSch_twice (x y : Sch) : (s.setSch x).setSch y = s.setSch y := rfl
@[simp] theorem State.setSch_same : s.setSch s.sch = s := rfl

/-! ### setClu -/

@[simp] theorem State.setClu_pins (x : Clu) : (s.setClu x).pins = s.pins := rfl
@[simp] theorem State.setClu_trc (x : Clu) : (s.setClu x).trc = s.trc := rfl
@[simp] theorem State.setClu_tcb (x : Clu) : (s.setClu x).tcb = s.tcb := rfl
@[simp] theorem State.setClu_dir (x : Clu) : (s.setClu x).dir = s.dir := rfl
@[simp] theorem State.setClu_lpt (x : Clu) : (s.setClu x).lpt = s.lpt := rfl
@[simp] theorem State.setClu_tun (x : Clu) : (s.setClu x).tun = s.tun := rfl
@[simp] theorem State.setClu_cue (x : Clu) : (s.setClu x).cue = s.cue := rfl
@[simp] theorem State.setClu_clk (x : Clu) : (s.setClu x).clk = s.clk := rfl
@[simp] theorem State.setClu_sch (x : Clu) : (s.setClu x).sch = s.sch := rfl
@[simp] theorem State.setClu_clu (x : Clu) : (s.setClu x).clu = x := rfl
@[simp] theorem State.setClu_sto (x : Clu) : (s.setClu x).sto = s.sto := rfl
@[simp] theorem State.setClu_choices (x : Clu) : (s.setClu x).choices = s.choices := rfl
@[simp] theorem State.setClu_pending (x : Clu) : (s.setClu x).pending = s.pending := rfl
@[simp] theorem State.setClu_twice (x y : Clu) : (s.setClu x).setClu y = s.setClu y := rfl
@[simp] theorem State.setClu_same : s.setClu s.clu = s := rfl

/-! ### setSto -/

@[simp] theorem State.setSto_pins (x : Sto) : (s.setSto x).pins = s.pins := rfl
@[simp] theorem State.setSto_trc (x : Sto) : (s.setSto x).trc = s.trc := rfl
@[simp] theorem State.setSto_tcb (x : Sto) : (s.setSto x).tcb = s.tcb := rfl
@[simp] theorem State.setSto_dir (x : Sto) : (s.setSto x).dir = s.dir := rfl
@[simp] theorem State.setSto_lpt (x : Sto) : (s.setSto x).lpt = s.lpt := rfl
@[simp] theorem State.setSto_tun (x : Sto) : (s.setSto x).tun = s.tun := rfl
@[simp] theorem State.setSto_cue (x : Sto) : (s.setSto x).cue = s.cue := rfl
@[simp] theorem State.setSto_clk (x : Sto) : (s.setSto x).clk = s.clk := rfl
@[simp] theorem State.setSto_sch (x : Sto) : (s.setSto x).sch = s.sch := rfl
@[simp] theorem State.setSto_clu (x : Sto) : (s.setSto x).clu = s.clu := rfl
@[simp] theorem State.setSto_sto (x : Sto) : (s.setSto x).sto = x := rfl
@[simp] theorem State.setSto_choices (x : Sto) : (s.setSto x).choices = s.choices := rfl
@[simp] theorem State.setSto_pending (x : Sto) : (s.setSto x).pending = s.pending := rfl
@[simp] theorem State.setSto_twice (x y : Sto) : (s.setSto x).setSto y = s.setSto y := rfl
@[simp] theorem State.setSto_same : s.setSto s.sto = s := rfl

/-! ### choose -/

@[simp] theorem State.choose_pins : s.choose.pins = s.pins := rfl
@[simp] theorem State.choose_trc : s.choose.trc = s.trc := rfl
@[simp] theorem State.choose_tcb : s.choose.tcb = s.tcb := rfl
@[simp] theorem State.choose_dir : s.choose.dir = s.dir := rfl
@[simp] theorem State.choose_lpt : s.choose.lpt = s.lpt := rfl
@[simp] theorem State.choose_tun : s.choose.tun = s.tun := rfl
@[simp] theorem State.choose_cue : s.choose.cue = s.cue := rfl
@[simp] theorem State.choose_clk : s.choose.clk = s.clk := rfl
@[simp] theorem State.choose_sch : s.choose.sch = s.sch := rfl
@[simp] theorem State.choose_clu : s.choose.clu = s.clu := rfl
@[simp] theorem State.choose_sto : s.choose.sto = s.sto := rfl
@[simp] theorem State.choose_pending : s.choose.pending = s.pending := rfl
@[simp] theorem State.choose_choices : s.choose.choices = s.choices + 1 := rfl

end Sys2Proof.Machine
end

