-- ==== Sys2Proof/Laws/ControlPath.lean ====
section
/-! SUPPORT. What taking, answering, holding and completing a command do to the control line unit: one lemma each, so that a
proof about a command never unfolds the reply places. -/

namespace Sys2Proof.Machine

/-- A state is its blocks: two states with equal control line units and equal other blocks are equal. -/
theorem State.setClu_eq (s : State) (c : Clu) : s.setClu c = { s with clu := c } := rfl

/-- The control line unit after a command was taken: its serial number given out and its place reserved. -/
def Clu.taken (c : Clu) (tag : Byte) : Clu :=
  { c with nextId := c.nextId + 1, reserved := if tag = 0 then c.reserved else c.reserved ++ [c.nextId] }

/-- The command that `takeCommand` hands to its owner. -/
def Clu.cmd (c : Clu) (tag : Byte) (code : Nat) (args : List Byte) : Cmd :=
  { id := c.nextId, tag := tag, code := code, args := args }

/-- A command that the part takes reaches its owner with a place reserved. -/
theorem takeCommand_takes {s : State} {tag : Byte} (h : s.takes tag) (code : Nat) (args : List Byte)
    (op : Cmd → State → State) :
    takeCommand tag code args op s = op (s.clu.cmd tag code args) { s with clu := s.clu.taken tag } := by
  obtain ⟨_, ha, hp⟩ := h
  by_cases ht : tag = 0
  · simp [takeCommand, ha, ht, Clu.taken, Clu.cmd, State.setClu]
  · have hf : s.clu.freePlaces ≠ 0 := hp.resolve_left ht
    have hb : ¬ tag = 0#8 := ht
    simp [takeCommand, ha, hb, hf, Clu.taken, Clu.cmd, State.setClu]

/-- While the part is asleep it takes nothing. -/
theorem takeCommand_asleep {s : State} (h : s.asleep = true) (tag : Byte) (code : Nat) (args : List Byte)
    (op : Cmd → State → State) : takeCommand tag code args op s = s := by
  simp [takeCommand, h]

/-- A serial number not yet given out is reserved nowhere. -/
theorem State.ControlPathSound.fresh {s : State} (h : s.ControlPathSound) : s.clu.nextId ∉ s.clu.reserved :=
  fun hm => Nat.lt_irrefl _ (h.2.2.2.1 _ hm)

/-- Answering the command just taken is `Clu.answered`. -/
theorem Clu.answer_taken {c : Clu} (h : c.nextId ∉ c.reserved) (tag : Byte) (code : Nat) (o : ReplyOutcome) (r : Reason)
    (result : List Byte) :
    (c.taken tag).answer c.nextId { tag := tag, code := code, outcome := o, reason := r, result := result } =
      c.answered tag code o r result := by
  by_cases ht : tag = 0
  · simp [Clu.taken, Clu.answer, Clu.answered, ht, h]
  · have hb : ¬ tag = 0#8 := ht
    simp [Clu.taken, Clu.answer, Clu.answered, hb, List.erase_append_right _ h]

/-- The reply to a command just taken, whatever its effect did outside the control line unit. -/
theorem reply_taken {s t : State} {tag : Byte} (h : s.ControlPathSound) (hc : t.clu = s.clu.taken tag)
    (code : Nat) (args : List Byte) (o : ReplyOutcome) (r : Reason) (result : List Byte) :
    reply (s.clu.cmd tag code args) o r result t = { t with clu := s.clu.answered tag code o r result } := by
  simp [reply, Clu.cmd, State.setClu, hc, Clu.answer_taken h.fresh]

/-- As `reply_taken`, with sticky events raised by the effect. -/
theorem reply_taken_sticky {s t : State} {tag : Byte} {m : BitVec 18} (h : s.ControlPathSound)
    (hc : t.clu = { s.clu.taken tag with sticky := m })
    (code : Nat) (args : List Byte) (o : ReplyOutcome) (r : Reason) (result : List Byte) :
    reply (s.clu.cmd tag code args) o r result t =
      { t with clu := { s.clu.answered tag code o r result with sticky := m } } := by
  have hf := h.fresh
  by_cases ht : tag = 0
  · simp [reply, Clu.cmd, State.setClu, hc, Clu.taken, Clu.answer, Clu.answered, ht, hf]
  · have hb : ¬ tag = 0#8 := ht
    simp [reply, Clu.cmd, State.setClu, hc, Clu.taken, Clu.answer, Clu.answered, hb, List.erase_append_right _ hf]

/-- Enlisting the command just taken is `Clu.holding`. -/
theorem enlist_taken {s t : State} {tag : Byte} (hc : t.clu = s.clu.taken tag) (code : Nat) (args : List Byte)
    (owner : OwnerBlock) :
    enlist (s.clu.cmd tag code args) owner t = { t with clu := s.clu.holding tag code owner } := by
  simp [enlist, Clu.cmd, State.setClu, hc, Clu.taken, Clu.holding]

/-- With the cold-start read over, an owner's operation is reached. -/
theorem owned_serves {s : State} (h : s.starting = false) (op : Cmd → State → State) (c : Cmd) :
    owned op c s = op c s := by
  simp [owned, h]

/-- A command whose rule names no arguments, with none, is its operation. -/
theorem noArgs_nil (op : Cmd → State → State) (u : Clu) (tag : Byte) (code : Nat) (s : State) :
    noArgs op (u.cmd tag code []) s = op (u.cmd tag code []) s := by
  simp [noArgs, Clu.cmd]

/-- A completion of a command in flight is `Clu.completed`. -/
theorem complete_mem {s : State} {f : InFlight} (hf : s.clu.inFlight.find? (fun g => g.id = f.id) = some f)
    (o : ReplyOutcome) (r : Reason) : complete f.id o r s = { s with clu := s.clu.completed f o r } := by
  simp only [complete, hf, State.setClu, Clu.answer, Clu.completed]
  by_cases hm : f.id ∈ s.clu.reserved
  · simp [hm]
  · simp [hm, List.erase_of_not_mem hm]

/-- A completion of a command that is no longer in the list is dropped. -/
theorem complete_absent {s : State} {id : Nat} (h : s.clu.inFlight.find? (fun g => g.id = id) = none)
    (o : ReplyOutcome) (r : Reason) : complete id o r s = s := by
  simp [complete, h]

@[simp] theorem Clu.cmd_args (c : Clu) (tag : Byte) (code : Nat) (args : List Byte) : (c.cmd tag code args).args = args := rfl
@[simp] theorem Clu.cmd_code (c : Clu) (tag : Byte) (code : Nat) (args : List Byte) : (c.cmd tag code args).code = code := rfl
@[simp] theorem Clu.cmd_tag (c : Clu) (tag : Byte) (code : Nat) (args : List Byte) : (c.cmd tag code args).tag = tag := rfl
@[simp] theorem Clu.cmd_id (c : Clu) (tag : Byte) (code : Nat) (args : List Byte) : (c.cmd tag code args).id = c.nextId := rfl

/-- A command that the part serves is its owner's operation. -/
theorem takeCommand_serves {s : State} {tag : Byte} (hs : s.serves tag) (code : Nat) (args : List Byte)
    (op : Cmd → State → State) :
    takeCommand tag code args (owned op) s = op (s.clu.cmd tag code args) { s with clu := s.clu.taken tag } := by
  rw [takeCommand_takes hs.1, owned_serves]
  exact hs.2

/-- DONE of a command just taken. -/
theorem done_taken {s t : State} {tag : Byte} (hs : s.ControlPathSound) (hc : t.clu = s.clu.taken tag) (code : Nat)
    (args : List Byte) :
    done (s.clu.cmd tag code args) t = { t with clu := s.clu.answered tag code .done .none [] } :=
  reply_taken hs hc code args _ _ _

end Sys2Proof.Machine
end

