-- ==== Sys2Proof/Laws/Transport.lean ====
section
/-! SUPPORT. What the transport's operations do, each as one equation over the records of Safety.lean, and the commands that
reach the transport. -/

namespace Sys2Proof.Machine

/-! ### A directory read that is cut -/

@[simp] theorem State.readCut_trc (s : State) : s.readCut.trc = s.trc := by unfold State.readCut; split <;> rfl
@[simp] theorem State.readCut_pins (s : State) : s.readCut.pins = s.pins := by unfold State.readCut; split <;> rfl
@[simp] theorem State.readCut_tcb (s : State) : s.readCut.tcb = s.tcb := by unfold State.readCut; split <;> rfl
@[simp] theorem State.readCut_lpt (s : State) : s.readCut.lpt = s.lpt := by unfold State.readCut; split <;> rfl
@[simp] theorem State.readCut_tun (s : State) : s.readCut.tun = s.tun := by unfold State.readCut; split <;> rfl
@[simp] theorem State.readCut_cue (s : State) : s.readCut.cue = s.cue := by unfold State.readCut; split <;> rfl
@[simp] theorem State.readCut_clk (s : State) : s.readCut.clk = s.clk := by unfold State.readCut; split <;> rfl
@[simp] theorem State.readCut_sch (s : State) : s.readCut.sch = s.sch := by unfold State.readCut; split <;> rfl
@[simp] theorem State.readCut_clu (s : State) : s.readCut.clu = s.clu := by unfold State.readCut; split <;> rfl
@[simp] theorem State.readCut_sto (s : State) : s.readCut.sto = s.sto := by unfold State.readCut; split <;> rfl
@[simp] theorem State.readCut_choices (s : State) : s.readCut.choices = s.choices := by unfold State.readCut; split <;> rfl
@[simp] theorem State.readCut_pending (s : State) : s.readCut.pending = s.pending := by unfold State.readCut; split <;> rfl

/-- Outside DIR_READ nothing is cut. -/
theorem State.readCut_other {s : State} (h : s.trc.state ≠ .dirRead) : s.readCut = s := by simp [State.readCut, h]

/-- Cutting a directory read loses the directory. -/
theorem cutRead_eq (s : State) : cutRead s = s.readCut := rfl

/-- The cut looks at the transport state and the directory alone. -/
theorem State.readCut_withHeld (s : State) (c : Clu) (h : Option Held) :
    State.readCut { s with clu := c, trc := { s.trc with held := h } } =
      { s.readCut with clu := c, trc := { s.trc with held := h } } := by
  by_cases hd : s.trc.state = .dirRead <;> simp [State.readCut, hd]

/-- The cut looks at the transport state and the directory alone. -/
theorem State.readCut_withClu (s : State) (c : Clu) :
    State.readCut { s with clu := c } = { s.readCut with clu := c } := by
  by_cases hd : s.trc.state = .dirRead <;> simp [State.readCut, hd]

/-! ### Entering a state -/

/-- STOPPED is entered as `Trc.stops` says. -/
theorem stopTape_eq (s : State) : stopTape s = s.transportTo s.trc.stops := rfl

/-- A motion state other than DIR_WRITE is entered as `Trc.movesInto` says. -/
theorem beginMotion_eq {st : TState} (hm : st.isMotion = true) (hw : st ≠ .dirWrite) (ph : Phase) (s : State) :
    beginMotion st ph s = s.transportTo (s.trc.movesInto st ph) := by
  by_cases h : s.trc.state.isMotion <;>
  simp [beginMotion, enter, Trc.enter, watchOnEntry, hm, hw, h, State.transportTo, Trc.movesInto, Trc.noLimits,
    State.setTrc, State.setTcb, State.setDir]

/-- PLAY is entered as `Trc.plays` says. -/
theorem beginPlay_eq (s : State) : beginPlay s = s.transportTo s.trc.plays := by
  simp [beginPlay, beginMotion_eq (st := .play) rfl (by decide), State.transportTo, Trc.plays, State.setTrc]

/-- A state outside motion other than STOPPED is entered as `Trc.restsIn` says. -/
theorem enter_rest_eq {st : TState} (hm : st.isMotion = false) (hs : st ≠ .stopped) (ph : Phase) (s : State) :
    enter st ph s = s.transportTo (s.trc.restsIn st ph) := by
  have hw : st ≠ .dirWrite := by rintro rfl; simp [TState.isMotion] at hm
  simp [enter, Trc.enter, watchOnEntry, hm, hs, hw, State.transportTo, Trc.restsIn, Trc.noLimits, State.setTrc,
    State.setTcb, State.setDir]

/-- FAULT is entered as `Trc.faults` says, with a directory read cut. -/
theorem enterFault_eq (s : State) : enterFault s = s.readCut.transportTo s.trc.faults := by
  simp only [enterFault, cutRead_eq, enter_rest_eq (st := .fault) rfl (by decide)]
  simp [State.transportTo, Trc.faults, State.setTrc]

/-- A locate is entered with its record. -/
theorem beginLocate_eq (l : LocateTarget) (s : State) :
    beginLocate l s = s.transportTo { s.trc.movesInto .locate .wind with locate := some l } := by
  simp [beginLocate, beginMotion_eq (st := .locate) rfl (by decide), State.transportTo, State.setTrc]

/-- The end action of a locate is `State.endAction`. -/
theorem takeEndAction_eq (e : EndAction) (s : State) : takeEndAction e s = s.endAction e := by
  cases e
  · exact stopTape_eq s
  · simp [takeEndAction, State.endAction, resumePlay, beginPlay_eq, beginMotion_eq (st := .play) rfl (by decide)]

/-- The near-end condition is that of R44. -/
theorem State.nearEndHolds_eq (s : State) : s.nearEndHolds = nearEndAt s.tcb.history s.speedInForce := by
  unfold State.nearEndHolds nearEndAt estimateStatus State.remaining framesAt estimateOf State.speedInForce State.currentSpeed
  rcases hh : s.tcb.history with _ | ⟨a, l⟩
  · simp
  · rw [← hh]
    have h0 : s.tcb.history.length ≠ 0 := by simp [hh]
    by_cases h8 : s.tcb.history.length < 8
    · simp [h0, h8]
    · cases hx : s.sch.session with
      | none => cases hv : s.trc.speedSetting <;> simp [h0, h8, Nat.le_of_not_lt h8]
      | some x => cases hv : x.currentSpeed <;> simp [h0, h8, Nat.le_of_not_lt h8, hv]

/-- The near-end test is `State.nearEndTested`. -/
theorem evalNearEnd_eq (s : State) : evalNearEnd s = s.nearEndTested := by
  unfold evalNearEnd State.nearEndTested
  rw [State.nearEndHolds_eq]
  cases h : nearEndAt s.tcb.history s.speedInForce <;> cases hn : s.tcb.nearEnd
  · simp [State.setTcb]
  · simp [State.setTcb]
  · simp [State.setTcb, raise, State.setClu]
  · have ht : { s.tcb with nearEnd := true } = s.tcb := by rw [← hn]
    simp [ht]

/-! ### Letting go of the command held -/

/-- The command held is completed with a reply, if one is held. -/
theorem completeHeld_letsGo {s t : State} {o : ReplyOutcome} {r : Reason} {c : Clu} (h : s.letsGo o r c)
    (hh : t.trc.held = s.trc.held) (hc : t.clu = s.clu) :
    completeHeld o r t = { t with clu := c, trc := { t.trc with held := none } } := by
  obtain ⟨h1, h2⟩ | ⟨f, h1, h2, h3⟩ := h
  · subst h2
    have e : ({ t.trc with held := none } : Trc) = t.trc := by rw [← h1, ← hh]
    simp only [completeHeld, hh, h1, e, ← hc]
  · subst h3
    have := complete_mem (s := t.setTrc { t.trc with held := none }) (f := f) (by simpa [hc] using h2) o r
    simp only [completeHeld, hh, h1]
    rw [this]
    simp [State.setTrc, hc]

/-- With no session a report to the scheduler has nothing to close. -/
theorem reportClose_none {s : State} (h : s.sch.session = none) (r : EndReason) : reportClose r s = s := by
  simp [reportClose, h]

/-- With no session there is nothing to close. -/
theorem beginClose_none {s : State} (h : s.sch.session = none) (r : EndReason) : beginClose r s = s := by
  simp [beginClose, h]

/-! ### Commands that reach the transport -/

/-- The states of `Trc.takesOrder` take a new motion. -/
theorem Trc.takesOrder.takesMotion {t : Trc} (h : t.takesOrder) : t.takesMotion = true := by
  rcases h with h | h | h | h | h | h | h | h | h <;> simp [Trc.takesMotion, h, TState.isUserMode]

/-- The checks of R5 pass on a free tape. -/
theorem trcCheck_free {s : State} (hf : s.tapeFree) (ht : s.trc.takesOrder) (c : Clu) (code : Nat) :
    trcCheck code { s with clu := c } = none := by
  obtain ⟨hp, hss, -, -⟩ := hf
  rcases ht with h | h | h | h | h | h | h | h | h <;> simp [trcCheck, hp, h, State.hasSession, hss]

/-- A transport command that passes the checks of R5 is its own operation. -/
theorem transport_reached {s : State} {tag : Byte} (hs : s.serves tag) (code : Nat)
    (hk : trcCheck code { s with clu := s.clu.taken tag } = none) (args : List Byte) (op : Cmd → State → State) :
    takeCommand tag code args (trcCommand op) s =
      op (s.clu.cmd tag code args) { s with clu := s.clu.taken tag } := by
  rw [takeCommand_takes hs.1]
  have h : State.starting { s with clu := s.clu.taken tag } = false := hs.2
  have hk' : trcCheck (s.clu.cmd tag code args).code { s with clu := s.clu.taken tag } = none := hk
  simp only [trcCommand, owned_serves h, hk']

/-- A transport command on a free tape that takes orders is its own operation. -/
theorem transport_free {s : State} {tag : Byte} (hs : s.serves tag) (hf : s.tapeFree) (ht : s.trc.takesOrder) (code : Nat)
    (args : List Byte) (op : Cmd → State → State) :
    takeCommand tag code args (trcCommand op) s =
      op (s.clu.cmd tag code args) { s with clu := s.clu.taken tag } :=
  transport_reached hs code (trcCheck_free hf ht _ code) args op

/-- A command held in flight with no other held: its effect runs on the state that holds it. -/
theorem holdTransport_free {s : State} {tag : Byte} (hh : s.trc.held = none) (hi : s.clu.inFlight.length < 2) (code : Nat)
    (args : List Byte) (effect : State → State) :
    holdTransport (s.clu.cmd tag code args) effect { s with clu := s.clu.taken tag } =
      effect { s with clu := s.clu.holding tag code .trc,
                      trc := { s.trc with held := some { id := s.clu.nextId, code := code } } } := by
  simp only [holdTransport, completeHeld, hh, Clu.taken, hi, if_true]
  rfl

/-- A command held in flight in place of the one held before, which is SUPERSEDED: `c` is the control line unit after that
completion, as if the new command had been taken after it (R5, R178, R179). -/
theorem holdTransport_supersedes {s : State} {tag : Byte} {c : Clu} (hs : s.ControlPathSound) (hh : s.trc.held ≠ none)
    (hl : s.letsGo .superseded .none c) (code : Nat) (args : List Byte) (effect : State → State) :
    holdTransport (s.clu.cmd tag code args) effect { s with clu := s.clu.taken tag } =
      effect { s with clu := c.holding tag code .trc,
                      trc := { s.trc with held := some { id := s.clu.nextId, code := code } } } := by
  rcases hl with ⟨h, _⟩ | ⟨f, h1, h2, h3⟩
  · exact absurd h hh
  have hmem := List.mem_of_find?_eq_some h2
  have hlt : f.id < s.clu.nextId := hs.2.2.2.2.1 f hmem
  have hne : f.id ≠ s.clu.nextId := Nat.ne_of_lt hlt
  have hres : (s.clu.taken tag).reserved.erase f.id =
      (if tag = 0 then s.clu.reserved.erase f.id else s.clu.reserved.erase f.id ++ [s.clu.nextId]) := by
    unfold Clu.taken
    by_cases ht : tag = 0
    · simp [ht]
    · simp only [ht, if_false]
      by_cases hm : f.id ∈ s.clu.reserved
      · rw [List.erase_append_left _ hm]
      · rw [List.erase_append_right _ hm, List.erase_of_not_mem hm, List.erase_of_not_mem (by simpa using hne)]
  have hmm : f.id ∈ (s.clu.taken tag).reserved ↔ f.id ∈ s.clu.reserved := by
    unfold Clu.taken
    by_cases ht : tag = 0
    · simp [ht]
    · simp only [ht, if_false, List.mem_append, List.mem_singleton, hne, or_false]
  have hcomp : (s.clu.taken tag).completed f .superseded .none =
      { c with nextId := s.clu.nextId + 1
               reserved := if tag = 0 then c.reserved else c.reserved ++ [s.clu.nextId] } := by
    rw [h3]
    unfold Clu.completed
    simp only [hres, hmm]
    rfl
  have hlen : c.inFlight.length < 2 := by
    rw [h3]; simp only [Clu.completed]
    have : (s.clu.inFlight.filter fun g => g.id ≠ f.id).length < s.clu.inFlight.length := by
      apply List.length_filter_lt_length_iff_exists.2
      exact ⟨f, hmem, by simp⟩
    have := hs.2.1; omega
  have := completeHeld_letsGo (s := { s with clu := s.clu.taken tag }) (t := { s with clu := s.clu.taken tag })
    (o := .superseded) (r := .none) (.inr ⟨f, h1, by simpa [Clu.taken] using h2, rfl⟩) rfl rfl
  unfold holdTransport
  rw [this]
  simp only [hcomp, hlen, if_true]
  have hcn : c.nextId = s.clu.nextId := by rw [h3]; rfl
  unfold enlist
  simp only [State.setTrc, State.setClu, Clu.holding, hcn, Clu.cmd]

/-- A command completed at once with no other held: its effect, then its reply. -/
theorem atOnce_free {s : State} {tag : Byte} (hs : s.ControlPathSound) (hh : s.trc.held = none) (code : Nat)
    (args : List Byte) (effect : State → State) (o : ReplyOutcome) (r : Reason)
    (hc : (effect { s with clu := s.clu.taken tag }).clu = s.clu.taken tag) :
    atOnce (s.clu.cmd tag code args) effect o r { s with clu := s.clu.taken tag } =
      { effect { s with clu := s.clu.taken tag } with clu := s.clu.answered tag code o r [] } := by
  simp only [atOnce, completeHeld, hh]
  exact reply_taken hs hc code args o r []

/-- A refusal of the command just taken. -/
theorem refuse_taken {s : State} {tag : Byte} (hs : s.ControlPathSound) (code : Nat) (args : List Byte) (r : Reason) :
    refuse (s.clu.cmd tag code args) r { s with clu := s.clu.taken tag } =
      { s with clu := s.clu.answered tag code .refused r [] } :=
  reply_taken hs rfl code args .refused r []

end Sys2Proof.Machine
end

