-- ==== Sys2Proof/Laws/Tuning.lean ====
section
/-! SUPPORT. What a tune, a clearing and a grant do, as equations over the records of Safety.lean. -/

namespace Sys2Proof.Machine

/-- A tune is `State.tuned`. -/
theorem tune_eq (x : TunerId) (owner : Owner) (channel : Option Nat) (f : Nat) (fine : Int) (line : Nat) (s : State) :
    tune x owner channel f fine line s = s.tuned x owner channel f fine line := by
  have hw : Tuner.synthWord (Tuner.tunedTo owner channel f fine line) = some (wordFor f fine) := by
    simp [Tuner.synthWord, Tuner.tunedTo, wordFor, bandOf]
  cases x
  · by_cases h : s.lpt.settlingA = .tune
    · simp only [tune, tunedNotice, setCueRecord, setCueLine, sendWord, settlingNotice, setWord, setTuner, State.tuner,
        State.settling, State.setTun, State.setCue, State.setLpt, h, if_true, State.tuned]
      rw [← hw]
      congr 1
    · simp only [tune, tunedNotice, setCueRecord, setCueLine, sendWord, settlingNotice, setWord, setTuner, State.tuner,
        State.settling, State.setTun, State.setCue, State.setLpt, h, if_false, setSettling, State.tuned]
      rw [← hw]
      rfl
  · by_cases h : s.lpt.settlingB = .tune
    · simp only [tune, tunedNotice, setCueRecord, setCueLine, sendWord, settlingNotice, setWord, setTuner, State.tuner,
        State.settling, State.setTun, State.setCue, State.setLpt, h, if_true, State.tuned]
      rw [← hw]
      congr 1
    · simp only [tune, tunedNotice, setCueRecord, setCueLine, sendWord, settlingNotice, setWord, setTuner, State.tuner,
        State.settling, State.setTun, State.setCue, State.setLpt, h, if_false, setSettling, State.tuned]
      rw [← hw]
      rfl

/-- A tune to an AIR channel of the table. -/
theorem tuneChannel_air {s : State} {n : Nat} {ch : Channel} {f : Nat} {fine : Int} (hc : s.channel n = some ch)
    (ht : ch.tuning = .air f fine) (x : TunerId) (owner : Owner) :
    tuneChannel x owner n s = s.tuned x owner (some n) f fine (s.lineOf ch) := by
  simp [tuneChannel, hc, ht, tune_eq, State.lineOf]

/-- Clearing a tuner is `State.untuned`. -/
theorem clearTuner_eq (x : TunerId) (s : State) : clearTuner x s = s.untuned x := by
  cases x <;> rfl

/-- A view is `State.viewing`. -/
theorem setView_eq (v : Option (Nat × ViewSource)) (s : State) : setView v s = s.viewing v := rfl

end Sys2Proof.Machine
end

