-- ==== Sys2Proof/Laws/Scheduler.lean ====
section
/-! SUPPORT. What the timer scheduler does when it has nothing to do, and what marking a store record leaves alone. -/

namespace Sys2Proof.Machine

/-! ### Marking a record -/

/-- Marking a record leaves the control line unit alone. -/
@[simp] theorem markRecord_clu (name : RecordName) (s : State) : (markRecord name s).clu = s.clu := by
  unfold markRecord startWrite; split <;> split <;> (try rfl) <;> split <;> rfl

/-- Marking a record does not look at the control line unit. -/
theorem markRecord_withClu (name : RecordName) (s : State) (c : Clu) :
    markRecord name { s with clu := c } = { markRecord name s with clu := c } := by
  have hch : ∀ m, recordContent { s with clu := c } m = recordContent s m := by intro m; cases m <;> rfl
  unfold markRecord startWrite State.asleep State.starting
  by_cases h : name ∈ s.sto.pendingWrites
  · simp only [h, if_true]
    split
    · rfl
    · cases hp : s.sto.pendingWrites with
      | nil => simp [hp] at h
      | cons a l => simp only [hch]; rfl
  · simp only [h, if_false, State.setSto]
    split
    · rfl
    · have hch : ∀ st m, recordContent { s with sto := { s.sto with pendingWrites := st }, clu := c } m =
          recordContent { s with sto := { s.sto with pendingWrites := st } } m := by intro st m; cases m <;> rfl
      cases hp : s.sto.pendingWrites ++ [name] with
      | nil => simp at hp
      | cons a l => simp only [hch]

/-! ### Nothing scheduled -/

/-- A timer entry read from the table is one of its entries, or an EMPTY one. -/
theorem State.timer_mem (s : State) (k : Nat) : s.timer k ∈ s.sch.timers ∨ s.timer k = TimerEntry.empty := by
  unfold State.timer
  rcases h : s.sch.timers[k]? with _ | e
  · simp [List.getD, h]
  · simp [List.getD, h]
    exact .inl (List.mem_of_getElem? h)

/-- With no entry WAITING and no channel watched, the reassessment changes nothing. -/
theorem reassessWatch_nothing {s : State} (h : s.watchesNothing) : reassessWatch s = s := by
  unfold reassessWatch
  by_cases ha : s.asleep = true
  · simp [ha]
  · obtain ⟨hw, hn⟩ := h
    have hnil : (s.entriesByStart fun _ e => s.needsWatch e) = [] := by
      unfold State.entriesByStart
      have hf : ((List.range 16).filterMap fun k =>
        match (s.timer k).occurrence with
        | some (a, _) => if s.needsWatch (s.timer k) then some (a * 16 + k) else none
        | none => none) = [] := by
        rw [List.filterMap_eq_nil_iff]
        intro k _
        have hs : (s.timer k).state ≠ .waiting := by
          rcases s.timer_mem k with hm | hm
          · exact hn _ hm
          · rw [hm]; decide
        have : s.needsWatch (s.timer k) = false := by simp [State.needsWatch, hs]
        cases (s.timer k).occurrence <;> simp [this]
      exact congrArg (fun l => (l.foldr insertNat []).map (· % 16)) hf
    simp [ha, hw, hnil]

/-- Every entry of an idle scheduler is EMPTY. -/
theorem State.schedulerIdle.timer {s : State} (h : s.schedulerIdle) (k : Nat) : s.timer k = TimerEntry.empty := by
  rcases s.timer_mem k with hm | hm
  · rw [h.2.2] at hm
    exact (List.mem_replicate.mp hm).2
  · exact hm

/-- An idle scheduler watches nothing. -/
theorem State.schedulerIdle.watchesNothing {s : State} (h : s.schedulerIdle) : s.watchesNothing := by
  refine ⟨h.2.1, fun e he => ?_⟩
  rw [h.2.2] at he
  rw [(List.mem_replicate.mp he).2]
  decide

/-- The evaluation of an idle scheduler's table changes nothing. -/
theorem evaluateTable_idle {s : State} (h : s.schedulerIdle) : evaluateTable s = s := by
  unfold evaluateTable
  have he : evalSession s = s := by simp [evalSession, h.1]
  have hn : (s.entriesByStart fun _ _ => true) = [] := by
    unfold State.entriesByStart
    have hf : ((List.range 16).filterMap fun k =>
        match (s.timer k).occurrence with
        | some (a, _) => if true then some (a * 16 + k) else none
        | none => none) = [] := by
      rw [List.filterMap_eq_nil_iff]
      intro k _
      rw [h.timer k]
      rfl
    exact congrArg (fun l => (l.foldr insertNat []).map (· % 16)) hf
  simp only [he, hn, List.foldl_nil, reassessWatch_nothing h.watchesNothing, ite_self]

/-- A clock-moved notice finds an idle scheduler with nothing to do. -/
theorem clockMoved_idle {s : State} (h : s.schedulerIdle) (n : ClockNotice) : clockMoved n s = s := by
  have hw : s.setSch { s.sch with timers := s.sch.timers.map (TimerEntry.wrapped n.new.seconds) } = s := by
    have he : s.sch.timers.map (TimerEntry.wrapped n.new.seconds) = s.sch.timers := by
      rw [h.2.2, List.map_replicate]
      rfl
    rw [he]
    rfl
  have hr : ∀ k, recomputeEntry k s = s := by
    intro k
    simp [recomputeEntry, h.timer k, TimerEntry.empty]
  have hf : ∀ l : List Nat, l.foldl (fun acc k => recomputeEntry k acc) s = s := by
    intro l
    induction l with
    | nil => rfl
    | cons k l ih => rw [List.foldl_cons, hr k, ih]
  unfold clockMoved
  simp only [hw, hf, ite_self, evaluateTable_idle h]

end Sys2Proof.Machine
end

