-- ==== Sys2Proof/Laws/Lists.lean ====
section
/-! SUPPORT. Lists that are changed in one place, and the timer table in which one entry stands. -/

namespace Sys2Proof.Machine

/-! ### Lists -/

/-- A property of every member is kept by a change that keeps it. -/
theorem modify_all {α} {P : α → Prop} {f : α → α} (hf : ∀ e, P e → P (f e)) :
    ∀ (l : List α) (k : Nat), (∀ e ∈ l, P e) → ∀ e ∈ l.modify k f, P e := by
  intro l
  induction l with
  | nil => intro k h e he; simp at he
  | cons a l ih =>
    intro k h e he
    cases k with
    | zero =>
      simp at he
      rcases he with he | he
      · rw [he]; exact hf _ (h _ (by simp))
      · exact h _ (by simp [he])
    | succ k =>
      simp at he
      rcases he with he | he
      · rw [he]; exact h _ (by simp)
      · exact ih k (fun e he => h e (by simp [he])) e he

/-- Two changes of one place are one. -/
theorem modify_modify {α} (f g : α → α) : ∀ (l : List α) (k : Nat),
    (l.modify k f).modify k g = l.modify k (fun e => g (f e)) := by
  intro l
  induction l with
  | nil => intro k; simp
  | cons a l ih => intro k; cases k <;> simp [ih]

/-- Two changes that agree on the member in place are equal. -/
theorem modify_congr_at {α} {f g : α → α} : ∀ (l : List α) (k : Nat), (∀ e,
    l[k]? = some e → f e = g e) → l.modify k f = l.modify k g := by
  intro l
  induction l with
  | nil => intro k _; simp
  | cons a l ih => intro k h; cases k <;> simp_all

/-- A change that leaves the member in place leaves the list. -/
theorem modify_id_at {α} {f : α → α} : ∀ (l : List α) (k : Nat), (∀ e,
    l[k]? = some e → f e = e) → l.modify k f = l := by
  intro l
  induction l with
  | nil => intro k _; simp
  | cons a l ih => intro k h; cases k <;> simp_all

/-- A change of a place just set. -/
theorem set_modify {α} (f : α → α) (e : α) : ∀ (l : List α) (k : Nat),
    k < l.length → (l.set k e).modify k f = l.set k (f e) := by
  intro l
  induction l with
  | nil => intro k h; simp at h
  | cons a l ih => intro k h; cases k <;> simp_all

/-- A filter of the numbers that keeps one. -/
theorem filterMap_range_one {β} (f : Nat → Option β) (k : Nat) (v : β) (hv : f k = some v) (ho : ∀ j,
    j ≠ k → f j = none) :
    ∀ n, (List.range n).filterMap f = if k < n then [v] else [] := by
  intro n
  induction n with
  | zero => simp
  | succ n ih =>
    rw [List.range_succ, List.filterMap_append, ih]
    by_cases hk : n = k
    · subst hk; simp [hv]
    · have : f n = none := ho n hk
      by_cases h2 : k < n
      · simp [this, h2, show k < n + 1 by omega]
      · simp [this, h2, show ¬ k < n + 1 by omega]

/-! ### The timer table -/

/-- When no entry is picked the order is empty. -/
theorem entriesByStart_none {s : State} {p : Nat → TimerEntry → Bool} (h : ∀ k, p k (s.timer k) = false) :
    s.entriesByStart p = [] := by
  unfold State.entriesByStart
  have hf : ((List.range 16).filterMap fun k =>
        match (s.timer k).occurrence with
        | some (a, _) => if p k (s.timer k) then some (a * 16 + k) else none
        | none => none) = [] := by
      rw [List.filterMap_eq_nil_iff]
      intro k _
      rw [h k]
      cases (s.timer k).occurrence <;> rfl
  exact congrArg (fun l => (l.foldr insertNat []).map (· % 16)) hf

/-- An entry with a definition stands in the table. -/
theorem timer_of_defn {s : State} {k t} (h : (s.timer k).defn = some t) : s.sch.timers[k]? = some (s.timer k) := by
  unfold State.timer at h ⊢
  cases hk : s.sch.timers[k]? with
  | none => simp [List.getD, hk, TimerEntry.empty] at h
  | some e => simp [List.getD, hk]

/-- The entries of a table that holds one. -/
theorem timer_single {s : State} {k : Nat} {e : TimerEntry} (hk : k < 16)
    (ht : s.sch.timers = (List.replicate 16 TimerEntry.empty).set k e) (j : Nat) :
    s.timer j = if j = k then e else TimerEntry.empty := by
  simp only [State.timer, ht, List.getD, List.getElem?_set]
  by_cases h : j = k
  · subst h; simp [hk]
  · have h' : k ≠ j := fun a => h a.symm
    simp only [h, h', if_false, List.getElem?_replicate]
    split <;> rfl

/-- The order of a table that holds one entry: that entry, if it is picked. -/
theorem entriesByStart_one {s : State} {k : Nat} {e : TimerEntry} (hk : k < 16)
    (ht : s.sch.timers = (List.replicate 16 TimerEntry.empty).set k e) {a b : Nat} (ho : e.occurrence = some (a, b))
    (p : Nat → TimerEntry → Bool) : s.entriesByStart p = if p k e then [k] else [] := by
  by_cases hp : p k e = true
  · unfold State.entriesByStart
    have hf := filterMap_range_one (fun k => match (s.timer k).occurrence with
          | some (a, _) => if p k (s.timer k) then some (a * 16 + k) else none
          | none => none) k (a * 16 + k) (by simp [timer_single hk ht, ho, hp]) (by
            intro j hj; simp [timer_single hk ht, hj, TimerEntry.occurrence, TimerEntry.empty]) 16
    rw [if_pos hk] at hf
    refine (congrArg (fun l => (l.foldr insertNat []).map (· % 16)) hf).trans ?_
    rw [if_pos hp]
    simp [insertNat]; omega
  · rw [if_neg hp]
    unfold State.entriesByStart
    have hf : ((List.range 16).filterMap fun k => match (s.timer k).occurrence with
          | some (a, _) => if p k (s.timer k) then some (a * 16 + k) else none
          | none => none) = [] := by
      rw [List.filterMap_eq_nil_iff]
      intro j _
      rw [timer_single hk ht]
      by_cases hj : j = k
      · subst hj; simp [ho, hp]
      · simp [hj, TimerEntry.occurrence, TimerEntry.empty]
    exact congrArg (fun l => (l.foldr insertNat []).map (· % 16)) hf

/-- The order of a table that holds one entry. -/
theorem entriesByStart_single {s : State} {k : Nat} {e : TimerEntry} (hk : k < 16)
    (ht : s.sch.timers = (List.replicate 16 TimerEntry.empty).set k e)
    {a b : Nat} (ho : e.occurrence = some (a, b)) : (s.entriesByStart fun _ _ => true) = [k] := by
  rw [entriesByStart_one hk ht ho, if_pos rfl]

/-- A table of one entry that is not WAITING watches nothing. -/
theorem watchesNothing_single {s : State} {k : Nat} {e : TimerEntry}
    (ht : s.sch.timers = (List.replicate 16 TimerEntry.empty).set k e)
    (hw : s.sch.watch = none) (he : e.state ≠ .waiting) : s.watchesNothing := by
  refine ⟨hw, fun x hx => ?_⟩
  rw [ht] at hx
  rcases List.mem_or_eq_of_mem_set hx with h | h
  · rw [(List.mem_replicate.mp h).2]; decide
  · rw [h]; exact he

/-- A change that makes no entry WAITING keeps nothing watched. -/
theorem watchesNothing_modify {s : State} (h : s.watchesNothing) (k : Nat) (f : TimerEntry → TimerEntry) (hf : ∀ e,
    (f e).state ≠ .waiting) (sch : Sch) (hw : sch.watch = none)
    (ht : sch.timers = s.sch.timers.modify k f) : State.watchesNothing { s with sch := sch } := by
  refine ⟨hw, fun e he => ?_⟩
  simp only [ht] at he
  rw [List.mem_iff_getElem] at he
  obtain ⟨i, hi, he⟩ := he
  rw [List.getElem_modify] at he
  split at he
  · rw [← he]; exact hf _
  · rw [← he]; exact h.2 _ (List.getElem_mem _)

/-- A cue change with nothing scheduled does nothing. -/
theorem cueChangeNotice_idle {s : State} (h : s.schedulerIdle) (c : Nat) (cue : Cue) :
    cueChangeNotice (some c) cue s = s := by
  unfold cueChangeNotice sessionCueChange
  simp only [h.1]
  unfold waitingCueChange
  split
  · rfl
  · have hn : ∀ p, (s.entriesByStart p) = [] := by
      intro p
      unfold State.entriesByStart
      have hf : ((List.range 16).filterMap fun k =>
          match (s.timer k).occurrence with
          | some (a, _) => if p k (s.timer k) then some (a * 16 + k) else none
          | none => none) = [] := by
        rw [List.filterMap_eq_nil_iff]
        intro k _
        rw [h.timer k]
        rfl
      exact congrArg (fun l => (l.foldr insertNat []).map (· % 16)) hf
    rw [hn]; rfl

end Sys2Proof.Machine
end

