-- ==== Sys2Proof/Laws/Codec.lean ====
section
/-! SUPPORT. Bytes and the numbers, sums, points and definitions they carry; the dates that match a repeat. -/

namespace Sys2Proof.Machine

/-! ### Bytes and numbers -/

/-- A number below 256 is read back from its byte. -/
theorem Byte.ofNat_toNat (n : Nat) (h : n < 256) : (Byte.ofNat n).toNat = n := by simp [Byte.ofNat]; omega

/-- The byte of an integer. -/
theorem Byte.ofInt_toNat (n : Int) : (Byte.ofInt n).toNat = (n % 256).toNat := by
  simp [Byte.ofInt]

/-- A counter value is read back from its three bytes. -/
theorem int3_bytes (t : Int) (h1 : -899999 ≤ t) (h2 : t ≤ 899999) :
    int3 (Byte.ofInt (t / 65536)) (Byte.ofInt (t / 256)) (Byte.ofInt t) = t := by
  unfold int3 nat3
  rw [BitVec.toInt_ofNat']
  simp only [Byte.ofInt_toNat]
  rw [Int.bmod_def]
  split <;> omega

/-- Three bytes as a number. -/
theorem numAt_three (a b c : Byte) (rest : List Byte) :
    numAt (a :: b :: c :: rest) 1 3 = (a.toNat * 256 + b.toNat) * 256 + c.toNat := by
  simp [numAt, byteAt, List.range_succ]

/-- A slot has 16 bytes. -/
theorem DirEntry.slot_length (e : DirEntry) : e.slot.length = 16 := by simp [DirEntry.slot, bytes3, bytes2]

/-- The pieces of 16 put together. -/
theorem chunks_flatten (l : List Byte) (n : Nat) :
    ((List.range n).map fun j => (l.drop (16 * j)).take 16).flatten = l.take (16 * n) := by
  induction n with
  | zero => simp
  | succ n ih =>
    rw [List.range_succ, List.map_append, List.flatten_append, ih]
    simp [Nat.mul_succ, List.take_add]

/-! ### Sums -/

/-- The sum of two lists is the sum of their sums. -/
theorem sumBytes_append (l m : List Byte) : sumBytes (l ++ m) = sumBytes l + sumBytes m := by
  have key : ∀ (m : List Byte) (a : Byte), m.foldl (· + ·) a = a + m.foldl (· + ·) 0 := by
    intro m
    induction m with
    | nil => intro a; simp
    | cons x m ih => intro a; simp only [List.foldl_cons]; rw [ih (a + x), ih (0 + x)]; simp [BitVec.add_assoc]
  unfold sumBytes
  rw [List.foldl_append, key]

/-- A check byte brings the sum to 0. -/
theorem sumBytes_check (l : List Byte) : sumBytes (l ++ [0 - sumBytes l]) = 0 := by
  rw [sumBytes_append]
  have : sumBytes [0 - sumBytes l] = 0 - sumBytes l := by simp [sumBytes]
  rw [this]; generalize sumBytes l = x; bv_omega

/-- The sum of bytes is the library's. -/
theorem sum_eq_sumBytes (l : List Byte) : l.sum = sumBytes l := by
  induction l with
  | nil => rfl
  | cons a l ih => rw [List.sum_cons, ih, show a :: l = [a] ++ l from rfl, sumBytes_append]; simp [sumBytes]

/-- A record that is accepted sums to 0. -/
theorem unframeRecord_sum {name : RecordName} {l c : List Byte} (h : unframeRecord name l = some c) :
    sumBytes l = 0 := by
  unfold unframeRecord at h
  split at h
  · split at h
    · rename_i h2; exact h2.2.2.2
    · cases h
  · cases h

/-! ### Points and range checks -/

/-- The points of a profile in range fit three bytes. -/
theorem profilePoints_lt (points : List Nat) (hlen : points.length = 33) (h0 : points.getD 0 0 ≤ 450000) (hm : ∀ k,
    k < 32 → points.getD (k + 1) 0 ≤ points.getD k 0) : ∀ x ∈ points, x < 16777216 := by
  have : ∀ k, k < 33 → points.getD k 0 ≤ 450000 := by
    intro k
    induction k with
    | zero => intro _; exact h0
    | succ n ih => intro hn; have := hm n (by omega); have := ih (by omega); omega
  intro x hx
  obtain ⟨i, hi, rfl⟩ := List.mem_iff_getElem.1 hx
  have := this i (by omega)
  simp [List.getD, hi] at this; omega

/-- The bytes of points are three each. -/
theorem pointBytes_length (points : List Nat) : (points.map bytes3).flatten.length = 3 * points.length := by
  induction points with
  | nil => rfl
  | cons a l ih => simp [bytes3, ih]; omega

/-- Points are read back from their bytes. -/
theorem parsePoints_bytes3 (points : List Nat) (h : ∀ x ∈ points, x < 16777216) :
    parsePoints (points.map bytes3).flatten = points := by
  induction points with
  | nil => rfl
  | cons a l ih =>
    simp only [List.map_cons, List.flatten_cons, bytes3, List.cons_append, List.nil_append, parsePoints]
    have hl : parsePoints ((l.map bytes3).flatten) = l := ih (fun x hx => h x (by simp [hx]))
    have ha := h a (by simp)
    have hl2 : parsePoints ((l.map fun n => [Byte.ofNat (n / 65536), Byte.ofNat (n / 256),
        Byte.ofNat n]).flatten) = l := hl
    try rw [hl]
    try rw [hl2]
    congr 1
    simp [nat3, Byte.ofNat]
    omega

/-- The range check of COMMIT CHANNEL is that of R80. -/
theorem Channel.inRange_iff (c : Channel) : c.inRange = true ↔ c.Commits := by
  unfold Channel.inRange Channel.Commits
  cases c.tuning <;> cases c.cueLine <;> simp

/-- The range check of COMMIT TIMER is that of R137. -/
theorem TimerDef.inRange_iff (t : TimerDef) : t.inRange = true ↔ t.Commits := by
  obtain ⟨c, r, sh, sm, eh, em, sp, lb⟩ := t
  cases r <;> cases lb <;> simp [TimerDef.inRange, timeValid, Repeat.inRange, Date.valid, Label.inRange,
      TimerDef.Commits] <;> tauto

/-! ### Occurrences -/

/-- The leap years before a year. -/
theorem leapYears_before (y : Nat) : ((List.range y).filter fun y => decide (y % 4 = 0)).length = (y + 3) / 4 := by
  induction y with
  | zero => rfl
  | succ n ih =>
    rw [List.range_succ, List.filter_append, List.length_append, ih]
    by_cases h : n % 4 = 0 <;> simp [h] <;> omega

/-- A date matches by the rule of R142. -/
theorem Repeat.matchesDay_iff (r : Repeat) (d : Nat) : r.matchesDay d = true ↔ r.On d := by
  cases r <;> simp [Repeat.matchesDay, Repeat.On, dowOfDay] <;> exact decide_eq_true_iff

/-- The search of sixteen days, with none of them past the wrap, finds the earliest one that matches. -/
theorem TimerDef.firstFrom_spec (t : TimerDef) (d now : Nat) (hw : ∀ e, e < d + 16 → daySeen now e = e) (hex : ∃ e,
    d ≤ e ∧ e < d + 16 ∧ t.rep.On e ∧ now < t.stopOn e * 60) :
    ∃ x, t.firstFrom d now = some x ∧ d ≤ x ∧ t.rep.On x ∧ now < t.stopOn x * 60 ∧ ∀ e,
        d ≤ e → e < x → t.rep.On e → t.stopOn e * 60 ≤ now := by
  unfold TimerDef.firstFrom
  have hm : ((List.range 16).map fun i => daySeen now (d + i)) = (List.range 16).map (d + ·) := by
    apply List.map_congr_left
    intro i hi
    exact hw _ (by simp at hi; omega)
  rw [hm]
  cases h : ((List.range 16).map (d + ·)).find? (fun e => t.rep.matchesDay e && decide (now < t.stopOn e * 60)) with
  | none =>
    exfalso
    rw [List.find?_eq_none] at h
    obtain ⟨e, h1, h2, h3, h4⟩ := hex
    have := h e (by simp; exact ⟨e - d, by omega, by omega⟩)
    simp [(Repeat.matchesDay_iff _ _).2 h3, h4] at this
  | some x =>
    rw [List.find?_eq_some_iff_getElem] at h
    obtain ⟨hp, i, hi, hx, hj⟩ := h
    simp only [Bool.and_eq_true, decide_eq_true_eq, Repeat.matchesDay_iff] at hp
    simp at hx hi
    refine ⟨x, rfl, by omega, hp.1, hp.2, fun e h1 h2 h3 => ?_⟩
    have := hj (e - d) (by omega)
    simp at this
    have he : d + (e - d) = e := by omega
    rw [he] at this
    rcases this with h | h
    · rw [(Repeat.matchesDay_iff _ _).2 h3] at h; cases h
    · exact h

/-- A stop is after its day begins. -/
theorem TimerDef.stopOn_after (t : TimerDef) (hc : t.Commits) (e : Nat) : e * 1440 < t.stopOn e := by
  unfold TimerDef.stopOn; split <;> omega

/-- A stop is before the second day after ends. -/
theorem TimerDef.stopOn_before (t : TimerDef) (hc : t.Commits) (e : Nat) : t.stopOn e < (e + 2) * 1440 := by
  obtain ⟨_, h1, h2, h3, h4, _⟩ := hc
  unfold TimerDef.stopOn; split <;> omega

/-- Every repeat but ONCE has a matching day in any fourteen, across the wrap of the calendar too. -/
theorem Repeat.On_within_fortnight (r : Repeat) (hr : ∀ date, r ≠ .once date) (hw : ∀ w, r = .weekly w → w ≤ 6) (a : Nat) :
    ∃ e, a ≤ e ∧ e < a + 14 ∧ r.On e := by
  have key : ∀ w, w ≤ 6 → ∃ e, a ≤ e ∧ e < a + 14 ∧ (e % 36525 + 5) % 7 = w := by
    intro w hw
    by_cases h : a % 36525 + 7 ≤ 36525
    · exact ⟨a + (w + 7 - (a % 36525 + 5) % 7) % 7, by omega, by omega, by omega⟩
    · exact ⟨a + (36525 - a % 36525) + (w + 7 - 5) % 7, by omega, by omega, by omega⟩
  cases r with
  | once date => exact absurd rfl (hr date)
  | daily => exact ⟨a, by omega, by omega, trivial⟩
  | weekdays =>
    obtain ⟨e, h1, h2, h3⟩ := key 0 (by omega)
    exact ⟨e, h1, h2, by simp only [Repeat.On]; omega⟩
  | weekly w => exact key w (hw w rfl)

/-- A commit before the occurrence: the entry is armed and the evaluation does nothing. -/
theorem commitIdle_armed {v : State} {k : Nat} {t : TimerDef} (h3 : t.Commits) (h8 : v.watchesNothing)
    (hk : k < v.sch.timers.length) (hrun : ∀ u : State, u.sch.session = v.sch.session → u.runningEntry ≠ some k)
   (h9 : v.clk.status = .unset ∨ ∃ d,
       t.newOccurrence v.clk.now.seconds = some d ∧ v.clk.now.seconds < (if t.label = none then t.startOn d else t.startOn d - 15) * 60) :
   commitIdle k t v = modTimer k (fun e => { e with state := .armed, defn := some t, deferred := false, interrupted := false, next := t.newOccurrence v.clk.now.seconds }) v := by
  unfold commitIdle
  have hwas : (v.timer k).state ≠ .waiting := by
    rcases State.timer_mem v k with hm | hm
    · exact h8.2 _ hm
    · rw [hm]; decide
  simp only [hwas, if_false]
  generalize hu : (modTimer k (fun e => { e with state := .armed, defn := some t, deferred := false, interrupted := false, next := t.newOccurrence v.nowSeconds }) v) = u
  have hu' := hu
  change _ = (modTimer k (fun e => { e with state := .armed, defn := some t, deferred := false, interrupted := false, next := t.newOccurrence v.nowSeconds }) v)
  rw [hu]
  by_cases hus : u.clk.status = .unset
  · rw [if_pos hus]
  · rw [if_neg hus]
    have hclk : u.clk = v.clk := by rw [← hu]; rfl
    rw [hclk] at hus
    obtain ⟨d, hd, hd2⟩ := h9.resolve_left hus
    have hT : u.timer k = { v.sch.timers[k] with state := .armed, defn := some t, deferred := false, interrupted := false, next := some d } := by
      rw [← hu]
      simp [State.timer, modTimer, hk, State.nowSeconds, hd]
    have hnow : u.nowSeconds = v.clk.now.seconds := by rw [State.nowSeconds, hclk]
    have hstop : u.before (t.stopOn d) = true := by
      have : t.startOn d ≤ t.stopOn d := by
        obtain ⟨_, a1, a2, a3, a4, _⟩ := h3
        unfold TimerDef.startOn TimerDef.stopOn; split <;> omega
      simp only [State.before, hnow, decide_eq_true_eq]
      have : (if t.label = none then t.startOn d else t.startOn d - 15) ≤ t.startOn d := by split <;> omega
      omega
    have hev : evalEntry k u = u := by
      unfold evalEntry
      rw [if_neg (hrun u (by rw [← hu]; rfl)), hT]
      simp only [TimerEntry.occurrence, TimerEntry.labelled]
      cases hl : t.label with
      | none =>
        simp only [hl, Option.any, Option.isSome, Bool.false_eq_true, if_false]
        unfold evalClockEntry
        rw [hT]
        have : u.before (t.startOn d) = true := by
          simp only [State.before, hnow, decide_eq_true_eq]; simpa [hl] using hd2
        simp [this]
      | some l =>
        simp only [hl, Option.any, Option.isSome, if_true]
        unfold evalLabelEntry
        rw [hT]
        have h1 : u.before (windowOpening (t.startOn d)) = true := by
          simp only [State.before, hnow, decide_eq_true_eq, windowOpening]; simpa [hl] using hd2
        have h2 : u.before (waitLimit (t.stopOn d)) = true := by
          have h3 : u.nowSeconds < t.stopOn d * 60 := of_decide_eq_true hstop
          exact decide_eq_true (Nat.lt_of_lt_of_le h3 (Nat.mul_le_mul_right 60 (Nat.le_add_right _ 180)))
        simp [h1, h2]
    have hocc : (u.timer k).occurrence = some (t.startOn d, t.stopOn d) := by rw [hT]; rfl
    rw [hocc]
    cases hr : t.rep <;> simp only [hstop, if_true, hev]

end Sys2Proof.Machine
end

