-- ==== Sys2Proof/Laws/Events.lean ====
section
/-! SUPPORT. What events and the sessions they touch do: the wake test, the command held, a fault,
    the session record. -/

namespace Sys2Proof.Machine

/-! ### The wake test -/

/-- An event of a part that is not asleep is taken. -/
theorem awake_apply {s : State} (h : s.asleep = false) (f : State → State) : awake f s = f s := by simp [awake, h]

/-- The same with a pin already noted. -/
theorem awake_apply_pins {s : State} (h : s.asleep = false) (p : Pins) (f : State → State) :
    awake f { s with pins := p } = f { s with pins := p } := awake_apply (s := { s with pins := p }) h f

/-- An event of a part that is asleep does nothing. -/
theorem awake_asleep {s : State} (h : s.asleep = true) (f : State → State) : awake f s = s := by simp [awake, h]

/-- The same with a pin already noted. -/
theorem awake_asleep_pins {s : State} (h : s.asleep = true) (p : Pins) (f : State → State) :
    awake f { s with pins := p } = { s with pins := p } := awake_asleep (s := { s with pins := p }) h f

/-! ### The command held -/

/-- A completion does not look at the sticky events. -/
theorem Clu.completed_withSticky (c : Clu) (f o r m) :
    ({ c with sticky := m } : Clu).completed f o r = { c.completed f o r with sticky := m } := by
  simp only [Clu.completed]

/-- The transport lets go of its command after a sticky event was raised. -/
theorem completeHeld_letsGo_sticky {s t : State} {o r c m} (h : s.letsGo o r c) (hh : t.trc.held = s.trc.held)
    (hc : t.clu = { s.clu with sticky := m }) :
    completeHeld o r t = { t with clu := { c with sticky := m }, trc := { t.trc with held := none } } := by
  apply completeHeld_letsGo (s := t)
  · rcases h with ⟨h1, h2⟩ | ⟨f, h1, h2, h3⟩
    · exact .inl ⟨hh.trans h1, by rw [hc, h2]⟩
    · refine .inr ⟨f, hh.trans h1, by rw [hc]; exact h2, ?_⟩
      rw [hc, h3]; rfl
  · rfl
  · rfl

/-- With no command held there is nothing to complete. -/
theorem completeHeld_none (o r) (s : State) (h : s.trc.held = none) : completeHeld o r s = s := by simp [completeHeld,
    h]

/-- A fault without a session: FAULT is entered and the command held is completed. -/
theorem faultWith_eq {s : State} {o r c} (hs : s.sch.session = none) (hl : s.letsGo o r c) :
    faultWith o r s = { s.readCut.transportTo { s.trc.faults with held := none } with clu := c } := by
  unfold faultWith
  rw [enterFault_eq, completeHeld_letsGo hl (by simp [State.transportTo, Trc.faults, Trc.restsIn,
      Trc.noLimits]) (by simp [State.transportTo]), reportClose_none]
  · rfl
  · simp [State.transportTo, hs]

/-- A transport command that a check stops is refused with its reason. -/
theorem transport_refused {s:State}{tag:Byte}(hs : s.serves tag) {code : Nat} {r : Reason} {args op}
    (hk : trcCheck code { s with clu := s.clu.taken tag } = some r) :
    takeCommand tag code args (trcCommand op) s = { s with clu := s.clu.answered tag code .refused r [] } := by
  rw [takeCommand_takes hs.1]
  have h : State.starting { s with clu := s.clu.taken tag } = false := hs.2
  have hk' : trcCheck (s.clu.cmd tag code args).code { s with clu := s.clu.taken tag } = some r := hk
  simp only [trcCommand, owned_serves h, hk']
  exact refuse_taken hs.1.1 code args r

/-- EJECT passes the checks without a session, in the states that take an order and in DEW_HOLD. -/
theorem trcCheck_eject {s : State} {tag} (hs : s.serves tag) (hn : s.sch.session = none)
    (ht : s.trc.takesOrder ∨ s.trc.state = .dewHold) :
   trcCheck 11 { s with clu := s.clu.taken tag } = none := by
  rcases ht with (h|h|h|h|h|h|h|h|h)|h <;> simp [trcCheck, h, State.hasSession, hn]

/-- When EJECT writes the directory first. -/
theorem State.writesBeforeEject_iff (s : State) :
    s.writesBeforeEject = true ↔ s.dir.dirty = true ∧ s.pins.tab = .tabIn ∧ s.dir.state ≠ .unknown := by
  simp [State.writesBeforeEject, and_assoc]

/-! ### Sessions and entries -/

/-- A change of the session that exists. -/
theorem modSession_some {s : State} {x} (h : s.sch.session = some x) (f) :
    modSession f s = s.setSch { s.sch with session := some (f x) } := by simp [modSession, h]

/-- A change of an entry state that no watch follows. -/
theorem setEntryState_quiet {s : State} {k st} (h : (s.timer k).state ≠ .waiting) (h2 : st ≠ EntryState.waiting) :
    setEntryState k st s = modTimer k (fun e => { e with state := st }) s := by
  simp [setEntryState, h, h2]

/-- A change of the session changes nothing else. -/
theorem modSession_frame (f : Session → Session) (s : State) : ∃ y,
    modSession f s = { s with sch := { s.sch with session := y } } := by
  unfold modSession
  cases h : s.sch.session with
  | none =>
    have : ({ s.sch with session := none } : Sch) = s.sch := by rw [← h]
    exact ⟨none, by rw [this]⟩
  | some x => exact ⟨_, rfl⟩

/-- The close notice changes the directory and the session alone. -/
theorem closeNotice_frame (r : EndReason) (s : State) :
    ∃ y d, (closeNotice r s).1 = { s with dir := d, sch := { s.sch with session := y } } := by
  unfold closeNotice
  split
  · exact ⟨s.sch.session, s.dir, rfl⟩
  · dsimp only
    split
    · exact ⟨s.sch.session, _, rfl⟩
    · split
      · obtain ⟨y, hy⟩ := modSession_frame (fun x => { x with entryNo := openNumber (closeImage _ _ r s.dir.image) }) _
        exact ⟨y, _, hy⟩
      · split
        · exact ⟨s.sch.session, _, rfl⟩
        · obtain ⟨y, hy⟩ := modSession_frame (fun x => { x with entryNo := openNumber (closeImage _ _ r s.dir.image) }) _
          exact ⟨y, _, hy⟩

/-- A change of the session leaves the directory. -/
theorem modSession_dir (f : Session → Session) (s : State) : (modSession f s).dir = s.dir := by
  unfold modSession; split <;> rfl

/-- The directory after a close notice depends on the directory alone; a write image plays no part in it. -/
theorem closeNotice_dir {s t : State} {w : Option (List Byte)} (r : EndReason) (h : t.dir = { s.dir with writeImage := w }) :
    (closeNotice r t).1.dir = { (closeNotice r s).1.dir with writeImage := w } ∧ (closeNotice r t).2 = (closeNotice r s).2 := by
  have hr : t.dir.range = s.dir.range := by rw [h]
  have hi : t.dir.image = s.dir.image := by rw [h]
  unfold closeNotice
  rw [hr, hi]
  cases s.dir.range with
  | none => exact ⟨h, rfl⟩
  | some g =>
    dsimp only
    cases g.start with
    | none => exact ⟨by simp [State.setDir, h], rfl⟩
    | some S =>
      dsimp only
      split
      · exact ⟨by simp [setImage, modSession_dir, State.setDir, h], rfl⟩
      · split
        · exact ⟨by simp [State.setDir, h], rfl⟩
        · exact ⟨by simp [setImage, modSession_dir, State.setDir, h], rfl⟩

/-- The directory after a close notice depends on the directory alone. -/
theorem closeNotice_sameDir {s t : State} (r : EndReason) (h : t.dir = s.dir) :
    (closeNotice r t).1.dir = (closeNotice r s).1.dir ∧ (closeNotice r t).2 = (closeNotice r s).2 := by
  have hr : t.dir.range = s.dir.range := by rw [h]
  have hi : t.dir.image = s.dir.image := by rw [h]
  unfold closeNotice
  rw [hr, hi]
  cases s.dir.range with
  | none => exact ⟨h, rfl⟩
  | some g =>
    dsimp only
    cases g.start with
    | none => exact ⟨by simp [State.setDir, h], rfl⟩
    | some S =>
      dsimp only
      split
      · exact ⟨by simp [setImage, modSession_dir, State.setDir, h], rfl⟩
      · split
        · exact ⟨by simp [State.setDir, h], rfl⟩
        · exact ⟨by simp [setImage, modSession_dir, State.setDir, h], rfl⟩

/-- The session is removed at the end of a close, with no command waiting on it. -/
theorem removeSession_free {s : State} (hh : s.trc.held = none) (hc : s.sch.clears = []) :
    removeSession (raise .sessionClose s) =
      State.nearEndTested { s with
        sch := { s.sch with session := none }
        clu := { s.clu with sticky := s.clu.sticky ||| Sticky.sessionClose.mask } } := by
  unfold removeSession
  rw [evalNearEnd_eq]
  congr 1
  simp only [completeWaiting, raise, State.setClu, State.setSch, State.holds, hh, hc]
  simp [hc]

/-- The session removed with nothing deferred, nothing waiting and no rewind due. -/
theorem removeSession_quiet {s : State} (hh : s.trc.held = none) (hc : s.sch.clears = []) (hd : ∀ e ∈ s.sch.timers,
    e.deferred = false)
    (hr : s.trc.rewindDue = false) :
    autoRewind (takeAllDeferred (removeSession (raise .sessionClose s))) =
      State.nearEndTested { s with sch := { s.sch with session := none }, clu := { s.clu with sticky := s.clu.sticky ||| Sticky.sessionClose.mask } } := by
  rw [removeSession_free hh hc]
  generalize hq : ({ s with sch := { s.sch with session := none }, clu := { s.clu with sticky := s.clu.sticky ||| Sticky.sessionClose.mask } } : State) = q
  have hq1 : q.sch.timers = s.sch.timers := by subst hq; rfl
  have hq2 : q.trc = s.trc := by subst hq; rfl
  have e2 : takeAllDeferred q.nearEndTested = q.nearEndTested := by
    unfold takeAllDeferred
    rw [entriesByStart_none]
    · rfl
    · intro k
      rcases q.nearEndTested.timer_mem k with hm | hm
      · exact hd _ (by rw [← hq1]; exact hm)
      · rw [hm]; rfl
  rw [e2, autoRewind, if_neg]
  rintro ⟨h, -⟩
  have : q.trc.rewindDue = true := h
  rw [hq2, hr] at this; cases this

/-- The source of a session is ready while the motors brake: it takes the speed chosen, and its record start order is held. -/
theorem sourceReady_held {u : State} {x : Session} {speed : Speed} {auto : Bool} (hx : u.sch.session = some x)
    (h1 : x.state = .starting) (h2 : u.chooseSpeed x = (speed, auto)) (h3 : u.pins.endSensor = false)
    (h4 : u.trc.state = .stopped) (h5 : u.trc.atRestMark = true) (h6 : x.startPhase ≠ .lockup) :
    sourceReady u =
      let v : State := State.nearEndTested { u with
        lpt := { u.lpt with sessionSource := some x.source }
        sch := { u.sch with
          session := some { x with
            startPhase := .lockup, firstSpeed := some speed, currentSpeed := speed, autoMark := auto, irWait := none } } }
      { v with trc := { v.trc with heldStart := some (speed, true) } } := by
  unfold sourceReady
  simp only [hx]
  rw [if_pos ⟨h1, h6⟩]
  simp only [h2, modSession, hx, State.setSch, State.setLpt, evalNearEnd_eq]
  rw [if_neg]
  · unfold orderStart
    rw [if_pos]
    · rfl
    · right; exact ⟨h4, h5⟩
  · show ¬ u.pins.endSensor = true
    simp [h3]

/-! ### Counters -/

/-- A clamp is a maximum of a minimum. -/
theorem clampInt_eq (n : Nat) (x : Int) : clampInt n x = max (-(n:Int)) (min (n:Int) x) := by
  unfold clampInt; split
  · omega
  · split <;> omega

/-- What a supply reel pulse does to the counter block. -/
theorem Tcb.supplyPulse_eq (t : Tcb) (ms : Nat) : t.supplyPulse ms = { t with
            supplyPeriod := if t.steadyOpen then (if t.supplySeen then some ms else none) else t.supplyPeriod
            supplySeen := t.steadyOpen || t.supplySeen } := by
  unfold Tcb.supplyPulse
  cases ho : t.steadyOpen <;> simp <;> (try rfl) <;> (rw [← ho])

/-! ### The search and the cues -/

/-- The frequency raised within the range. -/
theorem raiseFrequency_low (n : Nat) (u : State) (h : u.tun.search.frequency + n ≤ 17200) :
    raiseFrequency n u = ({ u with tun := { u.tun with search :=
        { u.tun.search with frequency := u.tun.search.frequency + n, phase := .step, count := 0, network := none } } } : State).tuned
        .b .search none (u.tun.search.frequency + n) 0 u.sto.options.defaultCueLine := by
  unfold raiseFrequency
  rw [if_neg (by omega), searchTune, tune_eq]
  rfl

/-- The end of a running search. -/
theorem endSearch_running (res : SearchResult) (u : State) (h : u.tun.search.state = .running) :
    endSearch res u = (({ u with tun := { u.tun with search := { u.tun.search with state := .idle, result := res, count := 0, network := none } } } : State).untuned .b).withSticky
        Sticky.searchEnd.mask := by
  unfold endSearch
  simp only [h, decide_true, if_true, clearTuner_eq]
  rfl

/-- Marking a record leaves the tuners and the options alone. -/
theorem markRecord_tun (n : RecordName) (v : State) :
    (markRecord n v).tun = v.tun ∧ (markRecord n v).sto.options = v.sto.options := by
  unfold markRecord startWrite; split <;> split <;> (try exact ⟨rfl, rfl⟩) <;> split <;> exact ⟨rfl, rfl⟩

/-- A cue becomes current for tuner `x` with nothing scheduled and no search: its record, and the ring or CUE_RING_FULL (R115,
R117). -/
theorem becomesCurrent_idle {x : TunerId} {u : State} {cue : Cue} {c} (hid : u.schedulerIdle)
    (hsr : u.tun.search.state = .idle) (hct : (u.cueRecord x).tuning = some c) :
    becomesCurrent x cue u =
      (let v := setCueRecord x { u.cueRecord x with current := some cue } u
       if u.cue.ring.length < 8 then
         { v with cue := { v.cue with
             ring := u.cue.ring ++ [{ tuner := x, channel := c, cue := cue, at_ := u.clk.now, status := u.clk.status }] } }
       else v.withSticky Sticky.cueRingFull.mask) := by
  have hch : ∀ v : State, v.schedulerIdle → cueChangeNotice c cue v = v := by
    intro v hv; cases c with
    | none => rfl
    | some c => exact cueChangeNotice_idle hv c cue
  have hts : ∀ v : State, cueToSearch (u.searchNaming x) x cue v = v := by
    intro v; simp [cueToSearch, State.searchNaming, hsr]
  have hr : (u.cueRecord x).tuning.bind id = c := by rw [hct]; rfl
  unfold becomesCurrent
  simp only [hr]
  by_cases hl : u.cue.ring.length < 8
  · have : appendRing x c cue (setCueRecord x { u.cueRecord x with current := some cue } u) =
        { setCueRecord x { u.cueRecord x with current := some cue } u with
          cue := { (setCueRecord x { u.cueRecord x with current := some cue } u).cue with
            ring := u.cue.ring ++
              [{ tuner := x, channel := c, cue := cue, at_ := u.clk.now, status := u.clk.status }] } } := by
      cases x <;> exact if_pos hl
    rw [this, hch, hts, if_pos hl]
    cases x <;> exact hid
  · have : appendRing x c cue (setCueRecord x { u.cueRecord x with current := some cue } u) =
        State.withSticky (setCueRecord x { u.cueRecord x with current := some cue } u) Sticky.cueRingFull.mask := by
      cases x <;> exact if_neg hl
    rw [this, hch, hts, if_neg hl]
    cases x <;> exact hid

/-- A cue lost without a session. -/
theorem cueLost_noSession {x : TunerId} {s : State} (h : s.sch.session = none) :
    cueLost x s = setCueRecord x { s.cueRecord x with current := none } s := by
  have hset : (setCueRecord x { s.cueRecord x with current := none } s).sch.session = none := by cases x <;> exact h
  have hab : ∀ c, cueAbsentNotice c (setCueRecord x { s.cueRecord x with current := none } s) = setCueRecord x { s.cueRecord x with current := none } s := by
    intro c
    cases c <;> simp [cueAbsentNotice, hset]
  unfold cueLost
  simp only []
  split
  · rename_i hc
    have : { s.cueRecord x with current := none } = s.cueRecord x := by rw [← hc]
    rw [this]
    cases x <;> rfl
  · rw [hab]

/-- VIEW of a channel does not look at the argument bytes. -/
theorem viewChannel_args {s : State} {n} {c1 c2 : Cmd} (h1 : c1.id = c2.id) (h2 : c1.tag = c2.tag)
    (h3 : c1.code = c2.code) (t : State) : viewChannel n c1 t = viewChannel n c2 t := by
  simp [viewChannel, refuse, reply, h1, h2, h3]

end Sys2Proof.Machine
end

