-- ==== Sys2Proof/Laws/Supply.lean ====
section
/-! SUPPORT. What a mains failure,
    STANDBY and a unit reset do to the blocks; the rows of the catalogue; lines that no field carries. -/

namespace Sys2Proof.Machine

/-! ### Failure, STANDBY and reset -/

/-- The transport at a mains failure. -/
theorem trcFails_eq (s : State) : trcFails s = { s.readCut with
    trc := { (if s.trc.state.isThreaded then { s.trc.restsIn .stopped .idle with servoLocked := false } else s.trc.restsIn s.trc.state .idle : Trc) with
          locate := none, seek := none, pausePoint := none, atRestMark := false, held := none, heldHalt := false
          heldStart := none, heldPause := false, heldResume := none, markDue := false }
    tcb := if s.trc.state.isMotion then { s.tcb.closeWindow with exact := false, pulseSinceExact := false } else s.tcb.closeWindow
    dir := { s.readCut.dir with writeImage := none } } := by
  unfold trcFails
  rw [cutRead_eq]
  by_cases ht : s.trc.state.isThreaded = true
  · cases hm : s.trc.state.isMotion <;>
    simp [ht, hm, enter, Trc.enter, State.setTrc, State.setTcb, State.setDir, TState.isMotion, watchOnEntry,
        Trc.restsIn, Trc.noLimits, positionUnknown, Tcb.closeWindow]
  · have hm : s.trc.state.isMotion = false := by
      cases h : s.trc.state.isMotion
      · rfl
      · simp [TState.isThreaded, h] at ht
    have h2 : s.trc.state ≠ .stopped := by intro h; simp [TState.isThreaded, h] at ht
    have h3 : s.trc.state ≠ .dirWrite := by intro h; rw [h] at hm; cases hm
    simp [ht, hm, h2, h3, enter, Trc.enter, State.setTrc, State.setTcb, State.setDir, watchOnEntry, Trc.restsIn,
        Trc.noLimits, Tcb.closeWindow]

/-- Every block at a mains failure without a session, for a given effect on the search. -/
theorem failBlocks_eq (f : State → State) (s : State) (hs : s.sch.session = none) (r : Search) (cut : Bool)
    (hf : ∀ u : State, u.tun = s.tun → f u = { u with tun := { s.tun with search := r, searchCut := cut } }) :
    failBlocks f s = { s with
        trc := { (if s.trc.state.isThreaded then { s.trc.restsIn .stopped .idle with servoLocked := false } else s.trc.restsIn s.trc.state .idle : Trc) with
          locate := none, seek := none, pausePoint := none, atRestMark := false, held := none, heldHalt := false
          heldStart := none, heldPause := false, heldResume := none, markDue := false }
        tcb := if s.trc.state.isMotion then { s.tcb.closeWindow with
        supplyPeriod := none, takeUpPeriod := none
        staging := { header := none, slots := List.replicate 33 none }, exact := false,
            pulseSinceExact := false } else { s.tcb.closeWindow with
        supplyPeriod := none, takeUpPeriod := none
        staging := { header := none, slots := List.replicate 33 none } }
        dir := { s.readCut.dir with copies := noFragments, collecting := false, blankTest := none, blankTested := false, writeImage := none }
        lpt := { Lpt.reset with ta := { presence := .awaiting, header := none, lastLine := none, silence := none }, tb := { presence := .awaiting, header := none, lastLine := none, silence := none }, aux := { presence := .awaiting, header := none, lastLine := none, silence := none }, play := { presence := .awaiting, header := none, lastLine := none, silence := none }, ctrl := { presence := .awaiting, header := none, lastLine := none, silence := none } }
        tun := { s.tun with
        tunerA := Tuner.cleared, tunerB := Tuner.cleared, ext := ExtRecord.cleared, staging := none, view := none
        search := r, searchCut := cut }
        cue := { a := CueRecord.untuned, b := CueRecord.untuned, ring := [] }
        sch := { s.sch with staging := none, watch := none, settledFigure := none, clears := [] }
        clu := { lineCount := 0, pendingLine := none, inFlight := [], ready := [], reserved := [], sticky := s.clu.sticky, nextId := s.clu.nextId }
        sto := { s.sto with
          reading := none, writing := none
          pendingWrites := match s.sto.writing with
            | none => s.sto.pendingWrites
            | some w => w.1 :: s.sto.pendingWrites.filter (· ≠ w.1) } } := by
  unfold failBlocks
  rw [trcFails_eq]
  have h1 : ∀ u : State, u.sch.session = none → schFails u = { u with sch := { u.sch with watch := none, staging := none, settledFigure := none, clears := [] } } := by
    intro u hu
    simp [schFails, closeByMains, State.setSch, hu]
  dsimp only; rw [hf, h1]
  · cases hw : s.sto.writing with
    | none =>
      cases hm : s.trc.state.isMotion <;>
      simp [tcbCut, State.setTcb, dirCut, State.setDir, clearSources, clearTuner_eq, State.untuned, setView,
          State.setTun, State.setLpt, State.setCue, lptFails, cluDrops, State.setClu, Clu.reset, CueBlock.reset,
          abandonWrite, hw, State.setSto, noFragments, emptyCopies, Lpt.reset, stoppedField, FieldRecord.reset,
          Tcb.closeWindow, hm, ProfileStaging.empty, hs]
    | some w =>
      cases hm : s.trc.state.isMotion <;>
      simp [tcbCut, State.setTcb, dirCut, State.setDir, clearSources, clearTuner_eq, State.untuned, setView,
          State.setTun, State.setLpt, State.setCue, lptFails, cluDrops, State.setClu, Clu.reset, CueBlock.reset,
          abandonWrite, hw, State.setSto, noFragments, emptyCopies, Lpt.reset, stoppedField, FieldRecord.reset,
          Tcb.closeWindow, hm, ProfileStaging.empty, hs]
  · simp [tcbCut, State.setTcb, clearSources, clearTuner_eq, State.untuned, setView, State.setTun, State.setLpt,
      State.setCue, hs]
  · simp [tcbCut, State.setTcb]

/-- The scheduler's part of a mains failure with a session open and nothing deferred. -/
theorem schFails_running {s : State} {x : Session} (ha : s.asleep = true) (hx : s.sch.session = some x)
    (hc : x.state ≠ .closing) (hn : x.clearNote = false) (hd : ∀ e ∈ s.sch.timers, e.deferred = false) :
    schFails s = State.nearEndTested { s with
      dir := (closeNotice .mains s).1.dir
      sch := { s.sch with
        session := none, watch := none, staging := none, settledFigure := none, clears := []
        timers := match x.origin with
          | none => s.sch.timers
          | some k => s.sch.timers.modify k fun e =>
              { e with
                state := .armed, interrupted := true
                outcome := some
                  { lastStart := x.startedAt, lastStop := s.clk.now, reason := .mains, entryNo := (closeNotice .mains s).2
                    notIndexed := x.notIndexed, seamUnlocked := x.seamUnlocked, switched := x.switched } } }
      clu := { s.clu with sticky := s.clu.sticky ||| Sticky.sessionClose.mask } } := by
  let v := s.setSch { s.sch with watch := none }
  obtain ⟨h1, h2⟩ := closeNotice_sameDir (s := s) (t := v) .mains rfl
  obtain ⟨y, d, hy⟩ := closeNotice_frame .mains v
  have hd1 : d = (closeNotice .mains s).1.dir := by
    have : (closeNotice .mains v).1.dir = d := by rw [hy]
    rw [← this, h1]
  have hxv : v.sch.session = some x := hx
  have hre : ∀ u : State, u.asleep = true → reassessWatch u = u := fun u h => by simp [reassessWatch, h]
  have none_def : ∀ u : State, (∀ e ∈ u.sch.timers, e.deferred = false) → takeAllDeferred u = u := by
    intro u h
    unfold takeAllDeferred
    rw [entriesByStart_none]
    · rfl
    · intro k
      rcases u.timer_mem k with hm | hm
      · exact h _ hm
      · rw [hm]; rfl
  let w : State := { v with dir := d, sch := { v.sch with session := y } }
  obtain ⟨z, hz⟩ : ∃ z : Session, z = { x with state := .closing, closeReason := some .mains, byMains := true } := ⟨_, rfl⟩
  have hmain : closeByMains v = takeAllDeferred (evalNearEnd (State.setSch
      (raise .sessionClose (match x.origin with
        | none => w
        | some k => closeEntryOf z (closeNotice .mains s).2 k w))
      { (raise .sessionClose (match x.origin with
        | none => w
        | some k => closeEntryOf z (closeNotice .mains s).2 k w)).sch with
        session := none, clears := [] })) := by
    unfold closeByMains
    rw [hxv]
    dsimp only
    rw [if_neg hc, hy, h2, hz]
    all_goals cases x.origin <;> rfl
  have hce : ∀ k, closeEntryOf z (closeNotice .mains s).2 k w =
      { w with sch := { w.sch with timers := s.sch.timers.modify k fun e =>
              { e with
                state := .armed, interrupted := true
                outcome := some
                  { lastStart := x.startedAt, lastStop := s.clk.now, reason := .mains, entryNo := (closeNotice .mains s).2
                    notIndexed := x.notIndexed, seamUnlocked := x.seamUnlocked, switched := x.switched } } } } := by
    intro k
    unfold closeEntryOf
    rw [hz]
    simp only [hn, Bool.false_eq_true, if_false, Option.getD_some, Bool.or_true, if_true]
    rw [if_neg (by simp)]
    unfold setEntryState
    simp only [modTimer, State.setSch, modify_modify]
    rw [hre _ (by exact ha), ite_self]
    rfl
  unfold schFails
  rw [show s.setSch { s.sch with watch := none } = v from rfl, hmain, evalNearEnd_eq]
  cases ho : x.origin with
  | none =>
    dsimp only
    rw [none_def _ (by exact hd), ← hd1]
    rfl
  | some k =>
    dsimp only
    rw [hce, none_def _ (by exact modify_all (P := fun e : TimerEntry => e.deferred = false) (fun _ h => by exact h) _ k hd), ← hd1]
    rfl

/-- Every block at a mains failure with a session open and nothing deferred, for a given effect on the search: as without a
session, and the session closed MAINS, its entry ARMED and interrupted. -/
theorem failBlocks_running (f : State → State) (s : State) {x : Session} (ha : s.asleep = true) (hx : s.sch.session = some x)
    (hc : x.state ≠ .closing) (hn : x.clearNote = false) (hd : ∀ e ∈ s.sch.timers, e.deferred = false) (r : Search) (cut : Bool)
    (hf : ∀ u : State, u.tun = s.tun → f u = { u with tun := { s.tun with search := r, searchCut := cut } }) :
    failBlocks f s = State.nearEndTested { s with
        trc := { (if s.trc.state.isThreaded then { s.trc.restsIn .stopped .idle with servoLocked := false } else s.trc.restsIn s.trc.state .idle : Trc) with
          locate := none, seek := none, pausePoint := none, atRestMark := false, held := none, heldHalt := false
          heldStart := none, heldPause := false, heldResume := none, markDue := false }
        tcb := if s.trc.state.isMotion then { s.tcb.closeWindow with
        supplyPeriod := none, takeUpPeriod := none
        staging := { header := none, slots := List.replicate 33 none }, exact := false,
            pulseSinceExact := false } else { s.tcb.closeWindow with
        supplyPeriod := none, takeUpPeriod := none
        staging := { header := none, slots := List.replicate 33 none } }
        dir := { (closeNotice .mains s.readCut).1.dir with copies := noFragments, collecting := false, blankTest := none, blankTested := false, writeImage := none }
        lpt := { Lpt.reset with ta := { presence := .awaiting, header := none, lastLine := none, silence := none }, tb := { presence := .awaiting, header := none, lastLine := none, silence := none }, aux := { presence := .awaiting, header := none, lastLine := none, silence := none }, play := { presence := .awaiting, header := none, lastLine := none, silence := none }, ctrl := { presence := .awaiting, header := none, lastLine := none, silence := none } }
        tun := { s.tun with
        tunerA := Tuner.cleared, tunerB := Tuner.cleared, ext := ExtRecord.cleared, staging := none, view := none
        search := r, searchCut := cut }
        cue := { a := CueRecord.untuned, b := CueRecord.untuned, ring := [] }
        sch := { s.sch with
          session := none, staging := none, watch := none, settledFigure := none, clears := []
          timers := match x.origin with
            | none => s.sch.timers
            | some k => s.sch.timers.modify k fun e =>
                { e with
                  state := .armed, interrupted := true
                  outcome := some
                    { lastStart := x.startedAt, lastStop := s.clk.now, reason := .mains
                      entryNo := (closeNotice .mains s.readCut).2, notIndexed := x.notIndexed
                      seamUnlocked := x.seamUnlocked, switched := x.switched } } }
        clu := { lineCount := 0, pendingLine := none, inFlight := [], ready := [], reserved := [], sticky := s.clu.sticky ||| Sticky.sessionClose.mask, nextId := s.clu.nextId }
        sto := { s.sto with
          reading := none, writing := none
          pendingWrites := match s.sto.writing with
            | none => s.sto.pendingWrites
            | some w => w.1 :: s.sto.pendingWrites.filter (· ≠ w.1) } } := by
  unfold failBlocks
  rw [hf _ (by rw [trcFails_eq]; simp [tcbCut, State.setTcb])]
  dsimp only
  obtain ⟨u, hu⟩ : ∃ u, u = (clearSources { tcbCut (trcFails s) with
      tun := { s.tun with search := r, searchCut := cut } }).setCue CueBlock.reset := ⟨_, rfl⟩
  have hu' := hu
  rw [trcFails_eq] at hu'
  simp only [tcbCut, State.setTcb, clearSources, clearTuner_eq, State.untuned, setView, State.setTun, State.setLpt,
    State.setCue] at hu'
  have u1 : u.sch = s.sch := by rw [hu']; exact State.readCut_sch s
  have u2 : u.dir = { s.readCut.dir with writeImage := none } := by rw [hu']; all_goals rfl
  have u3 : u.clk = s.clk := by rw [hu']; exact State.readCut_clk s
  have u4 : u.clu = s.clu := by rw [hu']; exact State.readCut_clu s
  have u5 : u.sto = s.sto := by rw [hu']; exact State.readCut_sto s
  obtain ⟨c1, c2⟩ := closeNotice_dir (s := s.readCut) (t := u) .mains u2
  rw [← hu, schFails_running (s := u) (by unfold State.asleep; rw [u5]; exact ha) (by rw [u1]; exact hx) hc hn (by rw [u1]; exact hd),
    c1, c2, u1, u3, u4]
  · rw [hu']
    cases hw : s.sto.writing with
    | none =>
      cases hm : s.trc.state.isMotion <;> cases ht : s.trc.state.isThreaded <;>
      simp [State.nearEndTested, State.speedInForce, dirCut, State.setDir,
          State.setLpt, lptFails, cluDrops, State.setClu, Clu.reset, CueBlock.reset,
          abandonWrite, hw, State.setSto, noFragments, emptyCopies, Lpt.reset, stoppedField, FieldRecord.reset,
          Tcb.closeWindow, hm, ProfileStaging.empty] <;> (try (split <;> rfl))
    | some w =>
      cases hm : s.trc.state.isMotion <;> cases ht : s.trc.state.isThreaded <;>
      simp [State.nearEndTested, State.speedInForce, dirCut, State.setDir,
          State.setLpt, lptFails, cluDrops, State.setClu, Clu.reset, CueBlock.reset,
          abandonWrite, hw, State.setSto, noFragments, emptyCopies, Lpt.reset, stoppedField, FieldRecord.reset,
          Tcb.closeWindow, hm, ProfileStaging.empty] <;> (try (split <;> rfl))

/-- The transport when STANDBY is entered, with no command held. -/
theorem trcStandby_eq {s : State} (h : s.trc.held = none) :
    trcStandby s = if s.trc.state.isUserMode then s.readCut.transportTo s.trc.stops else s := by
  unfold trcStandby
  split
  · simp only [cutRead_eq, stopTape_eq, completeHeld]
    have : (s.readCut.transportTo s.readCut.trc.stops).trc.held = none := by simp [State.transportTo, Trc.stops,
        Trc.noLimits, h]
    rw [this]; simp
  · rfl

/-- The TRC reset of a threaded tape without a session or dew. -/
theorem trcReset_eq {s : State} (hn : s.sch.session = none) (h1 : s.pins.cassette = .home)
    (h2 : s.pins.threaded = true) (h3 : s.pins.dew = false) :
   trcReset s = s.readCut.transportTo { s.trc.stops with held := none, pausePoint := none, heldHalt := false, heldStart := none, heldPause := false, heldResume := none, markDue := false } := by
  simp only [trcReset, cutRead_eq, stateBySwitches, State.readCut_pins, h1, h2, h3, if_true, stopTape_eq]
  simp [reportClose, State.setTrc, State.transportTo, hn, Trc.stops]

/-- With no command of an owner in flight nothing is cancelled. -/
theorem cancelOwner_none {s : State} {o : OwnerBlock} (h : ∀ f ∈ s.clu.inFlight, f.owner ≠ o) :
    cancelOwner o s = s := by
  unfold cancelOwner
  have : (s.clu.inFlight.filter fun f => f.owner = o) = [] := by
    rw [List.filter_eq_nil_iff]; intro f hf; simpa using h f hf
  rw [this]; rfl

/-- A command is answered DONE after another was completed. -/
theorem done_completed {s t : State} {tag : Byte} {f : InFlight} {o : ReplyOutcome} {r : Reason}
    (hs : s.ControlPathSound) (hid : f.id < s.clu.nextId)
   (h : t.clu = (s.clu.taken tag).completed f o r) (code args) :
       done (s.clu.cmd tag code args) t = { t with clu := (s.clu.completed f o r).answered tag code .done .none [] } := by
  have hne : s.clu.nextId ≠ f.id := by omega
  have hfr := hs.fresh
  simp only [done, reply, h, State.setClu]
  by_cases ht : tag = 0
  · have : s.clu.nextId ∉ s.clu.reserved.erase f.id := fun hm => hfr (List.mem_of_mem_erase hm)
    simp [Clu.answer, Clu.completed, Clu.taken, Clu.answered, ht, this]
  · have hb : ¬ tag = 0#8 := ht
    by_cases hr : f.id ∈ s.clu.reserved
    · have h1 : (s.clu.reserved ++ [s.clu.nextId]).erase f.id = s.clu.reserved.erase f.id ++ [s.clu.nextId] := List.erase_append_left _ hr
      have h2 : s.clu.nextId ∉ s.clu.reserved.erase f.id := fun hm => hfr (List.mem_of_mem_erase hm)
      have h3 : (s.clu.reserved.erase f.id ++ [s.clu.nextId]).erase s.clu.nextId = s.clu.reserved.erase f.id := by
        rw [List.erase_append_right _ h2]; simp
      simp [Clu.answer, Clu.completed, Clu.taken, Clu.answered, hb, hr, h1, h3]
    · have h1 : (s.clu.reserved ++ [s.clu.nextId]).erase f.id = s.clu.reserved ++ [s.clu.nextId] := List.erase_of_not_mem (by simp [hr]; exact Ne.symm hne)
      have h4 : s.clu.reserved.erase f.id = s.clu.reserved := List.erase_of_not_mem hr
      have h3 : (s.clu.reserved ++ [s.clu.nextId]).erase s.clu.nextId = s.clu.reserved := by
        rw [List.erase_append_right _ hfr]; simp
      simp [Clu.answer, Clu.completed, Clu.taken, Clu.answered, hb, hr, h1, h3, h4, Ne.symm hne]

/-! ### Lines and rows -/

/-- A line that the MON field does not carry. -/
theorem monLine_uncarried {i n p} {s t : State} (h : t.lpt.mon = s.lpt.mon) (hu : ∀ m ∈ s.lpt.mon,
    ¬ (m.source = some i ∧ m.sending = true)) : monLine i n p t = t := by
  unfold monLine
  rw [h]
  cases hm : s.lpt.mon with
  | none => rfl
  | some m => simp only []; rw [if_neg (hu m hm)]

/-- A line that the REC field does not carry. -/
theorem recLine_uncarried {i n p} {s t : State} (h : t.lpt.recField = s.lpt.recField) (hu : ∀ m ∈ s.lpt.recField,
    ¬ (m.source = some i ∧ m.sending = true)) : recLine i n p t = t := by
  unfold recLine
  rw [h]
  cases hm : s.lpt.recField with
  | none => rfl
  | some m => simp only []; rw [if_neg (fun h => hu m hm ⟨h.1, h.2.1⟩)]

/-- A header of a tuner that no one owns. -/
theorem receiveHeader_idle {x g a} {s : State} (h1 : (s.tuner x).owner = .none)
    (h2 : s.cueRecord x = CueRecord.untuned) : receiveHeader x g a s = s := by
  have ht : ∀ b, tunerHeader x b g a s = s := by intro b; simp [tunerHeader, tunHeader, h1]
  have hc : ∀ b, cueHeader x b s = s := by intro b; simp [cueHeader, h2, CueRecord.untuned]
  unfold receiveHeader
  simp only [ht, hc]
  simp [h2, CueRecord.untuned]

/-- The row of a code is the command of that code. -/
theorem exec_rowOfCode (code tag : Byte) (args : List Byte) (s : State) :
    exec (rowOfCode code tag args) s = .next (takeCommand tag code.toNat args (commandOp code.toNat) s) := by
  unfold rowOfCode
  split <;> first
    | (rename_i h; rw [h]; rfl)
    | rfl
    | (simp only [exec, execUnknownCommand])

end Sys2Proof.Machine
end

