-- ==== Sys2Proof/Laws/LinePort.lean ====
section
/-! SUPPORT. What the line port does with a line of a tuner: the fields it joins, and the decode it reaches cue capture as. -/

namespace Sys2Proof.Machine

/-- A line joins the outbound fields that carry its stream. -/
theorem lineSeen_eq (i : Inbound) (line : Nat) (p : Payload) (s : State) :
    recLine i line p (monLine i line p (setField i { s.lpt.field i with lastLine := some line } s)) = s.lineSeen i line p := by
  have hm : (setField i { s.lpt.field i with lastLine := some line } s).lpt.mon = s.lpt.mon := by cases i <;> rfl
  have hr : (setField i { s.lpt.field i with lastLine := some line } s).lpt.recField = s.lpt.recField := by cases i <;> rfl
  have hs : ∀ x, (setField i { s.lpt.field i with lastLine := some line } s).settling x = s.settling x := by
    intro x; cases i <;> cases x <;> rfl
  have hb : ((tunerOf i).any fun x => decide (s.settling x = .tune)) = true ↔
      (i = .ta ∧ s.settling .a = .tune) ∨ (i = .tb ∧ s.settling .b = .tune) := by
    cases i <;> simp [tunerOf]
  unfold State.lineSeen
  generalize hu : setField i { s.lpt.field i with lastLine := some line } s = u at hm hr hs
  have h1 : monLine i line p u = { u with lpt := { u.lpt with mon := s.lpt.mon.map (fun m =>
      if m.source = some i ∧ m.sending then
        { m with
          lines := m.lines ++ [if (i = .ta ∧ s.settling .a = .tune) ∨ (i = .tb ∧ s.settling .b = .tune)
            then OutLine.black line else .passed line p]
          sending := line ≠ 313 }
      else m) } } := by
    unfold monLine
    cases h : s.lpt.mon with
    | none => simp only [hm, h]; rw [Option.map_none, ← h, ← hm]
    | some m =>
      simp only [hm, h, Option.map_some]
      split
      · simp only [State.setLpt, moreAfter, hs]
        congr 5
        by_cases hc : (i = .ta ∧ s.settling .a = .tune) ∨ (i = .tb ∧ s.settling .b = .tune)
        · rw [if_pos (hb.2 hc), if_pos hc]
        · rw [if_neg (fun h => hc (hb.1 h)), if_neg hc]
      · rw [← h, ← hm]
  rw [h1]
  unfold recLine
  cases h : s.lpt.recField with
  | none => simp only [hr, h]; rw [Option.map_none]
  | some r =>
    simp only [hr, h, Option.map_some]
    split <;> simp only [State.setLpt, moreAfter]

/-- A line of a tuner that is heard is taken into its field and handed on. -/
theorem linePacket_hears {s : State} {x : TunerId} {line : BitVec 16} {bytes : List (Byte × Bool)} (h : s.hears x line bytes) :
    linePacket (streamOf x) line.toNat (.data bytes) s =
      handData (streamOf x) line.toNat (bytes.map Prod.fst) (s.lineSeen (streamOf x) line.toNat (.data bytes)) := by
  obtain ⟨-, h1, h2, h3, h4, h5, h6, -, -⟩ := h
  have hf : lineFits (s.lpt.field (streamOf x)) line.toNat = true := by
    unfold lineFits FieldRecord.isOpen
    cases hl : (s.lpt.field (streamOf x)).lastLine with
    | none => simp [h1, h3, h4, Option.isSome_iff_ne_none, h2]
    | some l => simp [h1, h3, h4, Option.isSome_iff_ne_none, h2, h5 l (by rw [hl]; rfl)]
  have hp : passes (.data bytes) = true := by
    simp only [passes, List.all_eq_true]
    intro b hb
    exact decide_eq_true (h6 b hb)
  unfold linePacket
  simp only [hf, if_true, lineTaken, hp, lineSeen_eq, handLine]

/-- A CUE or TIME line that is heard reaches cue capture. -/
theorem exec_cueLine {s : State} {x : TunerId} {line : BitVec 16} {bytes : List (Byte × Bool)} (h : s.hears x line bytes)
    {kind : Byte} {head content : List Byte} (hb : bytes.map Prod.fst = kind :: (head ++ content)) (hl : head.length = 4)
    (hk : kind = 1 ∨ kind = 2) :
    Sys2Proof.Machine.exec (.linePacket (streamOf x) line (.data bytes)) s =
      .next (cueLineTaken x kind content (s.lineSeen (streamOf x) line.toNat (.data bytes))) := by
  show Host.Outcome.next (awake (linePacket (streamOf x) line.toNat (.data bytes)) s) = _
  rw [awake_apply h.1, linePacket_hears h, hb]
  have hcl : (s.lineSeen (streamOf x) line.toNat (.data bytes)).cueLine x = some line.toNat := by
    rw [← h.2.2.2.2.2.2.2.1]; cases x <;> rfl
  have hst : (s.lineSeen (streamOf x) line.toNat (.data bytes)).settling x = .none := by
    rw [← h.2.2.2.2.2.2.2.2]; cases x <;> rfl
  have hd : (kind :: (head ++ content)).drop 5 = content := by
    simp [hl]
  have : handData (streamOf x) line.toNat (kind :: (head ++ content)) (s.lineSeen (streamOf x) line.toNat (.data bytes)) =
      tunerData x line.toNat (kind :: (head ++ content)) (s.lineSeen (streamOf x) line.toNat (.data bytes)) := by cases x <;> rfl
  rw [this, tunerData, hd]
  simp only [hcl, hst, List.getD_cons_zero, true_and]
  rw [if_pos hk]

/-- A line that confirms a cue makes it current, in the ring, and known to the scheduler and the search. -/
theorem exec_confirms {s : State} {x : TunerId} {line : BitVec 16} {bytes : List (Byte × Bool)} {cue : Cue}
    (h : s.confirms x line bytes cue) {c : Option Nat} (hc : (s.cueRecord x).tuning = some c) :
    Sys2Proof.Machine.exec (.linePacket (streamOf x) line (.data bytes)) s =
      .next (cueToSearch (s.searchNaming x) x cue (cueChangeNotice c cue (s.cueHeard x line bytes cue))) := by
  obtain ⟨hh, ht, hl, hn, head, rest, b1, b2, day, month, hour, minute, status, hb, h4, e1, e2, e3⟩ := h
  rw [exec_cueLine hh (content := [b1, b2, day, month, hour, minute, status] ++ rest) (by rw [hb]; simp) h4 (.inl rfl)]
  generalize hu : s.lineSeen (streamOf x) line.toNat (.data bytes) = u
  have hr : u.cueRecord x = s.cueRecord x := by rw [← hu]; cases x <;> rfl
  have hdec : decodeCue ([b1, b2, day, month, hour, minute, status] ++ rest) = some cue := by
    have k1 : cueStatusOf status = some cue.status := by
      rcases e2 with ⟨a, b⟩ | ⟨a, b⟩ | ⟨a, b⟩ <;> rw [a, b] <;> rfl
    have k2 : cueLabelOf day.toNat month.toNat hour.toNat minute.toNat = some cue.label := by
      rcases e3 with ⟨a1, a2, a3, a4, a5, a6, a7⟩ | ⟨a1, a2, a3, a4, a7⟩
      · rw [cueLabelOf, if_neg (by omega), a7]
        simp [Label.inRange, a1, a2, a3, a4, a5, a6]
      · rw [a7, a1, a2, a3, a4]; rfl
    have k3 : numAt ([b1, b2, day, month, hour, minute, status] ++ rest) 1 2 = cue.network := by
      rw [e1]; simp [numAt, List.range_succ, byteAt]
    unfold decodeCue
    simp only [byteAt, List.cons_append, List.getD_cons_succ, List.getD_cons_zero, Nat.reduceSub, List.nil_append, k1, k2]
    simp only [List.cons_append, List.nil_append] at k3
    simp only [k3]
  have hk : cueLineTaken x 1 ([b1, b2, day, month, hour, minute, status] ++ rest) u = takeCue x cue u := by
    rw [cueLineTaken, hr, hc, hdec, if_pos ⟨rfl, ht⟩]; rfl
  rw [hk]
  have hset : ∀ r v, (setCueRecord x r v).cueRecord x = r := by intro r v; cases x <;> rfl
  have hrec : ({ s.cueRecord x with lastCue := some cue, age := 0, current := some cue } : CueRecord) =
      { s.cueRecord x with age := 0, current := some cue } := by rw [← hl]
  have hring : appendRing x c cue (setCueRecord x { s.cueRecord x with age := 0, current := some cue } u) =
      s.cueHeard x line bytes cue := by
    have hc' : (s.cueRecord x).tuning.getD none = c := by rw [hc]; rfl
    have e1 : (setCueRecord x { s.cueRecord x with age := 0, current := some cue } u).cue.ring = s.cue.ring := by
      rw [← hu]; cases x <;> rfl
    have e2 : (setCueRecord x { s.cueRecord x with age := 0, current := some cue } u).clk = s.clk := by
      rw [← hu]; cases x <;> rfl
    unfold State.cueHeard appendRing
    rw [e1, e2, hc', hu]
    split <;> rfl
  have hnam : ∀ r, (setCueRecord x r u).searchNaming x = s.searchNaming x := by
    intro r; rw [← hu]; cases x <;> rfl
  congr 1
  unfold takeCue
  simp only [hr]
  rw [if_pos ⟨hl, hn⟩]
  unfold becomesCurrent
  simp only [hset, hnam]
  rw [hrec, ← hring, hc]
  have hover : ∀ r r' v, setCueRecord x r (setCueRecord x r' v) = setCueRecord x r v := by intro r r' v; cases x <;> rfl
  simp only [hover, Option.bind_some, id_eq]

/-- The fields that carried a stream end with its next header. -/
theorem finishFields_eq (i : Inbound) (s : State) : finishFields i s = s.fieldsEnded i := by
  have h1 : MonField.finishedBy i = fun m => { m with sending := m.sending && decide (m.source ≠ some i) } := by
    funext m; unfold MonField.finishedBy; split <;> rename_i h <;> simp [h]
  have h2 : RecField.finishedBy i = fun m => { m with sending := m.sending && decide (m.source ≠ some i) } := by
    funext m; unfold RecField.finishedBy; split <;> rename_i h <;> simp [h]
  rw [finishFields, h1, h2]
  rfl

/-- A header of a stream that MON and REC do not carry begins no outbound field. -/
theorem outboundFields_uncarried {i : Inbound} {h : Header} {real : Bool} {s : State} (hm : s.monChoice ≠ .stream i)
    (hr : s.recChoice ≠ .stream i) : outboundFields i h real s = s.fieldsEnded i := by
  have e1 : (s.fieldsEnded i).monChoice = s.monChoice := rfl
  have e2 : (s.fieldsEnded i).recChoice = s.recChoice := rfl
  unfold outboundFields
  rw [finishFields_eq]
  simp only [e1, e2, hm, hr, false_and, if_false]

/-- The end of a directory write, as the statements say it (R18, R74). -/
theorem dirWritten_iff {s : State} : (s.trc.state = .dirWrite ∧ s.dirWritten) ↔ s.lastFrameOnRec := by
  unfold State.dirWritten RecField.closesRegion
  simp only [Bool.and_eq_true, decide_eq_true_eq, State.lastFrameOnRec, and_assoc]
  cases hr : s.lpt.recField with
  | none => simp
  | some r =>
    cases hf : r.frame with
    | none => simp [hf]
    | some n => simp [hf]

end Sys2Proof.Machine
end

