-- ==== Sys2Proof/Laws/Occurrence.lean ====
section
/-! SUPPORT. What an occurrence of one timer entry does when it is missed, or opens its session, and when a whole minute
comes. -/

namespace Sys2Proof.Machine

/-- After one entry was changed, and not into WAITING, still nothing is watched. -/
theorem watchesNothing_modified {s u : State} (h : s.watchesNothing) (k : Nat) {f : TimerEntry → TimerEntry}
    (hf : ∀ e, e.state ≠ .waiting → (f e).state ≠ .waiting) (hw : u.sch.watch = none)
    (ht : u.sch.timers = s.sch.timers.modify k f) : u.watchesNothing :=
  ⟨hw, by rw [ht]; exact modify_all (P := fun e : TimerEntry => e.state ≠ .waiting) hf _ k h.2⟩

/-- The second event that ends a minute within the calendar: the clock ticks, and the table is evaluated. -/
theorem exec_secondEvent_minute {s : State} (hsec : s.clk.now.second = 59)
    (hdate : s.clk.now.date ≠ { day := 31, month := 12, year := 99 }) :
    exec .secondEvent s = .next (evaluateTable { s with clk := { s.clk with
      now := s.clk.now.secondLater, dow := s.clk.now.secondLater.date.dow } }) := by
  have htick : s.clk.now.tick = s.clk.now.secondLater ∧ s.clk.now.secondLater.second = 0 := by
    unfold DateTime.tick DateTime.secondLater
    rw [hsec]
    simp only [Nat.lt_irrefl, if_false, hdate]
    refine ⟨?_, ?_⟩
    · trivial
    · split <;> [rfl; (split <;> rfl)]
  have hlast : s.clk.now ≠ lastSecond := by
    intro h; apply hdate; rw [h]; rfl
  refine congrArg Host.Outcome.next ?_
  simp only [secondEvent, hlast, if_false, htick.1, htick.2, if_true, State.setClk]

/-- A miss of an occurrence that was not interrupted writes the scheduler's own outcome (R144). -/
theorem outcomeOfMiss_fresh {e : TimerEntry} (r : EndReason) (s : State) (h : e.interrupted = false) :
    outcomeOfMiss r s e = missedOutcome r s := by simp [outcomeOfMiss, h]

/-- The occurrence of a ONCE entry that is not WAITING is missed: MISSED with the outcome of the miss, and ENTRY_MISSED. -/
theorem missOccurrence_once {s : State} {k : Nat} {e : TimerEntry} {t : TimerDef} {date : Date} (r : EndReason)
    (hk : s.sch.timers[k]? = some e) (he : e.state ≠ .waiting) (ht : e.defn = some t) (hrep : t.rep = .once date) :
    missOccurrence k r s = State.withSticky { s with sch := { s.sch with timers := s.sch.timers.modify k fun e =>
      { e with state := .missed, outcome := some (outcomeOfMiss r s e), deferred := false, interrupted := false } } }
      Sticky.entryMissed.mask := by
  have hw : ((modTimer k (fun e => { e with outcome := some (outcomeOfMiss r s e) }) s).timer k).state ≠ .waiting := by
    simp only [State.timer, modTimer, State.setSch, List.getD, List.getElem?_modify_eq, hk]
    simpa using he
  simp only [missOccurrence, occurrenceEnds, hw, if_false]
  simp only [modTimer, State.setSch, modify_modify, raise, State.setClu]
  have h : (s.sch.timers.modify k fun e => afterOccurrence false (State.nowSeconds { s with sch := { s.sch with
        timers := s.sch.timers.modify k fun e => { e with outcome := some (outcomeOfMiss r s e) } } })
        { e with outcome := some (outcomeOfMiss r s e) }) = s.sch.timers.modify k (fun e =>
      { e with state := .missed, outcome := some (outcomeOfMiss r s e), deferred := false, interrupted := false }) := by
    apply modify_congr_at
    intro e' he'
    rw [hk] at he'; cases he'
    simp [afterOccurrence, ht, hrep]
  simp only [h]
  rfl

/-- The session that timer entry `k` opens on an AIR channel. -/
abbrev timerSession (k d : Nat) (t : TimerDef) (rule : StopRule) : Session :=
  newSession (some k) t.channel .air (some (t.startOn d, t.stopOn d)) rule t.label t.speed.before

/-- A timer session of an AIR channel opens on a stopped tape with no view: the record, tuner A tuned for RECORD, and a pending
auto-rewind dropped. -/
theorem openTimerSession_air {s : State} {k d : Nat} {e : TimerEntry} {t : TimerDef} {ch : Channel} {f : Nat} {fine : Int}
    (rule : StopRule) (hk : s.sch.timers[k]? = some e) (ht : e.defn = some t) (hd : e.next = some d)
    (hch : s.channel t.channel = some ch) (hair : ch.tuning = .air f fine) (hv : s.tun.view = none)
    (hst : s.trc.state = .stopped) (hw : s.watchesNothing) :
    let w : State := State.nearEndTested { s with sch := { s.sch with
      session := some (timerSession k d t rule)
      timers := s.sch.timers.modify k fun e => { e with deferred := false } } }
    openTimerSession k rule s =
      State.tuned { w with trc := { s.trc with rewindDue := false } } .a .record (some t.channel) f fine (s.lineOf ch) := by
  intro w
  have htim : s.timer k = e := by simp [State.timer, List.getD, hk]
  have hsk : s.sourceKind t.channel = .air := by
    simp [State.sourceKind, State.channelIsExt, hch, Channel.isExt, hair]
  have hoc : e.occurrence = some (t.startOn d, t.stopOn d) := by simp [TimerEntry.occurrence, ht, hd]
  unfold openTimerSession
  simp only [htim, ht, hoc, hsk]
  show openSession (timerSession k d t rule) _ = _
  unfold openSession
  rw [evalNearEnd_eq]
  have h1 : orderHalt w = { w with trc := { s.trc with rewindDue := false } } := by
    have : w.trc = s.trc := rfl
    simp [orderHalt, this, hst, TState.isUserMode, State.setTrc]
  have h0 : State.nearEndTested ((modTimer k (fun e => { e with deferred := false }) s).setSch
      { (modTimer k (fun e => { e with deferred := false }) s).sch with
        session := some (timerSession k d t rule) }) = w := rfl
  rw [h0, h1]
  have h2 : displaceViewFromA { w with trc := { s.trc with rewindDue := false } } =
      { w with trc := { s.trc with rewindDue := false } } := by
    have : w.tun.view = none := hv
    simp [displaceViewFromA, this]
  have h3 : grantRecord .air t.channel { w with trc := { s.trc with rewindDue := false } } =
      State.tuned { w with trc := { s.trc with rewindDue := false } } .a .record (some t.channel) f fine (s.lineOf ch) := by
    show tuneChannel .a .record t.channel (displaceViewFromA _) = _
    rw [h2]
    exact tuneChannel_air (s := { w with trc := { s.trc with rewindDue := false } }) hch hair .a .record
  show reassessWatch (grantRecord .air t.channel _) = _
  rw [h3]
  exact reassessWatch_nothing (watchesNothing_modified hw k (fun _ h => by exact h) hw.1 rfl)

/-- An attempt of an entry with nothing in its way opens the session. -/
theorem attempt_opens {s : State} {k : Nat} (rule : StopRule) (hc : s.clk.status ≠ .unset) (hx : s.sch.session = none)
    (hh : s.hindrance = none) : attempt k rule s = openTimerSession k rule s := by
  unfold attempt
  rw [if_neg hc]
  simp [State.hasSession, hx, hh]

/-- Nothing hinders a session when the tape stands in STOPPED, its tab is in and it is not at its end. -/
theorem hindrance_stopped {s : State} (ha : s.asleep = false) (hst : s.trc.state = .stopped) (ht : s.pins.tab = .tabIn)
    (hl : s.trc.endLatch = false) : s.hindrance = none := by
  simp [State.hindrance, ha, hst, ht, hl]

/-- The evaluation of a table in which one entry stands, without a session: that entry, and then the watch. -/
theorem evaluateTable_single {s : State} {k a b : Nat} {e : TimerEntry} (hk : k < 16)
    (ht : s.sch.timers = (List.replicate 16 TimerEntry.empty).set k e) (ho : e.occurrence = some (a, b))
    (hs : evalSession s = s) (hc : s.clk.status ≠ .unset) : evaluateTable s = reassessWatch (evalEntry k s) := by
  unfold evaluateTable
  rw [if_neg hc]
  simp only [hs, entriesByStart_single hk ht ho, List.foldl_cons, List.foldl_nil]

/-- An entry of clock-timed kind that waits for its occurrence, at an evaluation. -/
theorem evalEntry_clock {s : State} {k d : Nat} {e : TimerEntry} {t : TimerDef} (hk : s.timer k = e) (hs : e.state = .armed)
    (ht : e.defn = some t) (hd : e.next = some d) (hl : t.label = none) (hr : s.runningEntry ≠ some k) :
    evalEntry k s = evalClockEntry k (t.startOn d) (t.stopOn d) s := by
  have hoc : e.occurrence = some (t.startOn d, t.stopOn d) := by simp [TimerEntry.occurrence, ht, hd]
  unfold evalEntry
  rw [if_neg hr]
  simp only [hk, hs, hoc, TimerEntry.labelled, ht]
  simp [hl]

end Sys2Proof.Machine
end

