-- ==== Sys2Proof/Laws/Sources.lean ====
section
/-! SUPPORT. What the operations on tuners, the search and the external box leave as it was, and what they change. -/

namespace Sys2Proof.Machine

/-- The word of a tuner just tuned follows its record (R84). -/
theorem wordSound_tunedTo (owner : Owner) (channel : Option Nat) (f : Nat) (fine : Int) (line : Nat) :
    (Tuner.tunedTo owner channel f fine line).WordSound (some (wordFor f fine)) := by
  refine ⟨by simp [Tuner.tunedTo], by simp [Tuner.tunedTo], ?_⟩
  intro g hg
  simp only [Tuner.tunedTo, Option.mem_def, Option.some.injEq] at hg
  subst hg
  simp [wordFor, bandOf, Tuner.tunedTo]

/-- A cleared tuner has no frequency, so any last word is sound (R82). -/
theorem wordSound_cleared (w : Option SynthWord) : Tuner.cleared.WordSound w :=
  ⟨by decide, by decide, fun _ hg => nomatch hg⟩

/-- A word computed from a record follows every record of the same frequency and offsets (R84). -/
theorem wordSound_synthWord {t u : Tuner} (range : -24 ≤ t.afc ∧ t.afc ≤ 24) (afc : u.afc = t.afc)
    (frequency : u.frequency = t.frequency) (fine : u.fine = t.fine) : u.WordSound t.synthWord := by
  refine ⟨by rw [afc]; exact range.1, by rw [afc]; exact range.2, ?_⟩
  intro g hg
  rw [frequency] at hg
  simp only [Option.mem_def] at hg
  simp [Tuner.synthWord, hg, afc, fine]

/-- A tune of tuner A to a channel changes in the tuning controller its record and its word alone. -/
theorem tuneChannel_a (o : Owner) (c : Nat) (s : State) : ∃ r w,
    (tuneChannel .a o c s).tun = { s.tun with tunerA := r, wordA := w } ∧ r.owner = o ∧ r.WordSound w ∧
    (tuneChannel .a o c s).sto = s.sto := by
  unfold tuneChannel
  dsimp only
  split <;> rw [tune_eq] <;> exact ⟨_, _, rfl, rfl, wordSound_tunedTo _ _ _ _ _, rfl⟩

/-- A tune of tuner B to a channel changes in the tuning controller its record and its word alone. -/
theorem tuneChannel_b (o : Owner) (c : Nat) (s : State) : ∃ r w,
    (tuneChannel .b o c s).tun = { s.tun with tunerB := r, wordB := w } ∧ r.owner = o ∧ r.WordSound w ∧
    (tuneChannel .b o c s).sto = s.sto := by
  unfold tuneChannel
  dsimp only
  split <;> rw [tune_eq] <;> exact ⟨_, _, rfl, rfl, wordSound_tunedTo _ _ _ _ _, rfl⟩

/-- A search tune puts tuner B on the search's frequency for SEARCH (R103). -/
theorem searchTune_b (s : State) : ∃ r w,
    (searchTune s).tun = { s.tun with tunerB := r, wordB := w } ∧ r.owner = .search ∧
    r.frequency = some s.tun.search.frequency ∧ r.WordSound w ∧ (searchTune s).sto = s.sto := by
  unfold searchTune
  rw [tune_eq]
  exact ⟨_, _, rfl, rfl, rfl, wordSound_tunedTo _ _ _ _ _, rfl⟩

/-- No search runs after a suspension (R103). -/
theorem suspendSearch_notRunning (s : State) : (suspendSearch s).tun.search.state ≠ .running := by
  unfold suspendSearch
  split
  · simp [modSearch]
  · assumption

/-- A suspension changes the search record alone. -/
theorem suspendSearch_frame (s : State) :
    (suspendSearch s).tun.view = s.tun.view ∧ (suspendSearch s).tun.tunerA = s.tun.tunerA ∧
    (suspendSearch s).tun.tunerB = s.tun.tunerB ∧ (suspendSearch s).tun.ext = s.tun.ext ∧
    (suspendSearch s).sto = s.sto := by
  unfold suspendSearch; split <;> exact ⟨rfl, rfl, rfl, rfl, rfl⟩

/-- A release of tuner B leaves tuner A, the box and the view as they were. -/
theorem releaseB_frame (s : State) :
    (releaseB s).tun.view = s.tun.view ∧ (releaseB s).tun.tunerA = s.tun.tunerA ∧
    (releaseB s).tun.ext = s.tun.ext ∧ (releaseB s).sto = s.sto := by
  unfold releaseB
  split
  · unfold searchTakesB
    obtain ⟨r, w, ht, ho, hf, hw, hs⟩ :=
      searchTune_b (modSearch (fun r => { r with state := .running, count := 0, network := none }) s)
    rw [ht, hs]; exact ⟨rfl, rfl, rfl, rfl⟩
  · rw [clearTuner_eq]; exact ⟨rfl, rfl, rfl, rfl⟩

/-- A grant of the box leaves the tuners, their words, the search and the view as they were. -/
theorem grantExt_frame (o : Owner) (c : Nat) (s : State) :
    (grantExt o c s).tun.tunerA = s.tun.tunerA ∧ (grantExt o c s).tun.tunerB = s.tun.tunerB ∧
    (grantExt o c s).tun.wordA = s.tun.wordA ∧ (grantExt o c s).tun.wordB = s.tun.wordB ∧
    (grantExt o c s).tun.search = s.tun.search ∧ (grantExt o c s).tun.view = s.tun.view ∧
    (grantExt o c s).tun.ext.owner = o ∧ (grantExt o c s).sto = s.sto := by
  unfold grantExt sendKeys; split <;> exact ⟨rfl, rfl, rfl, rfl, rfl, rfl, rfl, rfl⟩

/-- A release of one source leaves the owners of the others as they were. -/
theorem releaseSource_owner {v w : ViewSource} (n : v ≠ w) (s : State) :
    (releaseSource v s).ownerOf w = s.ownerOf w := by
  unfold releaseSource
  split
  · rw [clearTuner_eq]; rcases w with _ | _ | _ <;> first | exact absurd rfl n | rfl
  · obtain ⟨_, h2, h3, _⟩ := releaseB_frame s
    rcases w with _ | _ | _ <;> first | exact absurd rfl n | simp only [State.ownerOf, h2, h3]
  · rcases w with _ | _ | _ <;> first | exact absurd rfl n | rfl

/-- A word sent to tuner A changes its settle count and its word alone (R85). -/
theorem sendWord_a (k : Settling) (s : State) : (sendWord .a k s).tun =
    { s.tun with tunerA := { s.tun.tunerA with settle := 8 }, wordA := s.tun.tunerA.synthWord } := by
  unfold sendWord settlingNotice; dsimp only; split <;> rfl

/-- A word sent to tuner B changes its settle count and its word alone (R85). -/
theorem sendWord_b (k : Settling) (s : State) : (sendWord .b k s).tun =
    { s.tun with tunerB := { s.tun.tunerB with settle := 8 }, wordB := s.tun.tunerB.synthWord } := by
  unfold sendWord settlingNotice; dsimp only; split <;> rfl

/-- An AFC evaluation keeps the offset within ±24 (R87). -/
theorem afcEvaluate_range (afc avg : Int) (h : -24 ≤ afc ∧ afc ≤ 24) :
    -24 ≤ (afcEvaluate afc avg).1 ∧ (afcEvaluate afc avg).1 ≤ 24 := by
  unfold afcEvaluate
  split
  · split
    · dsimp only; omega
    · exact h
  · split
    · split
      · dsimp only; omega
      · exact h
    · exact h

/-- A reading changes nothing of the search record. -/
theorem takeReading_search (x : TunerId) (r : Int) (s : State) : (takeReading x r s).1.tun.search = s.tun.search := by
  unfold takeReading
  dsimp only
  split
  · cases x <;> rfl
  · dsimp only
    split
    · cases x <;> rfl
    · cases x
      · rw [sendWord_a]; rfl
      · rw [sendWord_b]; rfl

/-- An unmarked header at the detector and the loop changes nothing of the search record. -/
theorem unmarkedHeader_search (x : TunerId) (g : Nat) (a : Int) (s : State) :
    (unmarkedHeader x g a s).1.tun.search = s.tun.search := by
  unfold unmarkedHeader
  dsimp only
  split
  · rw [takeReading_search]; cases x <;> rfl
  · cases x <;> rfl

/-- A search that has ended is IDLE (R109). -/
theorem endSearch_idle (r : SearchResult) (s : State) : (endSearch r s).tun.search.state = .idle := by
  unfold endSearch
  dsimp only
  split
  · rw [clearTuner_eq]; rfl
  · rfl

end Sys2Proof.Machine
end

