-- ==== Sys2Proof/Tests/Slice0.lean ====
section
/-! SUPPORT. Tests: ill-formed commands, the manual's own worked examples, and for every obligation with hypotheses a state
and operands that meet them. -/

namespace Sys2Proof.Tests

open Sys2Proof Sys2Proof.Machine

/-! ### States the tests stand on -/

/-- A deck after its cold-start read, its slot empty. -/
def ready : State := { State.reset with sto := { State.reset.sto with reading := none, validity := true } }

/-- A deck with a threaded tape, in a transport state. -/
def deck (st : TState) (ph : Phase := .idle) : State :=
  { ready with
    trc := { ready.trc with state := st, phase := ph }
    pins := { ready.pins with cassette := .home, threaded := true, unthreaded := false } }

/-- A VALID channel of tuner A or B. -/
def air : Channel := { tuning := .air 5000 0, network := none, cueLine := none, skip := false }

/-- A VALID channel of the external box. -/
def ext : Channel := { tuning := .ext [44, 1], network := none, cueLine := none, skip := false }

/-- The state with a channel in its table. -/
def withChannel (n : Nat) (c : Channel) (s : State) : State :=
  { s with tun := { s.tun with channels := s.tun.channels.set n (some c) } }

/-- A manual session on channel 5, STARTING. -/
def manual : Session :=
  { origin := none, channel := 5, source := .air, occurrence := none, state := .starting, startPhase := .source,
    firstSpeed := none, currentSpeed := .one, autoMark := false, switchFrame := none, pauseCause := none,
    stopRule := .manual, deadline := none, label := none, entryNo := none, notIndexed := false, seamUnlocked := false,
    switched := false, closeReason := none, clearNote := false, holdPending := false, cueLoss := false, lossTimer := none,
    startedAt := none, irWait := none, byUnitReset := false, byMains := false }

/-- The state with a session. -/
def withSession (x : Session) (s : State) : State := { s with sch := { s.sch with session := some x } }

/-- The state with a timer entry at index 3. -/
def withEntry (e : TimerEntry) (s : State) : State := { s with sch := { s.sch with timers := s.sch.timers.set 3 e } }

/-- A daily definition on channel 5, 20:00 to 21:00. -/
def daily : TimerDef :=
  { channel := 5, rep := .daily, startHour := 20, startMinute := 0, stopHour := 21, stopMinute := 0, speed := .one,
    label := none }

/-- The definition armed for the day 8,900 of the calendar. -/
def armed (t : TimerDef) : TimerEntry :=
  { state := .armed, defn := some t, next := some 8900, deferred := false, interrupted := false, outcome := none }

/-! ### Ill-formed commands -/

theorem test_wellFormed_args_24 : (Instr.play 1 (List.replicate 24 0)).wellFormed = true := by decide
theorem test_wellFormed_refuses_args_25 : (Instr.play 1 (List.replicate 25 0)).wellFormed = false := by decide
theorem test_wellFormed_refuses_known_code : (Instr.unknownCommand 1 40 []).wellFormed = false := by decide
theorem test_wellFormed_unknown_codes :
    (Instr.unknownCommand 1 0 []).wellFormed = true ∧ (Instr.unknownCommand 1 41 []).wellFormed = true := by decide
theorem test_wellFormed_refuses_afc_on_aux : (Instr.fieldHeader .aux .first 9 1).wellFormed = false := by decide
theorem test_wellFormed_refuses_short_payload :
    (Instr.linePacket .ctrl 1 (.data (List.replicate 20 (0, true)))).wellFormed = false := by decide
theorem test_wellFormed_refuses_substitute_ctrl : (Instr.substituteField .ctrl).wellFormed = false := by decide

/-! ### Worked examples of the manual -/

/-- Section 2.6, worked figures: R[10] = 180,000 and R[11] = 171,000. -/
def workedPoints : List Nat := List.replicate 11 180000 ++ List.replicate 22 171000

theorem test_worked_figures :
    periodRatio 1500 700 = 325 ∧ interpolate workedPoints 325 = 178594 ∧
    periodRatio 1498 702 = 326 ∧ interpolate workedPoints 326 = 178313 ∧ periodRatio 300 140 = 325 := by decide

/-- Section 2.6, limit cases, with R[31] = 4,000 and R[32] = 0. -/
theorem test_limit_cases :
    periodRatio 4095 1 = 0 ∧ periodRatio 1000 1000 = 512 ∧ periodRatio 1 4095 = 1023 ∧
    interpolate (List.replicate 32 4000 ++ [0]) 1023 = 125 := by decide

/-- A closed entry of the example of section 3.4. -/
def closed (start length : Nat) : DirEntry :=
  { start := start, length := some length, firstSpeed := .one, switchFrame := none, source := 5, network := none,
    label := none, recordedAt := none, origin := none, endedBy := some .done }

/-- Section 3.4, one recording over four: what [40,000, 100,000) leaves of the old entries. -/
theorem test_one_recording_over_four :
    ([closed 75 45000, closed 45075 22500, closed 67575 11250, closed 90000 30000].filterMap
      (reconcileEntry 40000 100000)) = [closed 75 39925, closed 100000 20000] := by decide

/-- The same example: a switch frame at 95,000 of the last entry would have been overwritten. -/
theorem test_moved_entry_loses_its_switch :
    reconcileEntry 40000 100000 { closed 90000 30000 with switchFrame := some 95000 } =
      some { closed 100000 20000 with firstSpeed := .two } := by decide

/-- Section 5.8: key code 44 of the default profile takes 535 units. -/
theorem test_key_44 : keyDuration IrProfile.default 44 = 535 := by decide

/-- Section 5.5, worked evaluations: the averages and what they do to the offset. -/
theorem test_afc_evaluations :
    afcAverage [20, 22, 18, 25, 19, 21, 17, 23] = 20 ∧ afcEvaluate 0 20 = (-1, false) ∧
    afcAverage [-17, -16, -18, -17, -16, -17, -17, -17] = -16 ∧ afcEvaluate (-1) (-16) = (-1, false) ∧
    afcEvaluate (-24) 18 = (-24, true) ∧ afcEvaluate (-24) 3 = (-24, false) := by decide

/-- Section 1.9, the first recording: the cassette pushed home is threaded within 8 s. -/
theorem test_first_recording_loading :
    ∃ t, exec (.cassetteInSwitch .home) ready = .next t ∧ t.trc.state = .loading ∧ t.trc.threadingLimit = some 8000 ∧
      t.tcb.exact = false ∧ t.dir.state = .unknown := ⟨_, rfl, by decide⟩

/-- The same example: no control pulse in the 2 s of the blank test stops the tape with the directory BLANK. -/
theorem test_first_recording_blank :
    ∃ t, exec .blankTestExpiry { deck .dirRead with
        dir := { Dir.reset with collecting := true, blankTest := some 2000, blankTested := true } } = .next t ∧
      t.trc.state = .stopped ∧ t.dir.state = .blank ∧ t.dir.image = [] := ⟨_, rfl, by decide⟩

/-- The same example: EJECT of a changed directory, the tab IN, writes first. -/
theorem test_first_recording_eject :
    ∃ t, exec (.eject 9 []) { deck .stopped with dir := { Dir.reset with state := .blank, dirty := true } } = .next t ∧
      t.trc.state = .dirWrite ∧ t.clu.inFlight.map InFlight.tag = [9] := ⟨_, rfl, by decide⟩

/-- Section 11.8, two fields of commands: PLAY supersedes the wind. -/
theorem test_play_supersedes_the_wind :
    ∃ t, exec (.play 14 []) { deck .windFwd with
        trc := { (deck .windFwd).trc with held := some { id := 0, code := 5 } }
        clu := { Clu.reset with
          inFlight := [{ id := 0, tag := 11, code := 5, owner := .trc }], reserved := [0], nextId := 1 } } = .next t ∧
      t.clu.ready = [{ tag := 11, code := 5, outcome := .superseded, reason := .none, result := [] }] ∧
      t.clu.inFlight.map InFlight.tag = [14] ∧ t.trc.state = .play := ⟨_, rfl, by decide⟩

/-- Section 6.4, the worked search: START SEARCH begins at 900 on tuner B, in the low band with N = 1,678. -/
theorem test_search_begins :
    ∃ t, exec (.startSearch 1 []) ready = .next t ∧ t.tun.search.state = .running ∧ t.tun.search.frequency = 900 ∧
      t.tun.tunerB.owner = .search ∧ t.tun.wordB = some { band := .low, n := 1678 } := ⟨_, rfl, by decide⟩

/-- Section 8.4, an evening's settings: SET CLOCK to 14-05-24 20:14:00, a Tuesday, raises CLOCK_SET. -/
theorem test_set_clock :
    ∃ t, exec (.setClock 1 [14, 5, 24, 20, 14, 0]) ready = .next t ∧ t.clk.status = .setManual ∧ t.clk.dow = 1 ∧
      t.sticky .clockSet = true := ⟨_, rfl, by decide⟩

/-- R195: the state after reset is the state a cold start leaves. -/
theorem test_reset_is_cold_start : coldStart State.reset = State.reset := by decide


/-! ### Witnesses: states and operands that meet the hypotheses of the obligations, clause by clause -/

/-- A state whose queue holds a command. -/
def queued (i : Instr) (s : State) : State := { s with pending := [i] }

theorem witness_StepRunsTheFrontCommand : State.reset.pending = [] := by decide

theorem witness_EveryStepKeepsTheControlPath :
    (queued (.windForward 1 []) (deck .stopped)).ControlPathSound ∧
    ∃ t, Sys2Proof.Machine.step (queued (.windForward 1 []) (deck .stopped)) = .next t := ⟨by decide, _, rfl⟩

theorem witness_EveryStepKeepsTheCountersAndSizes :
    (queued (.controlPulse .forward true) { deck .play with tcb := { Tcb.reset with relCounter := 899999 } }).CountersSound ∧
    (queued (.controlPulse .forward true) (deck .play)).SizesSound ∧
    ∃ t, Sys2Proof.Machine.step
      (queued (.controlPulse .forward true) { deck .play with tcb := { Tcb.reset with relCounter := 899999 } }) = .next t :=
  ⟨by decide, by decide, _, rfl⟩

theorem witness_EveryStepKeepsTheTuning :
    (queued (.startSearch 1 []) ready).TuningSound ∧ ∃ t, Sys2Proof.Machine.step (queued (.startSearch 1 []) ready) = .next t :=
  ⟨by decide, _, rfl⟩

theorem witness_EveryStepKeepsTheSessionOnTheTransport :
    (queued (.stop 1 []) (withSession { manual with state := .active } (deck .record))).SessionHoldsTransport ∧
    ∃ t, Sys2Proof.Machine.step (queued (.stop 1 []) (withSession { manual with state := .active } (deck .record))) = .next t :=
  ⟨by decide, _, rfl⟩

theorem witness_EveryStepKeepsTheStore :
    (queued (.setOption 1 [6, 7]) ready).StoreSound ∧
    ∃ t, Sys2Proof.Machine.step (queued (.setOption 1 [6, 7]) ready) = .next t := ⟨by decide, _, rfl⟩

theorem witness_EveryStepKeepsTheCalendar :
    (queued .secondEvent ready).CalendarSound ∧ ∃ t, Sys2Proof.Machine.step (queued .secondEvent ready) = .next t :=
  ⟨by decide, _, rfl⟩

/-- The deck with one of its leaders at its sensor. -/
def atStart (s : State) : State := { s with pins := { s.pins with startSensor := true } }
def atEnd (s : State) : State := { s with pins := { s.pins with endSensor := true } }

theorem witness_MotionCommandsOrderTheirMotion :
    ((deck .stopped).serves 0 ∧ (deck .stopped).tapeFree ∧ (deck .stopped).trc.takesOrder ∧
      (deck .stopped).pins.endSensor = false ∧ (deck .stopped).pins.startSensor = false) ∧
    ((deck .dirRead).serves 255 ∧ (deck .dirRead).tapeFree ∧ (deck .dirRead).trc.takesOrder) ∧
    ((deck .play).serves 1 ∧ (deck .play).tapeFree ∧ (deck .play).trc.takesOrder) ∧
    ((deck .playPause).serves 1 ∧ (deck .playPause).tapeFree ∧ (deck .playPause).trc.takesOrder) ∧
    ((atEnd (deck .stopped)).serves 1 ∧ (atEnd (deck .stopped)).tapeFree ∧ (atEnd (deck .stopped)).trc.takesOrder) ∧
    ((atStart (deck .stopped)).serves 1 ∧ (atStart (deck .stopped)).tapeFree ∧ (atStart (deck .stopped)).trc.takesOrder) := by
  and_intros <;> decide

theorem witness_TransportChecksComeInTheirOrder :
    ({ ready with sto := { ready.sto with power := .standby } }).serves 1 ∧ ready.serves 1 ∧ ready.trc.state = .empty ∧
    (deck .fault).serves 1 ∧ (deck .dewHold).serves 1 ∧ (deck .loading).serves 1 ∧ (deck .lockup).serves 1 ∧
    ((withSession manual (deck .stopped)).serves 1 ∧ (withSession manual (deck .stopped)).trc.takesOrder ∧
      (withSession manual (deck .stopped)).sch.session.isSome) ∧
    (1 : Byte).toNat ≤ 11 ∧ (11 : Byte).toNat ≤ 11 := by
  and_intros <;> decide

/-- The deck with its position EXACT. -/
def exact (s : State) : State := { s with tcb := { s.tcb with exact := true } }

/-- A wind in flight. -/
def winding : State :=
  { deck .windFwd with
    trc := { (deck .windFwd).trc with held := some { id := 0, code := 5 } }
    clu := { Clu.reset with
      inFlight := [{ id := 0, tag := 11, code := 5, owner := .trc }], reserved := [0], nextId := 1 } }

theorem witness_ANewOrderSupersedesTheOld :
    winding.serves 14 ∧ winding.sto.power = .on ∧ winding.sch.session = none ∧ winding.trc.takesOrder ∧
    winding.pins.endSensor = false ∧ winding.clu.inFlight = [{ id := 0, tag := 11, code := 5, owner := .trc }] ∧
    winding.trc.held = some { id := 0, code := 5 } ∧ winding.pins.startSensor = false ∧ winding.trc.state ≠ .play ∧
    winding.trc.state ≠ .playPause ∧ (899999 : Int) ≠ winding.tcb.relCounter ∧ (-899999 : Int) ≠ winding.tcb.relCounter ∧
    (exact winding).serves 14 ∧ (exact winding).tcb.exact = true ∧ (899999 : Int) ≠ (exact winding).tcb.absPos ∧
    winding.atLeader .forward = false ∧ winding.atLeader .reverse = false := by
  and_intros <;> decide

theorem witness_ANewOrderSupersedesTheOld_goes :
    winding.letsGo .superseded .none (winding.clu.completed { id := 0, tag := 11, code := 5, owner := .trc } .superseded .none) :=
  .inr ⟨_, rfl, rfl, rfl⟩

theorem witness_LocateAndSeekIndexGoToTheirTarget :
    ((deck .stopped).serves 1 ∧ (deck .stopped).tapeFree ∧ (deck .stopped).trc.takesOrder ∧ (deck .stopped).tcb.exact = false) ∧
    ((exact (deck .stopped)).serves 1 ∧ (exact (deck .stopped)).tapeFree ∧ (exact (deck .stopped)).trc.takesOrder ∧
      (exact (deck .stopped)).tcb.exact = true) ∧
    ((exact (deck .play)).serves 1 ∧ (exact (deck .play)).tapeFree ∧ (exact (deck .play)).trc.takesOrder) ∧
    ((exact (deck .playPause)).serves 1 ∧ (exact (deck .playPause)).trc.takesOrder ∧
      (exact (deck .playPause)).tcb.relCounter = 0) := by
  and_intros <;> decide

/-- The deck with a directory of one entry. -/
def indexed (s : State) : State := { exact s with dir := { Dir.reset with state := .valid, image := [closed 75 1000] } }

theorem witness_SeekEntryFindsItsEntry :
    ((indexed (deck .stopped)).serves 1 ∧ (indexed (deck .stopped)).tapeFree ∧ (indexed (deck .stopped)).trc.takesOrder ∧
      (indexed (deck .stopped)).dir.state ≠ .unknown ∧ (indexed (deck .stopped)).tcb.exact = true ∧
      (indexed (deck .stopped)).dir.image[(1 : Byte).toNat - 1]? = some (closed 75 1000) ∧
      (indexed (deck .stopped)).dir.image[(2 : Byte).toNat - 1]? = none) ∧
    ((deck .stopped).serves 1 ∧ (deck .stopped).dir.state = .unknown ∧ (deck .stopped).pins.startSensor = false) ∧
    ((atStart (deck .stopped)).serves 1 ∧ (atStart (deck .stopped)).dir.state = .unknown) := by
  and_intros <;> decide

/-- A session that records. -/
def recording : State := withSession { manual with state := .active } (deck .record)

/-- FAULT, with its switches, dew and the at-rest mark. -/
def faulted (c : CassettePos) (threaded dew mark : Bool) : State :=
  { deck .fault with
    trc := { (deck .fault).trc with atRestMark := mark }
    pins := { (deck .fault).pins with cassette := c, threaded := threaded, dew := dew } }

/-- What STOP answers there, as the switches say. -/
def stopGives (s : State) : Option TState :=
  match exec (.stop 1 []) s with
  | .next t => some t.trc.state
  | _ => none

theorem test_stop_in_fault :
    stopGives (faulted .slotOpen false false false) = some .empty ∧ stopGives (faulted .partway false false true) = some .ejected ∧
    stopGives (faulted .home false false true) = some .loading ∧ stopGives (faulted .home true true true) = some .dewHold := by
  decide

theorem witness_StopStopsTheTapeAndTheSession :
    ((deck .stopped).serves 1 ∧ (deck .stopped).tapeFree) ∧ ((deck .playPause).serves 1 ∧ (deck .playPause).tapeFree) ∧
    ((deck .locate).serves 1 ∧ (deck .locate).tapeFree ∧ (deck .locate).trc.takesOrder) ∧
    ((deck .fault).serves 1 ∧ (deck .fault).tapeFree) ∧
    ((faulted .slotOpen false false false).serves 1 ∧ (faulted .partway false false true).tapeFree ∧
      (faulted .home false false true).trc.atRestMark = true ∧ (faulted .home false false false).trc.state = .fault ∧
      (faulted .home true true true).pins.dew = true ∧ (faulted .home true true false).serves 1) ∧
    (recording.serves 1 ∧ recording.sto.power = .on ∧ recording.trc.held = none ∧ recording.clu.inFlight.length < 2 ∧
      recording.sch.session = some { manual with state := .active } ∧ recording.trc.state = .record) := by
  and_intros <;> decide

/-- A session the host has paused. -/
def pausedSession : Session := { manual with state := .paused, pauseCause := some .manual }

theorem witness_PauseHoldsAndResumes :
    ((deck .play).serves 1 ∧ (deck .play).tapeFree) ∧ ((deck .playPause).serves 1 ∧ (deck .playPause).tapeFree) ∧
    ((deck .stopped).serves 1 ∧ (deck .stopped).tapeFree ∧ (deck .stopped).trc.takesOrder) ∧
    (recording.serves 1 ∧ recording.trc.held = none ∧ recording.trc.state = .record ∧
      recording.sch.session = some { manual with state := .active }) ∧
    ((withSession { manual with state := .active, origin := some 3 } (withEntry { armed daily with state := .recording }
        (deck .record))).serves 1 ∧
      ((withEntry { armed daily with state := .recording } (deck .record)).timer 3).state ≠ .waiting) ∧
    ((withSession pausedSession (deck .recordPause)).serves 1 ∧
      (withSession pausedSession (deck .recordPause)).clu.inFlight.length < 2) ∧
    ((withSession { pausedSession with pauseCause := some .label } (deck .stopped)).serves 1 ∧
      (withSession { pausedSession with pauseCause := some .label } (deck .stopped)).sto.power = .on) := by
  and_intros <;> decide

theorem witness_EjectWritesTheDirectoryOrUnthreads :
    ((deck .stopped).serves 1 ∧ (deck .stopped).sch.session = none ∧ (deck .stopped).trc.held = none ∧
      (deck .stopped).clu.inFlight.length < 2 ∧ (deck .stopped).trc.takesOrder ∧ (deck .stopped).readCut.dir.dirty = false ∧
      ((deck .stopped).trc.atRestMark || (deck .stopped).trc.state.isMotion) = false) ∧
    ((deck .play).serves 1 ∧ (deck .play).trc.takesOrder ∧ (deck .play).trc.state.isMotion = true) ∧
    (({ deck .stopped with dir := { Dir.reset with state := .blank, dirty := true } }).serves 1 ∧
      ({ deck .stopped with dir := { Dir.reset with state := .blank, dirty := true } }).readCut.dir.dirty = true ∧
      ({ deck .stopped with dir := { Dir.reset with state := .blank, dirty := true } }).readCut.dir.state ≠ .unknown) ∧
    ((atStart { deck .stopped with dir := { Dir.reset with state := .blank, dirty := true } }).serves 1) ∧
    ((deck .dewHold .dewWait).serves 1 ∧ (deck .dewHold .dewWait).trc.phase = .dewWait) := by
  and_intros <;> decide

/-- A channel of tuner A in view. -/
def viewed : State :=
  { withChannel 5 air (deck .stopped) with tun := { (withChannel 5 air (deck .stopped)).tun with
      view := some (5, .tunerA), tunerA := Tuner.tunedTo .view (some 5) 5000 0 16 } }

theorem witness_RecordOpensAManualSessionOrIsRefused :
    (viewed.serves 1 ∧ viewed.tapeFree ∧ viewed.trc.takesOrder ∧ viewed.watchesNothing ∧ viewed.pins.tab = .tabIn ∧
      viewed.pins.endSensor = false ∧ viewed.tun.view = some (5, .tunerA) ∧ viewed.channel 5 = some air ∧
      air.tuning = .air 5000 0 ∧ viewed.tun.tunerB.owner = .none ∧ viewed.tun.search.state ≠ .running) ∧
    (({ deck .stopped with pins := { (deck .stopped).pins with tab := .tabOut } }).serves 1 ∧
      (deck .stopped).sch.session = none) ∧
    ((deck .stopped).serves 1 ∧ (deck .stopped).pins.tab = .tabIn ∧ (deck .stopped).tun.view = none ∧
      (deck .stopped).tun.tunerA.channel = none) ∧
    (recording.serves 1 ∧ recording.sch.session = some { manual with state := .active } ∧ recording.trc.state = .record) := by
  and_intros <;> decide

theorem witness_SpeedAndCounterCommands :
    ready.serves 1 ∧ (deck .stopped).serves 1 ∧ (deck .lockup).serves 1 ∧ (deck .lockup).trc.state = .lockup ∧
    ([] : List Byte) ≠ [1] ∧ ([3] : List Byte) ≠ [2] := by
  and_intros <;> decide

/-- 33 points that fall. -/
def points : List Nat := (List.range 33).map fun k => 450000 - 14000 * k

/-- A staging record that is complete. -/
def staged : State :=
  { ready with tcb := { Tcb.reset with staging := { header := some (7, 160), slots := points.map some } } }

theorem witness_ProfilesAreStagedReadAndSelected_staged :
    ready.serves 1 ∧ ready.tcb.staging.header = none ∧ (7 : Byte).toNat ≤ 7 ∧ staged.serves 1 ∧
    staged.tcb.staging.header = some (7, 160) ∧ staged.tcb.staging.slots.length = 33 ∧ points.length = 33 ∧
    (∀ x ∈ points.take 5, x < 16777216) ∧ points.getD 0 0 ≤ 450000 ∧
    (∀ k, k < 32 → points.getD (k + 1) 0 ≤ points.getD k 0) := by
  and_intros <;> decide

theorem witness_ProfilesAreStagedReadAndSelected_read :
    ready.serves 1 ∧ (7 : Byte).toNat ≤ 7 ∧ ready.tcb.profiles.length = 8 ∧ ready.tcb.profiles[7]? = some Profile.empty := by
  and_intros <;> decide

theorem witness_TheInterpolationMeetsItsProfile :
    points.length = 33 ∧ (∀ k, k < 32 → points.getD (k + 1) 0 ≤ points.getD k 0) ∧ 1023 ≤ 1023 := by
  and_intros <;> decide

/-- The deck with an open entry after a closed one. -/
def openEntry : DirEntry := { closed 2000 0 with length := none, endedBy := none }

/-- The directory while a session writes its second entry. -/
def writing : State :=
  { ready with dir := { Dir.reset with
      range := some { start := some 2000, writtenEnd := 3000, opened := true }, image := [closed 75 1000, openEntry] } }

/-- The directory while a session without an entry has written nothing. -/
def unindexed : State :=
  { ready with dir := { Dir.reset with
      range := some { start := some 2000, writtenEnd := 2000, opened := false }, image := [closed 75 1000] } }

theorem witness_EntriesAreReadAndDeleted :
    (State.reset.takes 1 ∧ State.reset.starting = true) ∧ (ready.takes 1 ∧ ready.starting = false ∧ ready.dir.state = .unknown) ∧
    ((indexed ready).takes 1 ∧ (indexed ready).dir.state ≠ .unknown ∧ (indexed ready).dir.image.length < (2 : Byte).toNat ∧
      (indexed ready).dir.image[(1 : Byte).toNat - 1]? = some (closed 75 1000)) ∧
    (24 : Byte).toNat ≤ 24 ∧ 24 < (25 : Byte).toNat := by
  and_intros <;> decide

theorem witness_ACloseReconcilesTheEntries :
    (40000 ≤ 45075 ∧ 45075 + 22500 ≤ 100000) ∧ (75 < 40000 ∧ 40000 < 75 + 45000) ∧
    (40000 ≤ 90000 ∧ 90000 < 100000 ∧ 100000 < 90000 + 30000) ∧ (100000 ≤ 100000) ∧
    (∀ e ∈ [closed 75 45000, closed 45075 22500], ∃ n, e.length = some n ∧ 1 ≤ n) ∧
    [closed 75 45000, closed 45075 22500].Pairwise
      (fun e f => e.start < f.start ∧ e.start + e.length.getD 0 ≤ f.start) ∧
    writing.dir.range = some { start := some 2000, writtenEnd := 3000, opened := true } ∧
    writing.dir.image = [closed 75 1000] ++ openEntry :: [] ∧ openEntry.length = none ∧ openEntry.start = 2000 ∧
    unindexed.dir.range = some { start := some 2000, writtenEnd := 2000, opened := false } ∧
    (∀ e ∈ unindexed.dir.image, e.length.isSome) := by
  refine ⟨by decide, by decide, by decide, by decide, ?_, by decide, by decide, by decide, by decide, by decide, by decide,
    by decide⟩
  intro e he
  simp only [List.mem_cons, List.not_mem_nil, or_false] at he
  rcases he with rfl | rfl
  · exact ⟨45000, by decide⟩
  · exact ⟨22500, by decide⟩

/-- A closed entry with every field at the end of its range. -/
def fullEntry : DirEntry :=
  { start := 1075, length := some 898924, firstSpeed := .one, switchFrame := some 2000, source := 100, network := some 65535,
    label := some { day := 31, month := 12, hour := 23, minute := 59 }, recordedAt := none, origin := some 15,
    endedBy := some .failedStart }

theorem witness_AWrittenCopyIsReadBack :
    (closed 75 1000).FitsSlot ∧ fullEntry.FitsSlot ∧
    [closed 75 1000, fullEntry].IsChain (fun e f => e.start < f.start ∧ e.start + e.length.getD 0 ≤ f.start) := by
  refine ⟨⟨?_, ?_, ?_, ?_, ?_, ?_, ?_, ?_, ?_, .done, ?_⟩, ⟨?_, ?_, ?_, ?_, ?_, ?_, ?_, ?_, ?_, .failedStart, ?_⟩, ?_⟩ <;> decide

/-- Tuner A records, tuner B is free or watches. -/
def recordsOnA (b : Owner) : State :=
  { withChannel 5 air ready with tun := { (withChannel 5 air ready).tun with
      tunerA := Tuner.tunedTo .record (some 7) 6000 0 16, tunerB := { Tuner.cleared with owner := b } } }

/-- The external box channel, with the box owned or free. -/
def box (o : Owner) : State :=
  { withChannel 6 ext ready with tun := { (withChannel 6 ext ready).tun with ext := { ExtRecord.cleared with owner := o } } }

theorem witness_TheDrivesFollowTheTransport :
    ({ ready with sto := { ready.sto with power := .backup } }).asleep = true ∧ ready.asleep = false ∧
    ((deck .record).drives.recordEnable = true ∧ (deck .lockup .reserve).drives.recordEnable = true ∧
      (deck .dirWrite .writing).drives.recordEnable = true ∧ (deck .lockup .lock).drives.recordEnable = false) ∧
    (deck .dirRead).asleep = false ∧ (deck .searchBack).trc.state = .searchBack := by
  and_intros <;> decide

theorem witness_ViewTakesItsSourceAndScansTheTable :
    ((withChannel 5 air ready).serves 1 ∧ (withChannel 5 air ready).sto.power = .on ∧ (5 : Byte).toNat ≤ 99 ∧
      (withChannel 5 air ready).channel (5 : Byte).toNat = some air ∧ (withChannel 5 air ready).tun.search.state = .idle ∧
      (withChannel 5 air ready).tun.tunerA.owner = .none ∧ (withChannel 5 air ready).tun.view = none) ∧
    (viewed.serves 1 ∧ viewed.tun.view = some (5, .tunerA) ∧ viewed.tun.tunerA.owner = .view) ∧
    ((recordsOnA .none).serves 1 ∧ (recordsOnA .none).tun.tunerA.owner = .record ∧ (recordsOnA .none).tun.view = none) ∧
    ((recordsOnA .watch).serves 1 ∧ (recordsOnA .watch).tun.tunerB.owner = .watch) ∧
    ((box .none).serves 1 ∧ (box .none).channel (6 : Byte).toNat = some ext ∧ ext.tuning = .ext (44 :: [1]) ∧
      (box .none).tun.ext.sending = none ∧ (box .none).tun.view = none) ∧
    ((box .record).serves 1 ∧ (box .record).tun.ext.owner = .record) := by
  and_intros <;> decide

theorem witness_ViewTakesItsSourceAndScansTheTable_scan :
    ({ ready with sto := { ready.sto with power := .standby } }).serves 1 ∧ ready.serves 1 ∧
    ready.channel (99 : Byte).toNat = none ∧ 100 ≤ (252 : Byte).toNat ∧ (∀ c, c < 100 → ready.channel c = none) ∧
    viewed.serves 1 ∧ viewed.tun.view.map Prod.fst = some 5 ∧ viewed.channel ((5 + 100) % 100) = some air ∧
    (∀ i, 1 ≤ i → i < 100 → viewed.channel ((5 + i) % 100) = none) ∧
    (withChannel 5 air ready).tun.view = none ∧ (∀ i, i < 5 → (withChannel 5 air ready).channel i = none) := by
  and_intros <;> decide

theorem witness_ChannelsAreStagedCommittedClearedAndRead_fields :
    ready.serves 1 ∧ air.FitsFields ∧ ext.FitsFields ∧
    ({ tuning := .air 65535 (-128), network := some 65535, cueLine := some 255, skip := true } : Channel).FitsFields := by
  and_intros <;> decide

/-- A staged channel. -/
def stagedChannel (c : Channel) : State := { ready with tun := { ready.tun with staging := some c } }

theorem witness_ChannelsAreStagedCommittedClearedAndRead :
    (ready.serves 1 ∧ ready.tun.staging = none ∧ (99 : Byte).toNat ≤ 99 ∧ ready.channel (99 : Byte).toNat = none) ∧
    ((stagedChannel air).serves 1 ∧ air.Commits) ∧
    (¬ ({ air with tuning := .air 899 0 } : Channel).Commits ∧ ({ air with tuning := .air 17200 15 } : Channel).Commits) ∧
    ((withChannel 5 air ready).channel 5 = some air) ∧
    (∃ e ∈ (withEntry (armed daily) (withChannel 5 air ready)).sch.timers, e.state ≠ .empty ∧
      ∃ t, e.defn = some t ∧ t.channel = 5) :=
  ⟨by and_intros <;> decide, by and_intros <;> decide, by and_intros <;> decide, by decide, armed daily, by decide, by decide, daily, by decide⟩

theorem witness_TheIrProfileGivesTheKeys :
    ready.serves 1 ∧ 300 ≤ IrProfile.default.carrier ∧
    (∀ d ∈ [1, 255, 5, 15, 5, 5, 5, 200], 1 ≤ d ∧ d ≤ 255) ∧ [1, 255, 5, 15, 5, 5, 5, 200].length = 8 := by
  and_intros <;> decide

theorem witness_SearchIsStartedEndedAndRead :
    (ready.serves 1 ∧ ready.tun.search.state = .idle ∧ ready.tun.tunerB.owner = .none) ∧
    ((recordsOnA .watch).serves 1 ∧ (recordsOnA .watch).tun.search.state = .idle ∧ (recordsOnA .watch).tun.tunerB.owner ≠ .none) ∧
    ({ ready with tun := { ready.tun with search := Search.begun .running 900 } }).serves 1 ∧
    (67 * 256 + 48 = 17200) := by
  and_intros <;> decide


/-- A cue of channel 5. -/
def cue : Cue := { network := 4120, label := some { day := 14, month := 5, hour := 20, minute := 15 }, status := .run }

/-- A cue ring of `n` entries. -/
def ringed (n : Nat) (s : State) : State :=
  { s with cue := { s.cue with
      ring := List.replicate n { tuner := .b, channel := none, cue := cue, at_ := s.clk.now, status := .unset } } }

theorem witness_TheCueRingIsReadAndReleased :
    State.reset.takes 1 ∧ State.reset.starting = true ∧ ready.takes 1 ∧ ready.starting = false ∧ ready.cue.ring = [] ∧
    (ringed 8 ready).takes 1 ∧ (ringed 8 ready).cue.ring.length = 7 + 1 := by
  and_intros <;> decide

/-- The clock set to a date and time. -/
def clocked (t : DateTime) (s : State) : State :=
  { s with clk := { s.clk with now := t, dow := t.date.dow, status := .setManual } }

theorem witness_TheClockIsSetReadAndTicks :
    ready.serves 1 ∧ ready.schedulerIdle ∧ (31 : Byte).toNat ≤ monthLength (99 : Byte).toNat (12 : Byte).toNat ∧
    (29 : Byte).toNat ≤ monthLength (96 : Byte).toNat (2 : Byte).toNat ∧
    ¬ (29 : Byte).toNat ≤ monthLength (25 : Byte).toNat (2 : Byte).toNat ∧ ([] : List Byte).length ≠ 6 ∧
    ready.clk.now.second < 59 := by
  and_intros <;> decide

theorem witness_TheCalendarAndTheDayOfTheWeek :
    ({ day := 29, month := 2, year := 24 } : Date).valid = true ∧ ({ day := 31, month := 12, year := 98 } : Date).valid = true ∧
    ({ day := 31, month := 12, year := 98 } : Date) ≠ { day := 31, month := 12, year := 99 } ∧
    (parseClock [29, 2, 96, 23, 59, 59]).isSome ∧ ({ day := 31, month := 12, year := 99 } : Date).valid = true ∧
    (decodeTime [31, 12, 99, 23, 59, 59, 24]).isSome := by
  and_intros <;> decide

/-- A definition for one date. -/
def once : TimerDef := { daily with rep := .once { day := 14, month := 5, year := 24 } }

theorem witness_daily : daily.Commits ∧ daily.FitsFields := by
  simp [TimerDef.Commits, TimerDef.FitsFields, daily]

theorem witness_once : once.Commits := by
  simp only [TimerDef.Commits, once, daily]
  and_intros <;> decide

theorem witness_TheNextOccurrenceIsTheEarliest :
    daily.Commits ∧ ({ daily with rep := .weekly 6, stopHour := 19 } : TimerDef).Commits ∧
    once.rep = .once { day := 14, month := 5, year := 24 } ∧ 36508 < 36509 ∧ ¬ 36509 < 36509 ∧ 18263 * 86400 ≤ 18263 * 86400 :=
  ⟨witness_daily.1, by simp [TimerDef.Commits, daily], rfl, by decide, by decide, by decide⟩

theorem witness_TimerDefinitionsAreStagedAndRead :
    ready.serves 1 ∧ (15 : Byte).toNat ≤ 15 ∧ ready.sch.timers[(15 : Byte).toNat]? = some TimerEntry.empty ∧
    TimerEntry.empty.defn = none ∧ TimerEntry.empty.outcome = none ∧
    (withEntry (armed daily) ready).sch.timers[(3 : Byte).toNat]? = some (armed daily) ∧ (armed daily).next = some 8900 ∧
    (withEntry { armed daily with outcome := some (missedOutcome .late ready) } ready).sch.timers[(3 : Byte).toNat]? =
      some { armed daily with outcome := some (missedOutcome .late ready) } ∧
    recording.serves 1 ∧ recording.sch.session = some { manual with state := .active } ∧ ready.sch.session = none := by
  and_intros <;> decide

/-- A staged definition over a table with channel 5. -/
def stagedTimer (t : TimerDef) (c : Channel) : State :=
  { withChannel 5 c ready with sch := { ready.sch with staging := some t } }

/-- A session of timer entry 3, recording. -/
def timed : State :=
  withSession { manual with origin := some 3, state := .active }
    (withEntry { armed daily with state := .recording } (deck .record))

theorem witness_TimersAreCommittedAndCleared_refusals :
    15 < (16 : Byte).toNat ∧ ready.serves 1 ∧ ready.sch.staging = none ∧ (stagedTimer daily air).serves 1 ∧
    ¬ ({ daily with channel := 100 } : TimerDef).channel ≤ 99 ∧
    ({ ready with sch := { ready.sch with staging := some daily } }).channel 5 = none ∧
    (stagedTimer daily ext).channel 5 = some ext ∧ ext.isExt = true ∧ (stagedTimer once air).clk.status = .unset ∧
    (stagedTimer daily air).channel 5 = some air ∧ daily.label = none ∧
    (withSession { manual with origin := some 3, state := .closing } (stagedTimer daily air)).serves 1 := by
  and_intros <;> decide

theorem witness_TimersAreCommittedAndCleared_done :
    (stagedTimer daily air).sch.session = none ∧ (stagedTimer daily air).watchesNothing ∧
    (stagedTimer daily air).sch.timers.length = 16 ∧ (stagedTimer daily air).clk.status = .unset ∧
    once.newOccurrence 0 = some 8900 ∧ 0 < once.startOn 8900 * 60 ∧
    ready.sch.timers[(3 : Byte).toNat]?.map TimerEntry.state = some .empty ∧
    (withEntry (armed daily) ready).sch.timers[(3 : Byte).toNat]?.map TimerEntry.state ≠ some .empty ∧
    (withEntry (armed daily) ready).watchesNothing ∧
    timed.serves 1 ∧ timed.sch.session = some { manual with origin := some 3, state := .active } ∧
    timed.trc.held = none ∧ timed.clu.inFlight.length < 2 ∧ timed.watchesNothing := by
  and_intros <;> decide

/-- A definition staged for entry 3 while a session of that entry stands, the entry's own definition being `daily`. -/
def recommitted (t : TimerDef) (x : Session) (st : TState) : State :=
  let s := withChannel 5 air (withEntry { armed daily with state := .recording } (deck st))
  { s with sch := { s.sch with
      staging := some t
      session := some { x with
        origin := some 3, stopRule := .clock, occurrence := some (daily.startOn 8900, daily.stopOn 8900) } } }

/-- The same definition under the label of `cue`, and to a later stop. -/
def dailyLabelled : TimerDef := { daily with label := cue.label }
def dailyLater : TimerDef := { daily with stopHour := 22 }

theorem witness_TimersAreCommittedAndCleared_running :
    (dailyLater.Commits ∧ dailyLabelled.Commits) ∧
    ((recommitted { daily with speed := .two } { manual with state := .active } .record).serves 1 ∧
      ((recommitted daily manual .record).timer (3 : Byte).toNat).defn = some daily ∧
      ({ daily with speed := .two } : TimerDef).speed ≠ daily.speed) ∧
    ((recommitted dailyLater { manual with state := .active } .record).serves 1 ∧
      (recommitted dailyLater { manual with state := .active } .record).watchesNothing ∧
      dailyLater = { daily with
        stopHour := dailyLater.stopHour, stopMinute := dailyLater.stopMinute, label := dailyLater.label } ∧
      ¬ dailyLater.stopOn 8900 * 60 ≤ (recommitted dailyLater manual .record).clk.now.seconds ∧
      dailyLater.stopOn 8900 * 60 ≤ (clocked
        { date := { day := 14, month := 5, year := 24 }, hour := 22, minute := 0, second := 0 } (recommitted dailyLater { manual with state := .active } .record)).clk.now.seconds) ∧
    (dailyLabelled.label ≠ daily.label ∧ (recommitted dailyLabelled manual .record).channelCue 5 = none ∧
      (recommitted dailyLabelled { manual with state := .paused, pauseCause := some .label } .recordPause).trc.state =
        .recordPause) ∧
    (({ recommitted dailyLabelled { manual with state := .active } .record with
        cue := { CueBlock.reset with b := { CueRecord.tunedTo (some 5) with current := some cue } } }).channelCue 5 = some cue ∧
      cue.label = dailyLabelled.label ∧ cue.status = .run ∧ air.network = none) := by
  refine ⟨by simp [TimerDef.Commits, dailyLater, dailyLabelled, daily, cue], ?_, ?_, ?_, ?_⟩ <;> and_intros <;> decide

theorem witness_OptionsAndPowerAreSet :
    ready.serves 1 ∧ (1 : Byte).toNat ≤ 1 ∧ (15 : Byte).toNat ≤ 15 ∧ (3 : Byte).toNat ≤ 3 ∧
    900 + 100 * (3 : Byte).toNat ≤ ready.pins.mainsSense ∧
    ({ ready with pins := { ready.pins with mainsSense := 1199 } }).serves 1 ∧
    ({ ready with pins := { ready.pins with mainsSense := 1199 } }).pins.mainsSense < 900 + 100 * (3 : Byte).toNat := by
  and_intros <;> decide

/-- The deck in a motion of the host's with a command in flight and nothing in view. -/
def searching : State :=
  { deck .searchFwd with
    trc := { (deck .searchFwd).trc with held := some { id := 0, code := 7 } }
    clu := { Clu.reset with
      inFlight := [{ id := 0, tag := 3, code := 7, owner := .trc }], reserved := [0], nextId := 1 } }

theorem witness_OptionsAndPowerAreSet_power :
    ready.serves 1 ∧ ({ ready with sto := { ready.sto with power := .standby } }).serves 1 ∧
    (recording.serves 1 ∧ recording.sto.power = .on ∧ recording.sch.session ≠ none) ∧
    ((deck .dirWrite).serves 1 ∧ (deck .dirWrite).sch.session = none) ∧ ready.tun.view = none ∧
    (viewed.serves 1 ∧ viewed.tun.view = some (5, .tunerA) ∧ viewed.trc.state = .stopped) ∧
    ((deck .play).serves 1 ∧ (deck .play).trc.takesOrder ∧ (deck .play).tun.view = none ∧ (deck .play).trc.held = none) ∧
    (searching.serves 1 ∧ searching.trc.held = some { id := 0, code := 7 } ∧
      searching.clu.inFlight.find? (fun g => g.id = 0) = some { id := 0, tag := 3, code := 7, owner := .trc }) ∧
    ([2] : List Byte) ≠ [0] ∧ ([2] : List Byte) ≠ [1] := by
  and_intros <;> decide

theorem witness_EventsAreAcknowledged :
    State.reset.takes 0 ∧ (3 : Byte).toNat < 4 ∧ 4 ≤ (4 : Byte).toNat ∧ ([0, 0] : List Byte).length ≠ 3 := by
  and_intros <;> decide

theorem witness_UnitsAreReset :
    ready.takes 1 ∧ ready.sch.session = none ∧ ready.tun.tunerB.owner ≠ .watch ∧ ready.clu.inFlight = [] ∧
    ready.tun.search.state = .idle ∧ ready.tun.tunerA.owner ≠ .record ∧ ready.tun.ext.owner ≠ .record ∧
    (deck .stopped).takes 1 ∧ (deck .stopped).pins.cassette = .home ∧ (deck .stopped).pins.threaded = true ∧
    (deck .stopped).pins.dew = false ∧
    (winding.takes 1 ∧ winding.pins.dew = false ∧ winding.clu.inFlight = [{ id := 0, tag := 11, code := 5, owner := .trc }]) ∧
    (Instr.unknownCommand 1 41 []).wellFormed = true ∧ (∀ unit : Byte, unit.toNat ≤ 4 → ([5] : List Byte) ≠ [unit]) := by
  and_intros <;> decide

/-- The part in BACKUP. -/
def asleep : State := { ready with sto := { ready.sto with power := .backup } }

/-- Six replies waiting. -/
def full : State :=
  { ready with clu := { ready.clu with
      ready := List.replicate 6 { tag := 1, code := 1, outcome := .done, reason := .none, result := [] } } }

theorem witness_CommandsAreTurnedAway :
    asleep.asleep = true ∧ full.asleep = false ∧ full.clu.freePlaces = 0 ∧ State.reset.takes 1 ∧ State.reset.starting = true ∧
    1 ≤ (38 : Byte).toNat ∧ (38 : Byte).toNat ≤ 38 := by
  and_intros <;> decide

/-- A VALID profile. -/
def profile : Profile := { valid := true, code := 160, points := points }

theorem witness_StoredRecordsAreReadBack :
    ready.channel 0 = none ∧
    ((withChannel 5 air ready).channel 5 = some air ∧ air.FitsFields ∧ air.Commits) ∧
    (profile.points.length = 33 ∧ profile.points.getD 0 0 ≤ 450000 ∧ profile.code < 256) ∧
    (Options.default.presenceThreshold ≤ 15 ∧ 1 ≤ Options.default.presenceRun ∧ ready.tcb.selected = Options.default.defaultProfile) ∧
    (withEntry (armed daily) ready).sch.timers[3]?.bind TimerEntry.defn = some daily ∧
    ready.sch.timers[0]? = some TimerEntry.empty ∧ TimerEntry.empty.defn = none := by
  and_intros <;> decide

/-- A stream that is SILENT. -/
def silent : State :=
  { ready with lpt := { ready.lpt with aux := { presence := .silent, header := none, lastLine := none, silence := none } } }

theorem witness_FieldHeadersAreTaken :
    ready.asleep = false ∧ ready.monChoice ≠ .stream .ta ∧ ready.recChoice ≠ .stream .ta ∧
    (ready.tuner .a).owner = .none ∧ ready.cueRecord .a = CueRecord.untuned ∧
    (ready.lpt.field .aux).presence ≠ .silent ∧ silent.asleep = false ∧ (silent.lpt.field .aux).presence = .silent := by
  and_intros <;> decide

/-- Tuner B watches, with an AFC offset, seven readings and a cue record. -/
def tracking (afc : Int) (n : Nat) : State :=
  { ready with
    tun := { ready.tun with
      tunerB := { Tuner.tunedTo .watch (some 5) 5000 0 16 with settle := 0, afc := afc, afcHistory := List.replicate n 17 } }
    cue := { ready.cue with b := { CueRecord.tunedTo (some 5) with taking := true } } }

/-- Tuner B settling. -/
def settling (n : Nat) : State :=
  { tracking 0 0 with
    tun := { (tracking 0 0).tun with tunerB := { (tracking 0 0).tun.tunerB with settle := n } }
    lpt := { ready.lpt with settlingB := .tune } }

theorem witness_HeadersWorkThePresenceAndTheAfc :
    (tracking (-24) 7).asleep = false ∧ (tracking (-24) 7).monChoice ≠ .stream .tb ∧ (tracking (-24) 7).recChoice ≠ .stream .tb ∧
    ((tracking (-24) 7).tuner .b).owner = .watch ∧ (tracking (-24) 7).settling .b = .none ∧
    ((tracking (-24) 7).cueRecord .b).tuning.isSome ∧ ((tracking (-24) 7).cueRecord .b).age < 124 ∧
    (((tracking (-24) 7).tuner .b).afcHistory.length = 7 ∧ 16 < (((tracking (-24) 7).tuner .b).afcHistory.sum + 17).tdiv 8 ∧
      ((tracking (-24) 7).tuner .b).afc ≤ -24) ∧
    (-24 < ((tracking 0 7).tuner .b).afc ∧ ((tracking 0 7).tuner .b).afc < 24 ∧ 24 ≤ ((tracking 24 7).tuner .b).afc) ∧
    ((tracking 0 6).tuner .b).afcHistory.length < 7 ∧ (0 : Fin 16).val < ready.sto.options.presenceThreshold ∧
    ready.sto.options.presenceThreshold ≤ (9 : Fin 16).val ∧
    ((settling 2).settling .b ≠ .none ∧ ((settling 2).tuner .b).owner = .watch ∧ 2 ≤ ((settling 2).tuner .b).settle) ∧
    ((settling 1).tuner .b).settle ≤ 1 := by
  and_intros <;> decide

/-- Tuner B works a search, in a phase at a count, its presence run and its readings as given. -/
def searchingB (ph : SearchPhase) (count weak strong n : Nat) (present : Bool) : State :=
  { tracking 0 0 with
    tun := { ready.tun with
      search := { Search.begun .running 3399 with phase := ph, count := count }
      tunerB := { Tuner.tunedTo .search none 3399 0 16 with
        settle := 0, present := present, weakRun := weak, strongRun := strong, afcHistory := List.replicate n 17 } } }

theorem witness_TheSearchWorksTunerB :
    ((recordsOnA .search).serves 1 ∧ (recordsOnA .search).channel (5 : Byte).toNat = some air ∧
      (recordsOnA .search).tun.view = none ∧ ({ viewed with tun := { viewed.tun with
        view := some (5, .tunerB), search := Search.begun .suspended 900 } }).tun.search.state = .suspended) ∧
    ((searchingB .step 5 0 0 0 false).asleep = false ∧ (searchingB .step 5 0 0 0 false).monChoice ≠ .stream .tb ∧
      (searchingB .step 5 0 0 0 false).recChoice ≠ .stream .tb ∧ (searchingB .step 5 0 0 0 false).settling .b = .none ∧
      (searchingB .step 5 0 0 0 false).cue.b.tuning.isSome ∧ (searchingB .step 5 0 0 0 false).cue.b.age < 124 ∧
      6 ≤ (searchingB .step 5 0 0 0 false).tun.search.count + 1 ∧ (searchingB .step 4 0 0 0 false).tun.search.count + 1 < 6 ∧
      (searchingB .confirm 23 0 0 0 false).tun.search.count + 1 < 25 ∧
      ready.sto.options.presenceRun ≤ (searchingB .step 0 0 2 0 false).tun.tunerB.strongRun + 1) ∧
    ((searchingB .trim 38 23 0 7 true).tun.search.count + 1 < 40 ∧ (searchingB .name 98 24 0 0 true).tun.search.count + 1 < 100 ∧
      (searchingB .trim 0 24 0 7 true).tun.tunerB.weakRun = 24 ∧ (searchingB .trim 0 0 0 6 true).tun.tunerB.afcHistory.length < 7 ∧
      (searchingB .trim 0 0 0 7 true).tun.tunerB.afcHistory.length = 7 ∧ (searchingB .trim 0 0 0 7 true).cue.b.current = none ∧
      (((searchingB .trim 0 0 0 7 true).tun.tunerB.afcHistory.sum + 9).tdiv 8 = 16) ∧
      (searchingB .trim 0 0 0 7 true).tun.tunerB.frequency = some 3399) ∧
    (({ searchingB .trim 0 0 0 7 true with lpt := { ready.lpt with settlingB := .trim } }).settling .b = .trim) := by
  and_intros <;> decide

/-- The external box in view. -/
def boxViewed : State := { silent with lpt := { silent.lpt with viewSource := some .external } }

/-- A session that records the external box. -/
def boxRecorded : State :=
  { recording with
    lpt := { recording.lpt with sessionSource := some .ext }
    tun := { recording.tun with ext := { ExtRecord.cleared with owner := .record } } }

theorem witness_OutboundFieldsBegin :
    ready.asleep = false ∧ ({ ready with sto := { ready.sto with power := .standby } }).asleep = false ∧
    (deck .play).sto.power = .on ∧ ready.sto.power = .on ∧ boxViewed.lpt.viewSource = some .external ∧
    (boxViewed.asleep = false ∧ boxViewed.monChoice = .stream .aux ∧ boxViewed.recChoice ≠ .stream .aux ∧
      boxViewed.lpt.aux.presence = .silent) ∧
    (boxRecorded.asleep = false ∧ boxRecorded.recChoice = .stream .aux ∧ boxRecorded.lpt.viewSource = none ∧
      boxRecorded.lpt.sessionSource = some .ext) ∧
    ({ boxRecorded with lpt := { boxRecorded.lpt with viewSource := some .tunerB } }).monChoice ≠ .stream .aux := by
  and_intros <;> decide

/-- A stream in a field, with the lines 1 to 5 taken. -/
def inField : FieldRecord :=
  { presence := .live, header := some { parity := .first, grade := 15, afc := 0 }, lastLine := some 5, silence := some 40 }

/-- A field of a stream, being sent or ended, on MON and on REC. -/
def onMon (i : Inbound) (sending : Bool) : MonField :=
  { parity := .first, grade := 15, source := some i, sending := sending, lines := [] }
def onRec (i : Option Inbound) (sending : Bool) (p : Parity) (frame : Option Nat) : RecField :=
  { parity := p, grade := 15, source := i, sending := sending, frame := frame, line9 := [], line10 := [], lines := [] }

/-- The directory write with the SECOND field of frame `n` on REC. -/
def lastFrame (n : Nat) : State :=
  { deck .dirWrite .writing with
    tcb := { Tcb.reset with absPos := 75 }
    lpt := { ready.lpt with recField := some (onRec none false .second (some n)) } }

/-- A field of tuner B's stream being sent on MON, and one of tuner A's on REC; the streams in a field, or SILENT. -/
def sendingFields (p : StreamPresence) : State :=
  { ready with lpt := { ready.lpt with
      ta := { inField with presence := p }, tb := { inField with presence := p }
      mon := some (onMon .tb true), recField := some (onRec (some .ta) true .first none) } }

theorem witness_OutboundFieldsBegin_sending :
    ((lastFrame 74).lastFrameOnRec ∧ ¬ (lastFrame 73).lastFrameOnRec ∧ ∃ w, exec .dirWriteComplete (lastFrame 74) = .next w) ∧
    ((∃ m, (sendingFields .live).lpt.mon = some m ∧ m.sending = true ∧
        ∀ i, m.source = some i → ((sendingFields .live).lpt.field i).presence ≠ .silent) ∧
      ∃ r, (sendingFields .live).lpt.recField = some r ∧ r.sending = true ∧
        ∀ i, r.source = some i → ((sendingFields .live).lpt.field i).presence ≠ .silent) ∧
    (¬ ∃ r, (lastFrame 74).lpt.recField = some r ∧ r.sending = true ∧
      ∀ i, r.source = some i → ((lastFrame 74).lpt.field i).presence ≠ .silent) ∧
    ((sendingFields .silent).lpt.field .tb).presence = .silent ∧
    (((settling 2).tuner .b).owner ≠ .none ∧ (settling 2).settling .b = .tune ∧ 2 ≤ ((settling 2).tuner .b).settle) := by
  refine ⟨⟨⟨rfl, rfl, by decide, _, 74, rfl, rfl, rfl, by decide⟩, ?_, ⟨_, rfl⟩⟩, ⟨⟨_, rfl, rfl, ?_⟩, _, rfl, rfl, ?_⟩, ?_,
    by decide, by decide, by decide, by decide⟩
  · rintro ⟨-, -, -, r, n, h, -, h2, h3⟩
    cases h; cases h2; exact absurd h3 (by decide)
  · intro i h; cases h; decide
  · intro i h; cases h; decide
  · rintro ⟨r, h, h2, -⟩
    cases h; exact absurd h2 (by decide)

/-- A blank-field row does not cut a field of a stream that is being sent; a SILENT stream's field is over. -/
theorem test_blank_field_waits :
    exec (.generatedBlankField .mon) (sendingFields .live) = .next (sendingFields .live) ∧
    ∃ t, exec (.generatedBlankField .mon) (sendingFields .silent) = .next t ∧ t.lpt.mon.map MonField.source = some none := by
  refine ⟨rfl, _, rfl, by decide⟩

/-- CTRL in a field, with or without a first line pending. -/
def commanded (p : Option PendingLine) : State :=
  { ready with lpt := { ready.lpt with ctrl := inField }, clu := { ready.clu with pendingLine := p } }

/-- Tuner B's stream in a field, its cue line 16, the last cue as given. -/
def heard (last current : Option Cue) : State :=
  { ready with
    lpt := { ready.lpt with tb := inField, cueLineB := some 16 }
    cue := { ready.cue with b :=
      { CueRecord.tunedTo (some 5) with taking := true, lastCue := last, current := current } } }

/-- READ CLOCK, tag 12, in one line: the sum of tag, code, length and check is 0. -/
def readClockLine : List Byte := [4, 12, 32, 0, 212] ++ List.replicate 16 0

theorem witness_LinesAreTakenAndHandedOn_command :
    (ready.asleep = false ∧ (ready.lpt.field .ctrl).presence = .awaiting) ∧
    ((commanded none).asleep = false ∧ ((commanded none).lpt.field .ctrl).presence ≠ .awaiting ∧
      ((commanded none).lpt.field .ctrl).lastLine = some 5 ∧ 5 < (6 : BitVec 16).toNat ∧ (313 : BitVec 16).toNat ≤ 313 ∧
      (commanded none).lpt.mon = none ∧ (commanded none).lpt.recField = none ∧ (commanded none).clu.lineCount ≤ 1) ∧
    (readClockLine.length = 21 ∧ ([12, 32, 0, 212] : List Byte).sum = 0 ∧ (0 : Byte).toNat ≤ 16 ∧
      (List.replicate 16 (0 : Byte)).length = 16) ∧
    (16 < (17 : Byte).toNat ∧ (24 : Byte).toNat ≤ 24 ∧ 24 < (25 : Byte).toNat) ∧
    (commanded (some { tag := 1, code := 1, length := 24, check := 0, args := [] })).clu.pendingLine =
      some { tag := 1, code := 1, length := 24, check := 0, args := [] } := by
  and_intros <;> decide

theorem witness_LinesAreTakenAndHandedOn_parity :
    ∀ b ∈ readClockLine.map (fun b => (b, decide (((List.range 8).filter fun k => b.getLsbD k).length % 2 = 0))),
      (((List.range 8).filter fun k => b.1.getLsbD k).length + (if b.2 then 1 else 0)) % 2 = 1 := by decide +kernel

theorem witness_LinesAreTakenAndHandedOn_cue :
    ((heard none none).cueLine .b = some (16 : BitVec 16).toNat ∧ (heard none none).settling .b = .none ∧
      (heard none none).cue.b.tuning = some (some 5) ∧ (heard none none).cue.b.taking = true ∧
      (heard none none).cue.b.lastCue ≠ some cue) ∧
    ((heard (some cue) (some cue)).cue.b.current = some cue) ∧
    ((heard (some cue) none).cue.b.lastCue = some cue ∧ (heard (some cue) none).cue.b.current ≠ some cue ∧
      (heard (some cue) none).schedulerIdle ∧ (heard (some cue) none).tun.search.state = .idle ∧
      (heard (some cue) none).cue.ring.length < 8) ∧ (ringed 8 (heard (some cue) none)).cue.ring.length = 8 ∧
    (16 * 256 + 24 = cue.network ∧ (2 : Byte).toNat ≤ 2 ∧ (31 : Byte).toNat ≤ 31 ∧ (59 : Byte).toNat ≤ 59) := by
  and_intros <;> decide

theorem witness_LinesAreTakenAndHandedOn_passed :
    ((onMon .aux true).source = some .aux ∧ (onMon .aux true).sending = true ∧
      ({ ready with lpt := { ready.lpt with aux := inField, mon := some (onMon .aux true) } }).asleep = false ∧
      ({ ready with lpt := { ready.lpt with aux := inField, mon := some (onMon .aux true) } }).lpt.recField = none) ∧
    ((onRec (some .ta) true .first none).sending = true ∧ (inField.presence ≠ .awaiting ∧ inField.header ≠ none) ∧
      ({ ready with lpt := { ready.lpt with ta := inField, settlingA := .tune } }).settling .a = .tune) ∧
    ({ presence := .silent, header := none, lastLine := none, silence := none } : FieldRecord).header = none := by
  and_intros <;> decide

/-- Bytes with their parity bits, each odd. -/
def withOdd (l : List Byte) : List (Byte × Bool) := l.map fun b => (b, ((List.range 8).filter fun k => b.getLsbD k).length % 2 = 0)

/-- PLAY in a field of the directory read, at an absolute position. -/
def filing (p : Parity) (n : Nat) : State :=
  { deck .dirRead with
    tcb := { Tcb.reset with exact := true, pulseSinceExact := true, absPos := n }
    dir := { Dir.reset with collecting := true, blankTested := true }
    lpt := { ready.lpt with play := { inField with header := some { parity := p, grade := 15, afc := 0 } } } }

theorem witness_LinesAreTakenAndHandedOn_filed :
    ((filing .first 57).asleep = false ∧ (filing .first 57).trc.state = .dirRead ∧ (filing .first 57).tcb.exact = true ∧
      (filing .first 57).tcb.pulseSinceExact = true ∧ (filing .first 57).dir.collecting = true ∧
      (filing .first 57).dir.blankTested = true ∧ (filing .first 57).lpt.mon = none) ∧
    ((filing .first 57).tcb.absPos = 10 + 20 * 2 + 24 / 4 + 1 ∧ 24 % 4 < 2 ∧ (9 : BitVec 16).toNat = 9 + 24 % 2) ∧
    ((filing .second 11).tcb.absPos = 10 + 20 * 0 + 3 / 4 + 1 ∧ ¬ 3 % 4 < 2 ∧ (10 : BitVec 16).toNat = 9 + 3 % 2) ∧
    (∀ b ∈ withOdd (3 :: 0 :: List.replicate 19 255),
      (((List.range 8).filter fun k => b.1.getLsbD k).length + (if b.2 then 1 else 0)) % 2 = 1) ∧
    (deck .play).trc.state ≠ .dirRead := by
  refine ⟨by and_intros <;> decide, by decide, by decide, by decide +kernel, by decide⟩

/-- The file of copy 3's last place, which the row gives. -/
theorem test_dir_line_is_filed :
    ∃ t, exec (.linePacket .play 9 (.data (withOdd (3 :: 0 :: 0 :: 0 :: 0 :: List.replicate 16 7)))) (filing .first 57) = .next t ∧
      (t.dir.copies[2]?.bind fun places => places[24]?) = some (some (List.replicate 16 7)) := ⟨_, rfl, by decide +kernel⟩

/-- A time line's bytes: kind 2, the station header, the date and time in UTC, the offset in half hours. -/
def timeLine (offset : Byte) : List Byte := [2, 0, 0, 0, 0, 14, 5, 24, 20, 14, 1, offset] ++ List.replicate 9 0

/-- A time in UTC with its offset, as heard last. -/
def heardTime (offset : Int) : TimeDecode :=
  { at_ := { date := { day := 14, month := 5, year := 24 }, hour := 20, minute := 14, second := 0 }, offset := offset }

/-- Tuner B's stream in a field, a time heard one second before. -/
def timeHeard (offset : Int) (auto : Bool) : State :=
  { heard none none with
    cue := { ready.cue with b :=
      { CueRecord.tunedTo (some 5) with taking := true, lastTime := some (heardTime offset) } }
    clk := { ready.clk with autoSet := auto } }

theorem witness_TimeLinesSetTheClock :
    ((timeHeard 4 true).hears .b 16 (withOdd (timeLine 4))) ∧
    ((withOdd (timeLine 4)).map Prod.fst = 2 :: ([0, 0, 0, 0] ++ [14, 5, 24, 20, 14, 1, 4] ++ List.replicate 9 0)) ∧
    ((24 : Byte).toInt = 24 ∧ (232 : Byte).toInt = -24 ∧ (25 : Byte).toInt = 25) ∧
    ((timeHeard 4 true).cue.b.tuning.isSome ∧ (timeHeard 4 true).cue.b.taking = true ∧ (timeHeard 4 true).starting = false ∧
      (timeHeard 4 true).clk.autoSet = true ∧ (timeHeard 4 true).clk.status = .unset ∧ (timeHeard 4 true).schedulerIdle) ∧
    ((timeHeard 4 false).clk.autoSet = false ∧
      ({ date := { day := 14, month := 5, year := 24 }, hour := 22, minute := 14, second := 1 } : DateTime).valid = true) := by
  refine ⟨⟨by decide, by decide, by decide, by decide, by decide, ?_, by decide +kernel, by decide, by decide⟩, by decide +kernel,
    by decide, by and_intros <;> decide, by decide⟩
  intro last h; cases h; decide

/-- A confirmed time sets the clock to its local time. -/
theorem test_time_sets_the_clock :
    ∃ t, exec (.linePacket .tb 16 (.data (withOdd (timeLine 4)))) (timeHeard 4 true) = .next t ∧
      t.clk.now = { date := { day := 14, month := 5, year := 24 }, hour := 22, minute := 14, second := 1 } ∧
      t.clk.status = .setBroadcast := ⟨_, rfl, by decide +kernel⟩

/-- The deck threading, with its limit running. -/
def threading : State := { deck .loading with trc := { (deck .loading).trc with threadingLimit := some 8000 } }

/-- The deck unthreading, with its limit running. -/
def unthreading (st : TState) (ph : Phase) (dew : Bool) (h : Option Held) : State :=
  { deck st ph with
    trc := { (deck st ph).trc with unthreadingLimit := some 8000, held := h }
    pins := { (deck st ph).pins with dew := dew } }

theorem witness_SwitchesMoveTheCassette :
    asleep.asleep = true ∧ (ready.asleep = false ∧ ready.trc.state = .empty) ∧
    ((deck .ejected).asleep = false ∧ (deck .ejected).trc.state = .ejected) ∧
    (({ deck .unloading .pushOut with trc := { (deck .unloading .pushOut).trc with pushOutLimit := some 8000 } }).asleep = false ∧
      (deck .unloading .pushOut).letsGo .done .none (deck .unloading .pushOut).clu) ∧
    (threading.asleep = false ∧ threading.trc.threadingLimit.isSome ∧ threading.pins.dew = false ∧
      threading.pins.startSensor = false ∧ threading.trc.heldStart = none ∧ (atStart threading).pins.startSensor = true ∧
      (atStart threading).sch.session = none) ∧
    ((deck .dewHold .dewRethread).asleep = false ∧ (deck .dewHold .dewRethread).trc.phase = .dewRethread) ∧
    (unthreading .unloading .unthread false none).trc.unthreadingLimit.isSome ∧
    (∃ id, (unthreading .dewHold .dewUnthread true (some { id := 0, code := 11 })).trc.held = some { id := id, code := 11 }) ∧
    ((unthreading .dewHold .dewUnthread true none).pins.dew = true ∧ (unthreading .dewHold .dewUnthread true none).trc.held = none) ∧
    (unthreading .dewHold .dewUnthread false none).pins.dew = false := by
  refine ⟨by decide, ?_, ?_, ⟨by decide, .inl ⟨rfl, rfl⟩⟩, ?_, ?_, by decide, ⟨0, rfl⟩, ?_, by decide⟩ <;> and_intros <;> decide

theorem witness_SensorsStopTheTape :
    asleep.asleep = true ∧ (deck .stopped).trc.state = .stopped ∧ (deck .stopped).asleep = false ∧ ready.trc.state = .empty ∧
    ((deck .windBack).asleep = false ∧ (deck .windBack).letsGo .failed .notReached (deck .windBack).clu) ∧
    ({ deck .lockup .backspace with trc := { (deck .lockup .backspace).trc with backspaceCount := 49 } }).asleep = false ∧
    ((deck .dirWrite .writeRewind).trc.phase = .writeRewind ∧ (deck .play).trc.state = .play ∧
      (deck .dirRead).trc.state = .dirRead ∧ (deck .lockup .leaderClear).trc.phase = .leaderClear ∧
      (deck .dirWrite .writeLead).trc.servoLocked = false ∧
      (deck .dirWrite .writeLead).letsGo .failed .lock (deck .dirWrite .writeLead).clu) ∧
    ((deck .windFwd).sch.session = none ∧ (deck .windFwd).letsGo .failed .notReached (deck .windFwd).clu) ∧
    (recording.trc.state = .record ∧ recording.sch.session = some { manual with state := .active } ∧ recording.trc.held = none) ∧
    ((deck .stopped).trc.takesOrder ∧ (deck .stopped).letsGo .failed .dew (deck .stopped).clu) ∧
    (deck .dewHold .dewWait).trc.phase = .dewWait := by
  refine ⟨by decide, by decide, by decide, by decide, ⟨by decide, .inl ⟨rfl, rfl⟩⟩, by decide,
    ⟨by decide, by decide, by decide, by decide, by decide, .inl ⟨rfl, rfl⟩⟩, ⟨by decide, .inl ⟨rfl, rfl⟩⟩,
    by and_intros <;> decide, ⟨by decide, .inl ⟨rfl, rfl⟩⟩, by decide⟩

/-- The deck locating, toward a target. -/
def locating (kind : LocateKind) (target : Option Int) (remaining : Nat) : State :=
  { deck .locate .wind with trc := { (deck .locate .wind).trc with
      locate := some { kind := kind, target := target, remaining := remaining, direction := .forward, endAction := .stop } } }

/-- The steady window open, both reels timed, the selected profile VALID, `n` values held. -/
def measuring (n : Nat) : State :=
  { deck .play with tcb := { Tcb.reset with
      steadyOpen := true, supplySeen := true, takeUpSeen := true, supplyPeriod := some 1500
      profiles := profile :: List.replicate 7 Profile.empty, history := List.replicate n 178594 } }

theorem witness_PulsesCountAndMeasure :
    ((deck .play).asleep = false ∧ (deck .play).tcb.absPos ≤ 899999) ∧
    ({ deck .play with tcb := { Tcb.reset with absPos := 899999 } }).tcb.absPos ≤ 899999 ∧
    ((locating .counter (some 1) 0).asleep = false ∧ (locating .counter (some 1) 0).trc.phase = .wind ∧
      (locating .counter (some 1) 0).letsGo .done .none (locating .counter (some 1) 0).clu) ∧
    ((locating .index none 2).trc.locate.map LocateTarget.remaining = some 2) ∧
    (recording.trc.state = .record ∧ (deck .lockup .lock).trc.phase = .lock ∧ (deck .lockup .reserve).tcb.absPos + 1 < 75 ∧
      (deck .lockup .backspace).trc.backspaceCount < 49 ∧ (deck .lockup .forwardRun).trc.phase = .forwardRun) ∧
    ((deck .play).tcb.steadyOpen = false ∧ (measuring 0).tcb.steadyOpen = true ∧ (measuring 0).tcb.takeUpSeen = true ∧
      (measuring 0).tcb.supplyPeriod = some 1500 ∧ ((measuring 0).profile (measuring 0).tcb.selected).valid = true ∧
      (measuring 6).tcb.history.length < 7 ∧ (measuring 6).tcb.nearEnd = false ∧
      (measuring 8).tcb.history = 178594 :: List.replicate 7 178594 ∧ (measuring 8).sch.session = none) := by
  refine ⟨?_, by decide, ⟨by decide, by decide, .inl ⟨rfl, rfl⟩⟩, by decide, ?_, ?_⟩ <;> and_intros <;> decide

/-- A session of entry 3 under CLOCK, from 20:00 to 21:00 of day 8,900, ACTIVE with the AUTO mark at speed 1. -/
def autoSession : Session :=
  { manual with
    origin := some 3, state := .active, autoMark := true, occurrence := some (8900 * 1440 + 1200, 8900 * 1440 + 1260)
    stopRule := .clock }

/-- It records an hour before its stop, the history full of `m` frames, a pause kept or not. -/
def recordingAuto (m : Nat) (pause : Bool) : State :=
  withSession autoSession { deck .record with
    trc := { (deck .record).trc with heldPause := pause }
    clk := { ready.clk with status := .setManual, now :=
      { date := { day := 14, month := 5, year := 24 }, hour := 20, minute := 0, second := 0 } }
    tcb := { (measuring 8).tcb with history := List.replicate 8 m } }

theorem witness_PulsesCountAndMeasure_auto :
    ((recordingAuto 1000 false).asleep = false ∧ (recordingAuto 1000 false).trc.state = .record ∧
      (recordingAuto 1000 false).trc.heldPause = false ∧ (recordingAuto 1000 true).trc.heldPause = true ∧
      (recordingAuto 1000 true).trc.heldResume = none) ∧
    (autoSession.state = .active ∧ autoSession.autoMark = true ∧ autoSession.currentSpeed = .one ∧ autoSession.switched = false ∧
      8900 * 1440 + 1260 < 36525 * 1440) ∧
    ((8900 * 1440 + 1260) * 60 - (recordingAuto 0 false).clk.now.seconds) * 25 = 90000 := by
  and_intros <;> decide

/-- A short estimate switches the session to speed 2, and the tape runs back for the seam; a long one changes nothing. -/
theorem test_auto_switch :
    (match exec (.takeUpReelPulse 4000) (recordingAuto 0 false) with
      | .next t => decide (t.trc.state = .lockup) && decide (t.trc.orderedSpeed = .two)
      | _ => false) = true ∧
    (match exec (.takeUpReelPulse 700) (recordingAuto 200000 false) with
      | .next t => decide (t.trc.state = .record)
      | _ => false) = true := by decide +kernel

/-- The deck in a motion, with the motion-steady event awaited. -/
def steady (st : TState) : State := { deck st with trc := { (deck st).trc with steadyAwaited := true } }

/-- The motors braking in a state. -/
def braking (st : TState) (h : Option Held) (due : Bool) : State :=
  { deck st with
    trc := { (deck st).trc with atRestMark := true, held := h, rewindDue := due }
    clu := { Clu.reset with inFlight := h.toList.map fun x => { id := x.id, tag := 0, code := x.code, owner := .trc }, nextId := 1 } }

/-- RECORD held at the end of the lock-up, the session STARTING. -/
def lockingUp : State :=
  { withSession manual (deck .lockup .lock) with
    trc := { (deck .lockup .lock).trc with lockupLock := some 3000, held := some { id := 0, code := 2 } }
    clu := { Clu.reset with inFlight := [{ id := 0, tag := 0, code := 2, owner := .trc }], nextId := 1 } }

theorem witness_ServoAndMotorsAreFollowed :
    ((deck .record).asleep = false ∧ (deck .windFwd).trc.state = .windFwd ∧ (deck .dirRead).trc.state = .dirRead) ∧
    (({ deck .play with trc := { (deck .play).trc with playLock := some 3000 } }).trc.playLock.isSome ∧
      (deck .play).trc.held = none) ∧
    (lockingUp.sch.session = some manual ∧ lockingUp.tcb.exact = false ∧ lockingUp.trc.heldPause = false ∧
      lockingUp.letsGo .done .none (lockingUp.clu.completed { id := 0, tag := 0, code := 2, owner := .trc } .done .none)) ∧
    ((deck .play).trc.steadyAwaited = false ∧ (steady .locate).trc.steadyAwaited = true ∧
      (steady .windFwd).letsGo .done .none (steady .windFwd).clu ∧ (∀ h ∈ (steady .windFwd).trc.held, h.code = 5)) ∧
    ((braking .unloading none false).trc.atRestMark = true ∧ (braking .dewHold none false).trc.state = .dewHold ∧
      (braking .stopped none false).trc.heldStart = none ∧ (braking .stopped none true).trc.rewindDue = true ∧
      (braking .stopped (some { id := 0, code := 4 }) false).letsGo .done .none
        ((braking .stopped (some { id := 0, code := 4 }) false).clu.completed
          { id := 0, tag := 0, code := 4, owner := .trc } .done .none)) ∧
    ({ withSession manual (braking .stopped none false) with
        trc := { (braking .stopped none false).trc with heldStart := some (.one, true) } }).pins.startSensor = false := by
  refine ⟨by and_intros <;> decide, by and_intros <;> decide, ⟨by decide, by decide, by decide, .inr ⟨_, rfl, rfl, rfl⟩⟩,
    ⟨by decide, by decide, .inl ⟨rfl, rfl⟩, ?_⟩, ⟨by decide, by decide, by decide, by decide, .inr ⟨_, rfl, rfl, rfl⟩⟩, by decide⟩
  intro h hh; cases hh

/-- A definition for one date, under the label of `cue`, and its entry. -/
def labelled : TimerDef := { once with label := cue.label }
def labelEntry (st : EntryState) : TimerEntry := { armed labelled with state := st }

/-- A session of entry 3 under LABEL that starts. -/
def startingByLabel : Session := { manual with origin := some 3, stopRule := .label, firstSpeed := some .one }

/-- RECORD is about to begin over a known directory of `n` entries, the session of entry 3, a hold pending or not. -/
def lockingUpOver (n : Nat) (hold : Bool) : State :=
  let s := withEntry (armed daily) (exact lockingUp)
  { s with
    dir := { Dir.reset with state := .valid, image := (List.range n).map fun k => closed (75 + 1000 * k) 1000 }
    sch := { s.sch with session := some { startingByLabel with holdPending := hold } } }

theorem witness_ServoAndMotorsAreFollowed_opens :
    ((lockingUpOver 23 false).tcb.exact = true ∧ (lockingUpOver 23 false).dir.state ≠ .unknown ∧
      (lockingUpOver 23 false).dir.image.length < 24 ∧ 24 ≤ (lockingUpOver 24 false).dir.image.length ∧
      ((lockingUpOver 23 false).timer 3).state ≠ .waiting ∧
      (∀ h ∈ (lockingUpOver 23 false).trc.held, h.code = 2)) ∧
    ((lockingUpOver 0 true).sch.session.map Session.holdPending = some true ∧
      (lockingUpOver 0 true).trc.phase = .lock ∧ (lockingUpOver 0 true).trc.lockupLock.isSome) ∧
    ((braking .loading none false).trc.atRestMark = true ∧ (braking .loading none false).trc.state = .loading) := by
  refine ⟨⟨by decide, by decide, by decide +kernel, by decide +kernel, by decide, ?_⟩, by and_intros <;> decide, by and_intros <;> decide⟩
  intro h hh; cases hh; rfl

/-- The same session while its entry still waits, no watch standing. -/
theorem witness_ServoAndMotorsAreFollowed_waiting :
    let s := withEntry (labelEntry .waiting) (lockingUpOver 0 false)
    (s.timer 3).state = .waiting ∧ s.sch.watch = none ∧
    ∀ j e, j ≠ 3 → s.sch.timers[j]? = some e → e.state ≠ .waiting := by
  refine ⟨by decide, by decide, fun j e hj h => ?_⟩
  have small : ∀ j : Fin 16, j.val ≠ 3 → ∀ e ∈ (withEntry (labelEntry .waiting) (lockingUpOver 0 false)).sch.timers[j.val]?,
      e.state ≠ .waiting := by decide
  exact small ⟨j, (List.getElem?_eq_some_iff.1 h).1⟩ hj e h

theorem witness_FaultsStopTheTransport :
    (threading.asleep = false ∧ threading.sch.session = none ∧ threading.letsGo .failed .fault threading.clu ∧
      threading.trc.threadingLimit.isSome ∧ threading.trc.unthreadingLimit = none ∧ threading.pins.cassette = .home) ∧
    ((unthreading .unloading .unthread false none).trc.unthreadingLimit.isSome) ∧
    ((deck .play).trc.takesOrder ∧ (deck .play).letsGo .failed .stall (deck .play).clu ∧ (deck .play).trc.supplyWatch = none) ∧
    (({ deck .play with trc := { (deck .play).trc with supplyWatch := some 4096, takeUpWatch := some 1 } }).trc.takeUpWatch.isSome) := by
  exact ⟨⟨by decide, by decide, .inl ⟨rfl, rfl⟩, by decide, by decide, by decide⟩, by decide,
    ⟨by decide, .inl ⟨rfl, rfl⟩, by decide⟩, by decide⟩

/-- The directory read at the end of its region, with `d` for the directory. -/
def regionEnd (d : Dir) : State :=
  { deck .dirRead with tcb := { Tcb.reset with exact := true, absPos := 75 }, dir := d }

/-- A copy of a directory of one entry, for profile 0. -/
def copyOfOne : List (Option (List Byte)) := fragmentsOf (copyBytes 0 7 [closed 75 1000])

/-- The forward run ends at frame 2,500 with a session that has switched, its open entry not told yet. -/
def switching : State :=
  let s := exact (withSession { manual with state := .active, switched := true } (deck .lockup .forwardRun))
  { s with
    trc := { s.trc with recordingSpeed := .one, orderedSpeed := .two }
    tcb := { s.tcb with absPos := 2500 }
    dir := { writing.dir with state := .valid } }

theorem witness_LimitsAndCountsRunOut_limits :
    (({ deck .playPause with trc := { (deck .playPause).trc with pauseTimer := some 300000 } }).asleep = false) ∧
    ((withSession { pausedSession with pauseCause := some .label } (deck .recordPause)).trc.state = .recordPause) ∧
    ((deck .play).letsGo .failed .lock (deck .play).clu) ∧
    ((withSession manual (deck .lockup .lock)).sch.session = some manual ∧ manual.state ≠ .closing) ∧
    ((deck .dirRead).trc.seek = none ∧ (deck .dirRead).asleep = false) ∧
    (({ deck .play with tcb := { Tcb.reset with steadyOpen := true, blankTimer := some 1000 } }).tcb.blankTimer.isSome) ∧
    (75 ≤ (regionEnd Dir.reset).tcb.absPos ∧ (deck .lockup .reserve).trc.phase = .reserve ∧
      ({ deck .lockup .backspace with trc := { (deck .lockup .backspace).trc with backspaceCount := 50 } }).trc.backspaceCount = 50) ∧
    ((withSession { manual with state := .active } (deck .lockup .forwardRun)).trc.backspaceCount = 0 ∧
      (∀ h ∈ (deck .lockup .forwardRun).trc.held, h.code = 2 ∨ h.code = 3)) ∧
    ((switching.sch.session.map Session.switched = some true) ∧ switching.trc.recordingSpeed = .one ∧
      switching.trc.orderedSpeed = .two ∧ ∃ e ∈ switching.dir.image, e.length = none ∧ e.switchFrame = none) := by
  refine ⟨by decide, by decide, .inl ⟨rfl, rfl⟩, by and_intros <;> decide, by and_intros <;> decide, by decide,
    by and_intros <;> decide, ⟨by decide, ?_⟩, by decide, by decide, by decide, openEntry, by decide, by decide, by decide⟩
  intro h hh; cases hh

/-- The seam at the new speed is noted in the open entry. -/
theorem test_seam_notes_the_switch :
    ∃ t, exec .seamWriteFrame switching = .next t ∧ t.dir.image.map DirEntry.switchFrame = [none, some 2500] := ⟨_, rfl, by decide⟩

theorem witness_LimitsAndCountsRunOut_written : (lastFrame 74).asleep = false ∧ (lastFrame 74).lastFrameOnRec ∧
    ¬ (deck .dirWrite .writing).lastFrameOnRec := by
  refine ⟨by decide, ⟨rfl, rfl, by decide, _, 74, rfl, rfl, rfl, by decide⟩, ?_⟩
  rintro ⟨-, -, h, -⟩; exact absurd h (by decide)

theorem witness_LimitsAndCountsRunOut_region :
    ((regionEnd Dir.reset).asleep = false ∧ (regionEnd Dir.reset).tcb.exact = true ∧ (regionEnd Dir.reset).trc.seek = none ∧
      (regionEnd Dir.reset).dir.collecting = false) ∧
    (({ Dir.reset with collecting := true, copies := [copyOfOne] }).copies.findSome? judgeCopy =
      some ([closed 75 1000], 0, 7)) ∧
    (({ Dir.reset with collecting := true } : Dir).copies.findSome? judgeCopy = none) ∧
    ((deck .dirWrite .writing).trc.phase = .writing) ∧
    ((locating .absolute (some 0) 0).trc.locate.bind LocateTarget.target = some ((locating .absolute (some 0) 0).tcb.absPos : Int) ∧
      (locating .index none 0).trc.locate.map LocateTarget.remaining = some 0 ∧
      (locating .index none 0).letsGo .done .none (locating .index none 0).clu) := by
  refine ⟨by and_intros <;> decide, by decide +kernel, by decide +kernel, by decide, by decide, by decide, .inl ⟨rfl, rfl⟩⟩

/-- A session that closes while the motors brake, with or without an entry. -/
def closing (k : Option Nat) : Session :=
  { manual with origin := k, state := .closing, closeReason := some .userStop, startedAt := some ready.clk.now }

/-- The state in which it closes. -/
def closingState (k : Option Nat) (t : TimerDef) : State :=
  let s := withSession (closing k) (withEntry { armed t with state := .recording } (braking .stopped none false))
  { s with tun := { s.tun with tunerA := Tuner.tunedTo .record (some 5) 5000 0 16 } }

theorem witness_AtRestACloseEnds :
    (closingState none daily).asleep = false ∧ (closingState none daily).trc.atRestMark = true ∧
    (closingState none daily).trc.state = .stopped ∧ (closingState none daily).sch.session = some (closing none) ∧
    (closingState none daily).tun.tunerA.owner = .record ∧ (closingState none daily).trc.held = none ∧
    (closingState none daily).sch.clears = [] ∧ (closingState none daily).trc.rewindDue = false ∧
    (closingState none daily).watchesNothing ∧ (∀ e ∈ (closingState none daily).sch.timers, e.deferred = false) ∧
    ((closingState (some 3) daily).timer 3).defn = some daily ∧ ((closingState (some 3) once).timer 3).defn = some once ∧
    (closing (some 3)).startedAt.isSome := by
  and_intros <;> decide

/-- The close of a manual session at a time of 14-05-24, entry 3 deferred. -/
def closingDeferred (h : Nat) : State :=
  let s := closingState none daily
  { withChannel 5 air s with
    sch := { s.sch with timers := (List.replicate 16 TimerEntry.empty).set 3 { armed once with deferred := true } }
    clk := { s.clk with status := .setManual, now :=
      { date := { day := 14, month := 5, year := 24 }, hour := h, minute := 0, second := 0 } } }

theorem witness_AtRestACloseEnds_deferred :
    (closingDeferred 21).watchesNothing ∧ (closingDeferred 21).sch.session = some (closing none) ∧
    (closingDeferred 21).clk.status ≠ .unset ∧ once.stopOn 8900 * 60 = (closingDeferred 21).clk.now.seconds ∧
    (closingDeferred 20).clk.now.seconds < once.stopOn 8900 * 60 ∧ (closingDeferred 20).channel once.channel = some air ∧
    (closingDeferred 20).tun.view = none ∧ (closingDeferred 20).pins.tab = .tabIn ∧ (closingDeferred 20).trc.endLatch = false := by
  and_intros <;> decide

/-- The session of entry 3 closes before its first frame, for a CLEAR TIMER that waits, or by a unit reset. -/
def closingOtherwise (x : Session) (waiting : List InFlight) : State :=
  let s := closingState (some 3) once
  { withSession x s with
    sch := { s.sch with session := some x, clears := waiting.map InFlight.id }, clu := { s.clu with inFlight := waiting } }

theorem witness_AtRestACloseEnds_otherwise :
    let clear : InFlight := { id := 4, tag := 9, code := 36, owner := .sch }
    let unserved : State := closingOtherwise { closing (some 3) with startedAt := none, closeReason := some .done } []
    let cleared : State := closingOtherwise { closing (some 3) with clearNote := true, closeReason := some .deleted } [clear]
    let unitReset : State := closingOtherwise { closing (some 3) with byUnitReset := true, closeReason := some .failedStart } []
    (unserved.watchesNothing ∧ unserved.sch.clears = [] ∧ (unserved.timer 3).defn = some once ∧
      (∃ t, exec .atRest unserved = .next t ∧ (t.timer 3).state = .missed ∧
        (t.timer 3).outcome.map TimerOutcome.reason = some .clock)) ∧
    (cleared.watchesNothing ∧ cleared.sch.clears = [clear.id] ∧
      cleared.clu.inFlight.find? (fun g => g.id = clear.id) = some clear ∧ (∀ e ∈ cleared.sch.timers, e.deferred = false)) ∧
    (unitReset.watchesNothing ∧ unitReset.sch.clears = [] ∧ (∀ e ∈ unitReset.sch.timers, e.deferred = false)) := by
  refine ⟨⟨by decide, by decide, by decide, _, rfl, by decide, by decide⟩, by and_intros <;> decide, by and_intros <;> decide⟩

/-- An interrupted entry, deferred and past its stop at a close, is missed OVERLAP and keeps the start of its outcome. -/
theorem test_interrupted_overlap :
    let o : TimerOutcome := { missedOutcome .mains ready with lastStart := some ready.clk.now }
    let s := closingDeferred 21
    let e : TimerEntry := { armed once with deferred := true, interrupted := true, outcome := some o }
    ∃ t, exec .atRest { s with sch := { s.sch with timers := s.sch.timers.set 3 e } } = .next t ∧
      (t.timer 3).outcome = some { o with reason := .overlap } ∧ (t.timer 3).interrupted = false := by
  refine ⟨_, rfl, by decide, by decide⟩

/-- Before its stop the deferred entry opens its session; at it, it is missed OVERLAP. -/
theorem test_deferred_at_a_close :
    (∃ t, exec .atRest (closingDeferred 20) = .next t ∧ t.sch.session.map Session.origin = some (some 3)) ∧
    (∃ t, exec .atRest (closingDeferred 21) = .next t ∧ t.sch.session = none ∧
      ((t.timer 3).outcome.map TimerOutcome.reason) = some .overlap) := ⟨⟨_, rfl, by decide⟩, _, rfl, by decide, by decide⟩

/-- A minute's last second before the entry's start on day 8,900, over a table of one entry. -/
def beforeStart (h m : Nat) (s : State) : State :=
  withEntry (armed once)
    (withChannel 5 air (clocked { date := { day := 14, month := 5, year := 24 }, hour := h, minute := m, second := 59 } s))

theorem witness_AnOccurrenceOpensASession :
    ((beforeStart 19 59 (deck .stopped)).asleep = false ∧ (beforeStart 19 59 (deck .stopped)).clk.status ≠ .unset ∧
      (beforeStart 19 59 (deck .stopped)).clk.now.second = 59 ∧
      (beforeStart 19 59 (deck .stopped)).sch.timers = (List.replicate 16 TimerEntry.empty).set 3 (armed once) ∧
      (beforeStart 19 59 (deck .stopped)).sch.watch = none ∧ (beforeStart 19 59 (deck .stopped)).sch.session = none ∧
      (beforeStart 19 59 (deck .stopped)).channel once.channel = some air ∧ (beforeStart 19 59 (deck .stopped)).tun.view = none ∧
      (beforeStart 19 59 (deck .stopped)).trc.endLatch = false) ∧
    (beforeStart 19 58 ready).clk.now.secondLater.seconds < once.startOn 8900 * 60 ∧
    once.startOn 8900 * 60 = (beforeStart 19 59 ready).clk.now.secondLater.seconds ∧
    (beforeStart 20 58 ready).clk.now.secondLater.seconds < once.stopOn 8900 * 60 ∧
    (beforeStart 19 59 ready).trc.state = .empty ∧
    once.stopOn 8900 * 60 = (beforeStart 20 59 ready).clk.now.secondLater.seconds ∧
    ((beforeStart 19 59 (withSession manual (deck .stopped))).sch.session = some manual ∧ manual.stopRule = .manual ∧
      manual.deadline = none ∧ manual.origin ≠ some 3) := by
  and_intros <;> decide

/-- A minute's last second of 14-05-24, over a table of the labelled entry alone. -/
def beforeWindow (h m : Nat) : State :=
  withEntry (labelEntry .armed)
    (withChannel 5 air (clocked { date := { day := 14, month := 5, year := 24 }, hour := h, minute := m, second := 59 } (deck .stopped)))

/-- The state of entry 3 after the minute ends. -/
def entryAfter (s : State) : Option EntryState :=
  match exec .secondEvent s with
  | .next t => some (t.timer 3).state
  | _ => none

theorem witness_LabelsControlTheRecording_window :
    ((beforeWindow 19 44).asleep = false ∧ (beforeWindow 19 44).clk.status ≠ .unset ∧ (beforeWindow 19 44).sch.session = none ∧
      (beforeWindow 19 44).sch.watch = none ∧ (beforeWindow 19 44).channel labelled.channel = some air ∧
      (beforeWindow 19 44).tun.tunerA.channel ≠ some labelled.channel ∧ (beforeWindow 19 44).tun.tunerB.owner = .none ∧
      (beforeWindow 19 44).cue.a.tuning ≠ some (some labelled.channel) ∧ labelled.label.isSome) ∧
    (labelled.startOn 8900 - 15) * 60 = (beforeWindow 19 44).clk.now.secondLater.seconds ∧
    (beforeWindow 19 43).clk.now.secondLater.seconds < (labelled.startOn 8900 - 15) * 60 ∧
    (labelled.stopOn 8900 + 180) * 60 = (beforeWindow 23 59).clk.now.secondLater.seconds := by
  and_intros <;> decide

theorem test_label_window :
    entryAfter (beforeWindow 19 43) = some .armed ∧ entryAfter (beforeWindow 19 44) = some .waiting ∧
    entryAfter (beforeWindow 23 59) = some .missed := by decide

/-- The bytes of `cue` on a cue line, with a status. -/
def cueBytes (status : Byte) : List (Byte × Bool) :=
  withOdd ([1, 0, 0, 0, 0, 16, 24, 14, 5, 20, 15, status] ++ List.replicate 9 0)

/-- Tuner B watches channel 5 for the waiting entry, a cue heard once. -/
def awaitingCue (c : Cue) : State :=
  let s := withEntry (labelEntry .waiting) (withChannel 5 air (deck .stopped))
  { s with
    tun := { s.tun with tunerB := { Tuner.tunedTo .watch (some 5) 5000 0 16 with settle := 0 } }
    lpt := { s.lpt with tb := inField, cueLineB := some 16 }
    cue := { s.cue with b := { CueRecord.tunedTo (some 5) with taking := true, lastCue := some c } }
    sch := { s.sch with watch := some 5 }
    clk := { s.clk with status := .setManual } }

/-- Under a session of entry 3 instead, in a transport state. -/
def sessionHears (c : Cue) (x : Session) (st : TState) (e : EntryState) : State :=
  let s := withSession { x with origin := some 3, label := cue.label } (withEntry (labelEntry e) (awaitingCue c))
  { s with trc := { s.trc with state := st }, sch := { s.sch with watch := none } }

theorem witness_LabelsControlTheRecording_confirms : (awaitingCue cue).confirms .b 16 (cueBytes 0) cue := by
  refine ⟨⟨by decide, by decide, by decide, by decide, by decide, ?_, by decide +kernel, by decide, by decide⟩, rfl, rfl, by decide,
    [0, 0, 0, 0], List.replicate 9 0, 16, 24, 14, 5, 20, 15, 0, by decide +kernel, rfl, rfl, .inl ⟨rfl, rfl⟩,
    .inl ⟨by decide, by decide, by decide, by decide, by decide, by decide, rfl⟩⟩
  intro last h; cases h; decide

/-- A search in NAME on tuner B hears the cue of a network that the table holds. -/
def naming : State :=
  let s := withChannel 99 { air with network := some 4120 } ready
  { s with
    tun := { s.tun with
      search := { Search.begun .running 17060 with phase := .name }, tunerB := Tuner.tunedTo .search none 17060 0 16 }
    lpt := { s.lpt with tb := inField, cueLineB := some 16 }
    cue := { s.cue with b := { CueRecord.tunedTo none with taking := true, lastCue := some cue } } }

theorem witness_TheSearchWorksTunerB_name :
    naming.confirms .b 16 (cueBytes 0) cue ∧ naming.cue.b.tuning = some none ∧ naming.tun.search.state = .running ∧
    naming.tun.search.phase = .name ∧ naming.tun.search.frequency ≤ 17060 ∧
    ∃ c x, c < naming.tun.channels.length ∧ naming.channel c = some x ∧ x.network = some cue.network := by
  refine ⟨⟨⟨by decide, by decide, by decide, by decide, by decide, ?_, by decide +kernel, by decide, by decide⟩, rfl, rfl, by decide,
    [0, 0, 0, 0], List.replicate 9 0, 16, 24, 14, 5, 20, 15, 0, by decide +kernel, rfl, rfl, .inl ⟨rfl, rfl⟩,
    .inl ⟨by decide, by decide, by decide, by decide, by decide, by decide, rfl⟩⟩, rfl, rfl, rfl, by decide, 99, _, by decide, rfl, rfl⟩
  intro last h; cases h; decide

theorem witness_LabelsControlTheRecording_waiting :
    ((awaitingCue cue).channel 5 = some air ∧ (awaitingCue cue).tun.search.state = .idle ∧ (awaitingCue cue).sch.session = none ∧
      (awaitingCue cue).clk.status ≠ .unset ∧ (awaitingCue cue).pins.tab = .tabIn ∧ (awaitingCue cue).trc.endLatch = false ∧
      (awaitingCue cue).tun.view = none ∧ (awaitingCue cue).tun.tunerB.owner = .watch) ∧
    (labelled.label.isSome ∧ cue.label = labelled.label ∧ (∀ n ∈ air.network, cue.network = n)) := by
  refine ⟨by and_intros <;> decide, by decide, by decide, ?_⟩
  intro n h; cases h

/-- RUN opens the session and frees tuner B, which the search takes back; the cue was not the search's. -/
theorem test_cue_of_the_watch_is_not_the_searchs :
    let s := awaitingCue cue
    ∃ t, exec (.linePacket .tb 16 (.data (cueBytes 0)))
        { s with tun := { s.tun with search := { Search.begun .suspended 3399 with phase := .name } } } = .next t ∧
      t.tun.tunerB.owner = .search ∧ t.tun.search.phase = .name ∧ t.tun.search.network = none := by
  refine ⟨_, rfl, by decide +kernel, by decide +kernel, by decide +kernel⟩

/-- A session under LABEL, ACTIVE. -/
def labelSession : Session := { manual with state := .active, stopRule := .label }

theorem witness_LabelsControlTheRecording_session :
    (sessionHears { cue with status := .hold } labelSession .record .recording).watchesNothing ∧
    ((sessionHears cue labelSession .record .recording).timer 3).state ≠ .waiting ∧
    (sessionHears cue labelSession .record .recording).trc.held = none ∧
    (sessionHears cue labelSession .record .recording).trc.heldPause = false ∧
    (sessionHears cue { labelSession with state := .paused, pauseCause := some .label } .recordPause .paused).watchesNothing ∧
    (sessionHears cue { labelSession with stopRule := .clock } .record .recording).watchesNothing ∧
    (sessionHears cue { labelSession with state := .starting } .lockup .armed).watchesNothing := by
  and_intros <;> decide

/-- HOLD pauses the session, RUN resumes it and CLEAR closes it. -/
theorem test_label_cues :
    (∃ t, exec (.linePacket .tb 16 (.data (cueBytes 1)))
        (sessionHears { cue with status := .hold } labelSession .record .recording) = .next t ∧
      t.trc.state = .recordPause ∧ (t.timer 3).state = .paused) ∧
    (∃ t, exec (.linePacket .tb 16 (.data (cueBytes 0)))
        (sessionHears cue { labelSession with state := .paused, pauseCause := some .label } .recordPause .paused) = .next t ∧
      t.trc.state = .lockup ∧ (t.timer 3).state = .recording) ∧
    (∃ t, exec (.linePacket .tb 16 (.data (cueBytes 2)))
        (sessionHears { cue with status := .clear } labelSession .record .recording) = .next t ∧
      t.sch.session.bind Session.closeReason = some .doneLabel) := by
  refine ⟨⟨_, rfl, ?_, ?_⟩, ⟨_, rfl, ?_, ?_⟩, _, rfl, ?_⟩ <;> decide +kernel

/-- The session's cue stands at the end of its age; tuner A may hold a cue of the channel too. -/
def losingCue (onA : Option Cue) : State :=
  let s := sessionHears cue labelSession .record .recording
  { s with cue := { s.cue with
      a := { CueRecord.tunedTo (some 5) with current := onA }
      b := { s.cue.b with age := 125, current := some cue } } }

theorem witness_LabelsControlTheRecording_lost :
    125 ≤ (losingCue none).cue.b.age ∧ (losingCue none).cue.b.tuning = some (some 5) ∧ (losingCue none).cue.b.current.isSome ∧
    (losingCue none).sch.session.map Session.channel = some 5 ∧
    ((setCueRecord .b { (losingCue none).cue.b with lastCue := none, current := none } (losingCue none)).channelCue 5) = none ∧
    ((setCueRecord .b { (losingCue (some cue)).cue.b with lastCue := none, current := none } (losingCue (some cue))).channelCue 5)
      ≠ none := by
  and_intros <;> decide

/-- A session under LABEL with a deadline at 23:00 of day 8,900, before a minute ends. -/
def overrunning (h m : Nat) : State :=
  let s := sessionHears cue { labelSession with deadline := some (8900 * 1440 + 1380) } .record .recording
  { clocked { date := { day := 14, month := 5, year := 24 }, hour := h, minute := m, second := 59 } s with
    cue := { s.cue with b := { s.cue.b with current := some cue } } }

theorem witness_LabelsControlTheRecording_overrun :
    (overrunning 22 59).clk.status ≠ .unset ∧ (overrunning 22 59).channelCue 5 ≠ none ∧
    8900 * 1440 + 1380 < 36525 * 1440 ∧ (8900 * 1440 + 1380) * 60 = (overrunning 22 59).clk.now.secondLater.seconds ∧
    (overrunning 22 58).clk.now.secondLater.seconds < (8900 * 1440 + 1380) * 60 ∧ (overrunning 22 59).trc.held = none := by
  and_intros <;> decide

/-- A part whose reset input is asserted. -/
def resetHeld (p : PowerState) (valid : Bool) : State :=
  { ready with sto := { ready.sto with power := p, resetAsserted := true, validity := valid } }

theorem witness_SupplyFailsAndReturns :
    (999 < 900 + 100 * ready.sto.options.mainsLevel ∧ ready.sto.power ≠ .backup ∧ ready.sto.resetAsserted = false ∧
      ready.sch.session = none ∧ ready.tun.search.state = .idle) ∧
    (¬ 1000 < 900 + 100 * asleep.sto.options.mainsLevel ∧ asleep.sto.power = .backup ∧ asleep.sto.resetAsserted = false ∧
      asleep.sto.validity = true ∧ asleep.schedulerIdle ∧ asleep.sto.writing = none ∧ asleep.sto.pendingWrites = [] ∧
      asleep.tun.searchCut = false) ∧
    ({ asleep with tun := { asleep.tun with searchCut := true } }).tun.searchCut = true ∧
    ({ asleep with sto := { asleep.sto with validity := false } }).sto.validity = false ∧
    ((resetHeld .on true).sto.resetAsserted = true ∧ (resetHeld .on true).sto.power ≠ .backup ∧
      (resetHeld .on true).schedulerIdle ∧ (resetHeld .on false).sto.validity = false ∧
      (resetHeld .backup true).sto.power = .backup) := by
  and_intros <;> decide

/-- A part in BACKUP, or in reset, whose entry 3 was interrupted, at an hour of 14-05-24. -/
def interrupted (h : Nat) (o : TimerOutcome) (s : State) : State :=
  { withChannel 5 air s with
    sch := { s.sch with timers :=
      (List.replicate 16 TimerEntry.empty).set 3 { armed once with interrupted := true, outcome := some o } }
    clk := { s.clk with status := .setManual, now :=
      { date := { day := 14, month := 5, year := 24 }, hour := h, minute := 0, second := 0 } } }

/-- The outcome of a session that started, or did not. -/
def ended (started : Option DateTime) : TimerOutcome :=
  { lastStart := started, lastStop := ready.clk.now, reason := .mains, entryNo := none, notIndexed := false,
    seamUnlocked := false, switched := false }

theorem witness_SupplyFailsAndReturns_session :
    (timed.sto.power ≠ .backup ∧ timed.sto.resetAsserted = false ∧
      timed.sch.session = some { manual with origin := some 3, state := .active } ∧
      (∀ e ∈ timed.sch.timers, e.deferred = false) ∧ timed.tun.search.state = .idle) ∧
    ((resetHeld .on true).sto.resetAsserted = true ∧ (resetHeld .on true).sto.power ≠ .backup) ∧
    ((interrupted 21 (ended none) asleep).sto.power = .backup ∧ (interrupted 21 (ended none) asleep).sto.heldPower ≠ .backup ∧
      (interrupted 21 (ended none) asleep).sto.validity = true ∧ (interrupted 21 (ended none) asleep).sch.session = none ∧
      (interrupted 21 (ended none) asleep).tun.searchCut = false ∧
      once.stopOn 8900 * 60 ≤ (interrupted 21 (ended none) asleep).clk.now.seconds) ∧
    ((ended (some ready.clk.now)).lastStart.isSome ∧ (ended none).lastStart = none) ∧
    ((interrupted 20 (ended none) { deck .stopped with sto := asleep.sto }).clk.now.seconds < once.stopOn 8900 * 60 ∧
      (interrupted 20 (ended none) { deck .stopped with sto := asleep.sto }).pins.threaded = true ∧
      (interrupted 20 (ended none) { deck .stopped with sto := asleep.sto }).channel once.channel = some air) := by
  and_intros <;> decide

/-- The mains failure closes the session MAINS and leaves its entry interrupted; at the return it is opened again. -/
theorem test_mains_with_a_session :
    (∃ t, exec (.mainsFailure 0) timed = .next t ∧ t.sch.session = none ∧ (t.timer 3).state = .armed ∧
      (t.timer 3).interrupted = true) ∧
    (∃ t, exec (.mainsReturn 5000) (interrupted 20 (ended none) { deck .stopped with sto := asleep.sto }) = .next t ∧
      t.sch.session.map Session.origin = some (some 3) ∧ (t.timer 3).interrupted = true) :=
  ⟨⟨_, rfl, by decide, by decide, by decide⟩, _, rfl, by decide, by decide⟩

/-- A WAITING entry that a session defers keeps waiting through the failure, although a RUN for it was current (R173). -/
theorem test_waiting_through_a_failure :
    let s := withSession { manual with state := .active } (awaitingCue cue)
    ∃ t, exec (.mainsFailure 0) { s with
        trc := { s.trc with state := .record }
        cue := { s.cue with b := { s.cue.b with current := some cue } }
        sch := { s.sch with watch := none, timers := s.sch.timers.set 3 { labelEntry .waiting with deferred := true } } } =
      .next t ∧ (t.timer 3).state = .waiting ∧ t.clu.sticky &&& Sticky.entryMissed.mask = 0 := by
  refine ⟨_, rfl, by decide, by decide⟩

theorem witness_AColdStartLeavesTheseValues : ∃ t, exec .coldStart ready = .next t := ⟨_, rfl⟩

/-- A store with a write in flight and others pending. -/
def storing (p : List RecordName) : State :=
  { ready with sto := { ready.sto with writing := some (.options, frameRecord .options []), pendingWrites := p } }

theorem witness_TheStoreIsWrittenAndRead :
    (ready.asleep = false ∧ ready.starting = false ∧ ready.sto.writing = none ∧ ready.sto.pendingWrites = []) ∧
    ((storing [.irProfile]).asleep = false ∧ (storing [.irProfile]).starting = false ∧ (storing []).sto.writing.isSome ∧
      RecordName.irProfile ∈ (storing [.irProfile]).sto.pendingWrites ∧ RecordName.options ∉ (storing [.irProfile]).sto.pendingWrites) ∧
    ready.sto.reading = none ∧ State.reset.sto.reading = some 0 ∧
    ({ State.reset with sto := { State.reset.sto with reading := some 125 } }).asleep = false ∧
    sumBytes [1] ≠ 0 ∧ ready.tcb.selected = 0 := by
  and_intros <;> decide

/-- A search that runs, in a phase at a count. -/
def hunting (p : SearchPhase) (n f : Nat) (afc : Int) : State :=
  { ready with tun := { ready.tun with
      search := { Search.begun .running f with phase := p, count := n }
      tunerB := { Tuner.tunedTo .search none f 0 16 with afc := afc, settle := 0 } } }

theorem witness_TheSearchMeetsItsLimits :
    ((hunting .step 6 17195 0).asleep = false ∧ (hunting .step 6 17195 0).tun.search.state = .running ∧
      (hunting .step 6 17195 0).tun.search.frequency ≤ 17195 ∧ 6 ≤ (hunting .step 6 17195 0).tun.search.count) ∧
    ¬ 6 ≤ (hunting .step 5 17195 0).tun.search.count ∧ 25 ≤ (hunting .confirm 25 17196 0).tun.search.count ∧
    (40 ≤ (hunting .trim 40 3399 1).tun.search.count ∧ (hunting .trim 40 3399 1).cue.b.current = none ∧
      (hunting .trim 40 3399 1).settling .b = .none ∧ (hunting .trim 40 3399 1).tun.tunerB.afc = 1) ∧
    ((900 : Int) + (-1) < 900 ∧ (hunting .trim 40 900 (-1)).tun.tunerB.afc = -1) ∧
    (100 ≤ (hunting .name 100 17060 0).tun.search.count ∧ (hunting .name 100 17060 0).tun.search.network = none ∧
      (hunting .name 100 17060 0).tun.channels[0]? = some none) := by
  and_intros <;> decide

/-- A manual session that waits for its source while the motors brake. -/
def sourcing (p : StartPhase) : State :=
  { withSession { manual with startPhase := p, irWait := some 2000, source := .ext } (braking .stopped none false) with
    lpt := { ready.lpt with settlingA := .tune }
    tun := { ready.tun with tunerA := { Tuner.tunedTo .record (some 5) 5000 0 16 with settle := 0 } } }

/-- The external box sending its last key. -/
def lastKey (cut : Bool) (rest : List Byte) : State :=
  { sourcing .source with tun := { (sourcing .source).tun with ext :=
      { ExtRecord.cleared with
        owner := .record
        sending := some { key := 44, profile := IrProfile.default, rest := rest, sentFor := .record, cut := cut } } } }

theorem witness_CuesKeysAndSourcesRunOut_cues :
    (ready.asleep = false ∧ (ready.cueRecord .a).age < 125 ∧ ready.sch.session = none) ∧
    (({ ready with cue := { ready.cue with b := { ready.cue.b with age := 125, lastCue := some cue } } }).cueRecord .b).age = 125 ∧
    (ready.settling .a = .none ∧ (settling 0).settling .b ≠ .none ∧ ((settling 0).tuner .b).settle = 0 ∧
      ((settling 0).tuner .b).owner ≠ .record) ∧
    ((sourcing .source).settling .a = .tune ∧ (sourcing .source).tun.tunerA.settle = 0 ∧
      (sourcing .source).tun.tunerA.owner = .record ∧ (sourcing .source).pins.endSensor = false ∧
      (sourcing .source).trc.state = .stopped ∧ (sourcing .source).trc.atRestMark = true) := by
  and_intros <;> decide

/-- A session of entry 3 with AUTO speed that waits for its source, with or without a settled figure. -/
def choosing (figure : Option Nat) : State :=
  let s := withEntry (armed { daily with speed := .auto }) (sourcing .source)
  { s with
    sch := { s.sch with
      settledFigure := figure
      session := some { autoSession with state := .starting, startPhase := .source, autoMark := false } }
    clk := (recordingAuto 0 false).clk }

theorem witness_CuesKeysAndSourcesRunOut_auto :
    ((choosing none).settling .a = .tune ∧ (choosing none).tun.tunerA.settle = 0 ∧ (choosing none).pins.endSensor = false ∧
      (choosing none).trc.state = .stopped ∧ (choosing none).trc.atRestMark = true ∧
      ((choosing none).timer 3).defn = some { daily with speed := .auto } ∧ (choosing none).sch.settledFigure = none) ∧
    ((8900 * 1440 + 1260) * 60 - (choosing (some 90000)).clk.now.seconds) * 25 = 90000 ∧
    (choosing (some 89999)).sch.settledFigure = some 89999 := by
  and_intros <;> decide

/-- The boundary of the AUTO speed: 90,000 frames needed, 90,000 and 89,999 left. -/
theorem test_auto_speed :
    (∃ t, exec (.settleCountExpiry .a) (choosing (some 90000)) = .next t ∧ t.trc.heldStart = some (.one, true)) ∧
    (∃ t, exec (.settleCountExpiry .a) (choosing (some 89999)) = .next t ∧ t.trc.heldStart = some (.two, true)) :=
  ⟨⟨_, rfl, by decide⟩, _, rfl, by decide⟩

theorem witness_CuesKeysAndSourcesRunOut_keys :
    ready.tun.ext.sending = none ∧ (lastKey false [1]).tun.ext.sending.map IrList.rest = some [1] ∧
    (lastKey true []).tun.ext.sending.map IrList.cut = some true ∧ (lastKey true []).tun.ext.waiting = none ∧
    (lastKey false []).tun.ext.sending.map IrList.sentFor = some .record ∧ (lastKey false []).sch.session.map Session.source = some .ext ∧
    (sourcing .irWait).sch.session.map Session.startPhase = some .irWait ∧
    (∀ x ∈ ready.sch.session, x.irWait = none) ∧ (∀ x ∈ ready.sch.session, x.lossTimer = none) := by
  refine ⟨by decide, by decide, by decide, by decide, by decide, by decide, by decide, ?_, ?_⟩ <;> intro x hx <;> cases hx

/-- A label session whose loss timer runs. -/
def losing : State :=
  withSession { manual with
    origin := some 3, state := .active, stopRule := .label, cueLoss := true, lossTimer := some 1, occurrence := some (1, 2) }
    (clocked { date := { day := 1, month := 1, year := 0 }, hour := 0, minute := 2, second := 0 } (deck .record))

theorem witness_CuesKeysAndSourcesRunOut_loss :
    losing.asleep = false ∧ losing.sch.session.map Session.occurrence = some (some (1, 2)) ∧
    2 * 60 ≤ losing.clk.now.seconds ∧ losing.trc.state = .record ∧ losing.trc.held = none ∧
    (clocked { date := { day := 1, month := 1, year := 0 }, hour := 0, minute := 1, second := 59 } losing).clk.now.seconds < 2 * 60 := by
  and_intros <;> decide

end Sys2Proof.Tests
end

section
/-! PROOFS. The interpolation of the remaining tape (R40, R41). -/

namespace Sys2Proof.Proofs.Interpolation
open Sys2Proof.Machine

/-! ### The ratio and its two parts (R40) -/

/-- A supply period of at least 1 keeps the take-up period below the sum, and so the quotient below 1,024. -/
theorem periodRatio_le {ps : Nat} (hps : 1 ≤ ps) (pt : Nat) : periodRatio ps pt ≤ 1023 := by
  have hsum : 1024 * pt < (ps + pt) * 1024 := by omega
  exact Nat.le_of_lt_succ (Nat.div_lt_of_lt_mul hsum)

theorem point_le {f : Nat} (hf : f ≤ 1023) : f / 32 ≤ 31 := by omega

theorem remainder_le (f : Nat) : f - 32 * (f / 32) ≤ 31 := by omega

/-! ### The interpolated value (R41) -/

/-- The scaled drop is never more than the whole drop. -/
theorem scaledDrop_le (drop : Nat) {r : Nat} (hr : r ≤ 31) : drop * r / 32 ≤ drop := by
  have hscaled : drop * r ≤ drop * 32 := Nat.mul_le_mul_left drop (by omega)
  exact Nat.div_le_of_le_mul (by omega)

theorem interpolate_eq (points : List Nat) (f : Nat) :
    interpolate points f =
      points.getD (f / 32) 0 -
        (points.getD (f / 32) 0 - points.getD (f / 32 + 1) 0) * (f - 32 * (f / 32)) / 32 := rfl

theorem interpolate_le_point (points : List Nat) (f : Nat) : interpolate points f ≤ points.getD (f / 32) 0 :=
  Nat.sub_le _ _

/-- Where the profile does not rise, the value stays at or above the next point. -/
theorem nextPoint_le_interpolate {points : List Nat} {f : Nat}
    (hfall : points.getD (f / 32 + 1) 0 ≤ points.getD (f / 32) 0) :
    points.getD (f / 32 + 1) 0 ≤ interpolate points f := by
  have hdrop := scaledDrop_le (points.getD (f / 32) 0 - points.getD (f / 32 + 1) 0) (remainder_le f)
  rw [interpolate_eq]
  omega

theorem interpolate_of_remainder_eq_zero {points : List Nat} {f : Nat} (hr : f - 32 * (f / 32) = 0) :
    interpolate points f = points.getD (f / 32) 0 := by
  simp [interpolate_eq, hr]

theorem interpolate_of_points_eq {points : List Nat} {f : Nat}
    (hflat : points.getD (f / 32) 0 = points.getD (f / 32 + 1) 0) :
    interpolate points f = points.getD (f / 32) 0 := by
  rw [interpolate_eq, ← hflat, Nat.sub_self, Nat.zero_mul, Nat.zero_div, Nat.sub_zero]

/-- Settles O20: the ratio's bound gives the ranges of R40, and the scaled drop's bound the place between the points. -/
theorem theInterpolationMeetsItsProfile : Obligations.TheInterpolationMeetsItsProfile := by
  unfold Obligations.TheInterpolationMeetsItsProfile
  constructor
  · intro ps pt hps _ f
    have hf : f ≤ 1023 := periodRatio_le hps pt
    have hk : f / 32 ≤ 31 := point_le hf
    exact ⟨rfl, Nat.lt_add_of_pos_left hps, hf, hk, remainder_le f, by omega⟩
  · intro points f _ hfalls hf
    have hfall := hfalls (f / 32) (Nat.lt_succ_of_le (point_le hf))
    exact ⟨interpolate_eq points f, nextPoint_le_interpolate hfall, interpolate_le_point points f,
      interpolate_of_remainder_eq_zero, interpolate_of_points_eq⟩

end Sys2Proof.Proofs.Interpolation
end

section
/-! PROOFS. The close of a session over the directory (R56 to R58). -/

namespace Sys2Proof.Proofs.Reconciliation
open Sys2Proof.Machine

variable {S E : Nat} {e f e' f' : DirEntry}

/-! ### One closed entry, row by row (R57) -/

theorem stop_of_length {n : Nat} (hlen : e.length = some n) : e.stop = e.start + n := by
  rw [DirEntry.stop, hlen, Option.getD_some]

theorem reconcileEntry_covered (hS : S ≤ e.start) (hE : e.stop ≤ E) : reconcileEntry S E e = none :=
  if_pos ⟨hS, hE⟩

theorem reconcileEntry_cut (hstart : e.start < S) (hstop : S < e.stop) :
    reconcileEntry S E e =
      some { e with length := some (S - e.start), switchFrame := e.switchFrame.filter fun w => w < S } := by
  have hcovered : ¬ (S ≤ e.start ∧ e.stop ≤ E) := by omega
  rw [reconcileEntry, if_neg hcovered, if_pos ⟨hstart, hstop⟩]

theorem reconcileEntry_moved (hS : S ≤ e.start) (hstart : e.start < E) (hstop : E < e.stop) :
    reconcileEntry S E e =
      some { e with
        start := E, length := some (e.stop - E)
        switchFrame := e.switchFrame.filter fun w => E < w
        firstSpeed := if ∃ w ∈ e.switchFrame, w ≤ E then .two else e.firstSpeed } := by
  have hcovered : ¬ (S ≤ e.start ∧ e.stop ≤ E) := by omega
  have hcut : ¬ (e.start < S ∧ S < e.stop) := by omega
  rw [reconcileEntry, if_neg hcovered, if_neg hcut, if_pos ⟨hS, hstart, hstop⟩]
  simp [Option.any_eq_true]

theorem reconcileEntry_outside (hSE : S ≤ E) (hpos : e.start < e.stop) (hout : e.stop ≤ S ∨ E ≤ e.start) :
    reconcileEntry S E e = some e := by
  have hcovered : ¬ (S ≤ e.start ∧ e.stop ≤ E) := by omega
  have hcut : ¬ (e.start < S ∧ S < e.stop) := by omega
  have hmoved : ¬ (S ≤ e.start ∧ e.start < E ∧ E < e.stop) := by omega
  rw [reconcileEntry, if_neg hcovered, if_neg hcut, if_neg hmoved]

/-! ### The order of the entries -/

/-- What is kept of a nonempty entry is nonempty and lies inside the entry. -/
theorem reconcileEntry_within (hpos : e.start < e.stop) (hkept : reconcileEntry S E e = some e') :
    e.start ≤ e'.start ∧ e'.start < e'.stop ∧ e'.stop ≤ e.stop := by
  unfold reconcileEntry at hkept
  split at hkept
  case isTrue => contradiction
  split at hkept
  case isTrue hcut =>
    obtain rfl := Option.some.inj hkept
    simp only [DirEntry.stop, Option.getD_some] at hcut ⊢
    omega
  split at hkept
  case isTrue hmoved =>
    obtain rfl := Option.some.inj hkept
    simp only [DirEntry.stop, Option.getD_some] at hmoved ⊢
    omega
  case isFalse =>
    obtain rfl := Option.some.inj hkept
    exact ⟨le_rfl, hpos, le_rfl⟩

/-- `e` starts before `f` and ends by its start (R50). -/
def Precedes (e f : DirEntry) : Prop := e.start < f.start ∧ e.stop ≤ f.start

theorem reconcileEntry_precedes (he : e.start < e.stop) (hf : f.start < f.stop) (hef : Precedes e f)
    (hkeptE : reconcileEntry S E e = some e') (hkeptF : reconcileEntry S E f = some f') : Precedes e' f' := by
  obtain ⟨-, hpos, hstop⟩ := reconcileEntry_within he hkeptE
  obtain ⟨hstart, -, -⟩ := reconcileEntry_within hf hkeptF
  have hafter : e'.stop ≤ f'.start := hstop.trans (hef.2.trans hstart)
  exact ⟨hpos.trans_le hafter, hafter⟩

theorem pairwise_precedes_filterMap_reconcileEntry {image : List DirEntry} (hpos : ∀ e ∈ image, e.start < e.stop)
    (hord : image.Pairwise Precedes) : (image.filterMap (reconcileEntry S E)).Pairwise Precedes :=
  List.pairwise_filterMap.mpr <| hord.imp_of_mem fun he hf hef _ hkeptE _ hkeptF =>
    reconcileEntry_precedes (hpos _ he) (hpos _ hf) hef hkeptE hkeptF

/-! ### The image after a close (R56) -/

theorem isOpen_eq_false_of_isSome (h : e.length.isSome) : e.isOpen = false := by
  simpa [DirEntry.isOpen] using h

theorem closeEntry_written (r : EndReason) (h : e.start < E) :
    closeEntry E r e =
      some { e with
        length := some (E - e.start), endedBy := some r, switchFrame := e.switchFrame.filter fun w => w < E } :=
  if_neg (Nat.not_le.mpr h)

theorem closeEntry_unwritten (r : EndReason) (h : E ≤ e.start) : closeEntry E r e = none := if_pos h

theorem closeImage_of_closed (r : EndReason) {image : List DirEntry} (hclosed : ∀ e ∈ image, e.length.isSome) :
    closeImage S E r image = image.filterMap (reconcileEntry S E) :=
  List.filterMap_congr fun e he => by simp [isOpen_eq_false_of_isSome (hclosed e he)]

theorem closeImage_split (r : EndReason) {before after : List DirEntry} {o : DirEntry} (ho : o.isOpen = true)
    (hbefore : ∀ e ∈ before, e.length.isSome) (hafter : ∀ e ∈ after, e.length.isSome) :
    closeImage S E r (before ++ o :: after) =
      before.filterMap (reconcileEntry S E) ++ ((closeEntry E r o).toList ++ after.filterMap (reconcileEntry S E)) := by
  rw [← closeImage_of_closed r hbefore, ← closeImage_of_closed r hafter]
  cases hown : closeEntry E r o <;> simp [closeImage, ho, hown]

/-! ### The close notice (R56, R58) -/

theorem setImage_dir (image : List DirEntry) (s : State) :
    (setImage image s).dir = { s.dir with image := image, dirty := true, changed := true } := by
  rw [setImage, modSession_dir, State.setDir_dir]

/-- Without an entry of its own the session leaves the reconciled image: writing it back when nothing changed would make no
difference to it. -/
theorem closeNotice_unopened (r : EndReason) {s : State}
    (hrange : s.dir.range = some { start := some S, writtenEnd := E, opened := false }) :
    (closeNotice r s).1.dir.image = closeImage S E r s.dir.image ∧ (closeNotice r s).1.dir.range = none := by
  simp only [closeNotice, hrange, Bool.false_eq_true, if_false]
  split
  case isTrue hsame => exact ⟨hsame.symm, rfl⟩
  case isFalse => exact ⟨by rw [setImage_dir], by rw [setImage_dir, State.setDir_dir]⟩

theorem closeNotice_opened_dir (r : EndReason) {s : State}
    (hrange : s.dir.range = some { start := some S, writtenEnd := E, opened := true }) :
    (closeNotice r s).1.dir =
      { s.dir with image := closeImage S E r s.dir.image, dirty := true, changed := true, range := none } := by
  simp only [closeNotice, hrange, if_true, setImage_dir, State.setDir_dir]

/-- The number told is the place behind what is kept of the entries before the session's own. -/
theorem closeNotice_opened_number (r : EndReason) {s : State} {before after : List DirEntry} {o : DirEntry}
    (hrange : s.dir.range = some { start := some S, writtenEnd := E, opened := true })
    (himage : s.dir.image = before ++ o :: after) (ho : o.isOpen = true) (hbefore : ∀ e ∈ before, e.length.isSome) :
    (closeNotice r s).2 =
      if (closeEntry E r o).isSome then some ((before.filterMap (reconcileEntry S E)).length + 1) else none := by
  have hclosed : ∀ e ∈ before, e.isOpen = false := fun e he => isOpen_eq_false_of_isSome (hbefore e he)
  have htake : (before ++ o :: after).takeWhile (fun e => ¬ e.isOpen) = before := by
    rw [List.takeWhile_append_of_pos (by simpa using hclosed)]
    simp [ho]
  have hfind : (before ++ o :: after).find? DirEntry.isOpen = some o := by
    rw [List.find?_append, List.find?_eq_none.mpr (by simpa using hclosed)]
    simp [ho]
  simp only [closeNotice, hrange, himage, if_true, htake, hfind, Option.any_some, closeImage_of_closed r hbefore]

/-- Settles O22: the rows of R57 one by one, the notice over them with and without an open entry, and the order from what is
kept of an entry lying inside it. -/
theorem aCloseReconcilesTheEntries : Obligations.ACloseReconcilesTheEntries := by
  unfold Obligations.ACloseReconcilesTheEntries
  intro S E hSE
  refine ⟨?rows, ?unopened, ?opened, ?order⟩
  case rows =>
    intro e n hlen hn
    rw [← stop_of_length hlen]
    have hpos : e.start < e.stop := by rw [stop_of_length hlen]; omega
    exact ⟨fun ⟨hS, hE⟩ => reconcileEntry_covered hS hE, fun ⟨hstart, hstop⟩ => reconcileEntry_cut hstart hstop,
      fun ⟨hS, hstart, hstop⟩ => reconcileEntry_moved hS hstart hstop, reconcileEntry_outside hSE hpos⟩
  case unopened =>
    intro r s hrange hclosed
    rw [← closeImage_of_closed r hclosed]
    exact closeNotice_unopened r hrange
  case opened =>
    intro r s before after o hrange himage hlen hstart hclosed kept rest closed
    subst hstart
    have ho : o.isOpen = true := by rw [DirEntry.isOpen, hlen, Option.isNone_none]
    obtain ⟨hbefore, hafter⟩ := List.forall_mem_append.mp hclosed
    have hdir := closeNotice_opened_dir r hrange
    rw [himage, closeImage_split r ho hbefore hafter] at hdir
    have hnumber := closeNotice_opened_number r hrange himage ho hbefore
    refine ⟨fun hwritten => ?_, fun hunwritten => ?_, by rw [hdir], by rw [hdir]⟩
    · have hown : closeEntry E r o = some closed := closeEntry_written r hwritten
      rw [hown] at hdir hnumber
      exact ⟨by rw [hdir]; rfl, hnumber⟩
    · have hown : closeEntry E r o = none := closeEntry_unwritten r hunwritten.ge
      rw [hown] at hdir hnumber
      exact ⟨by rw [hdir]; rfl, hnumber⟩
  case order =>
    intro image hlen hord
    refine pairwise_precedes_filterMap_reconcileEntry (fun e he => ?_) hord
    obtain ⟨n, hn, hpos⟩ := hlen e he
    rw [stop_of_length hn]
    omega

end Sys2Proof.Proofs.Reconciliation
end

section
/-! PROOFS. The cue ring (R118, R119). -/

namespace Sys2Proof.Proofs.CueRing
open Sys2Proof.Machine

variable {s : State} {tag : Byte}

/-! ### The two commands at the control line unit (R176, R195) -/

/-- During the cold-start read the owner's refusal is all that a taken command does. -/
theorem takeCommand_starting (ht : s.takes tag) (hs : s.starting = true) (code : Nat) (args : List Byte)
    (op : Cmd → State → State) :
    takeCommand tag code args (owned op) s = { s with clu := s.clu.answered tag code .refused .starting [] } := by
  have htaken : State.starting { s with clu := s.clu.taken tag } = true := hs
  rw [takeCommand_takes ht, owned, if_pos htaken, refuse_taken ht.1]

/-- Without arguments, a command whose rule names none is its operation. -/
theorem takeCommand_noArgs (hs : s.serves tag) (code : Nat) (op : Cmd → State → State) :
    takeCommand tag code [] (owned (noArgs op)) s = op (s.clu.cmd tag code []) { s with clu := s.clu.taken tag } := by
  rw [takeCommand_serves hs, noArgs_nil]

theorem exec_readCue (tag : Byte) (args : List Byte) (s : State) :
    exec (.readCue tag args) s = .next (takeCommand tag 29 args (owned (noArgs readCueOp)) s) := rfl

theorem exec_releaseCue (tag : Byte) (args : List Byte) (s : State) :
    exec (.releaseCue tag args) s = .next (takeCommand tag 30 args (owned (noArgs releaseCueOp)) s) := rfl

/-! ### The operations on the ring (R118, R119) -/

theorem readCueOp_empty (c : Cmd) (u : Clu) (hring : s.cue.ring = []) :
    readCueOp c { s with clu := u } = refuse c .state { s with clu := u } := by
  simp only [readCueOp, hring]

theorem releaseCueOp_empty (c : Cmd) (u : Clu) (hring : s.cue.ring = []) :
    releaseCueOp c { s with clu := u } = refuse c .state { s with clu := u } := by
  simp only [releaseCueOp, hring]

variable {e : RingEntry} {rest : List RingEntry}

theorem readCueOp_oldest (c : Cmd) (u : Clu) (hring : s.cue.ring = e :: rest) :
    readCueOp c { s with clu := u } =
      reply c .done .none (Byte.ofNat (rest.length + 1) :: ringBytes e) { s with clu := u } := by
  simp only [readCueOp, hring, List.length_cons]

theorem releaseCueOp_oldest (c : Cmd) (u : Clu) (hring : s.cue.ring = e :: rest) :
    releaseCueOp c { s with clu := u } =
      reply c .done .none [Byte.ofNat rest.length] { s with cue := { s.cue with ring := rest }, clu := u } := by
  simp only [releaseCueOp, hring, State.setCue]

/-! ### The bytes of an entry (R118, section 13.1) -/

theorem channelCode_eq_getD (n : Option Nat) : channelCode n = n.getD 255 := by
  cases n <;> rfl

/-- NONE is the label of zeros. -/
theorem labelBytes_eq_getD (l : Option Label) :
    labelBytes l = labelBytes (some (l.getD { day := 0, month := 0, hour := 0, minute := 0 })) := by
  cases l <;> rfl

theorem byte_tunerCode (t : TunerId) : Byte.ofNat (tunerCode t) = match t with | .a => 0 | .b => 1 := by
  cases t <;> rfl

theorem byte_cueStatusCode (c : CueStatus) :
    Byte.ofNat c.code = match c with | .run => 0 | .hold => 1 | .clear => 2 := by
  cases c <;> rfl

theorem byte_clockStatusCode (c : ClockStatus) :
    Byte.ofNat c.code = match c with | .unset => 0 | .setManual => 1 | .setBroadcast => 2 := by
  cases c <;> rfl

/-- Tuner, channel, network, label, status, date, time and clock status, in this order. -/
theorem ringBytes_eq (e : RingEntry) :
    ringBytes e =
      [(match e.tuner with | .a => 0 | .b => 1 : Byte), Byte.ofNat (e.channel.getD 255)] ++ bytes2 e.cue.network ++
      labelBytes (some (e.cue.label.getD { day := 0, month := 0, hour := 0, minute := 0 })) ++
      [(match e.cue.status with | .run => 0 | .hold => 1 | .clear => 2 : Byte)] ++ e.at_.date.bytes ++
      [Byte.ofNat e.at_.hour, Byte.ofNat e.at_.minute, Byte.ofNat e.at_.second,
       (match e.status with | .unset => 0 | .setManual => 1 | .setBroadcast => 2 : Byte)] := by
  rw [ringBytes, byte_tunerCode, channelCode_eq_getD, labelBytes_eq_getD, byte_cueStatusCode, byte_clockStatusCode]

/-- Settles O29: a command taken during the cold-start read stops at the owner's refusal; after it each command is its
operation, whose two cases are the ring's; the bytes of the oldest entry are compared field by field. -/
theorem theCueRingIsReadAndReleased : Obligations.TheCueRingIsReadAndReleased := by
  unfold Obligations.TheCueRingIsReadAndReleased
  intro tag s ht
  simp only [exec_readCue, exec_releaseCue]
  refine ⟨?starting, ?empty, ?oldest⟩
  case starting =>
    intro hs
    simp only [takeCommand_starting ht hs, and_self]
  case empty =>
    intro hs hring
    simp only [takeCommand_noArgs ⟨ht, hs⟩, readCueOp_empty _ _ hring, releaseCueOp_empty _ _ hring, refuse_taken ht.1,
      and_self]
  case oldest =>
    intro e rest hs hring
    rw [takeCommand_noArgs ⟨ht, hs⟩, takeCommand_noArgs ⟨ht, hs⟩, readCueOp_oldest _ _ hring, releaseCueOp_oldest _ _ hring,
      reply_taken ht.1 rfl, reply_taken ht.1 rfl, ringBytes_eq]
    exact ⟨rfl, rfl⟩

end Sys2Proof.Proofs.CueRing
end

section
/-! PROOFS. The calendar and the day of the week (R126, R127). -/

namespace Sys2Proof.Proofs.Calendar
open Sys2Proof.Machine

/-! ### Months, years and dates (R126) -/

theorem date_valid_iff (d : Date) : d.valid = true ↔
    1 ≤ d.month ∧ d.month ≤ 12 ∧ d.year ≤ 99 ∧ 1 ≤ d.day ∧ d.day ≤ monthLength d.year d.month :=
  decide_eq_true_iff

/-- A month has 31 days, or 30, or is February. -/
theorem monthLength_eq (y : Nat) {m : Nat} (h1 : 1 ≤ m) (h12 : m ≤ 12) :
    monthLength y m =
      if m = 1 ∨ m = 3 ∨ m = 5 ∨ m = 7 ∨ m = 8 ∨ m = 10 ∨ m = 12 then 31
      else if m = 4 ∨ m = 6 ∨ m = 9 ∨ m = 11 then 30
      else if y % 4 = 0 then 29 else 28 := by
  interval_cases m <;> simp [monthLength, isLeap]

theorem february_29_iff (y : Nat) : monthLength y 2 = 29 ↔ y % 4 = 0 := by
  rw [monthLength_eq y (by omega) (by omega)]
  by_cases hleap : y % 4 = 0 <;> simp [hleap]

/-- The long Februaries are the leap years before year 100, counted by the second term of R127. -/
theorem leapYears_of_calendar : ((List.range 100).filter fun y => monthLength y 2 = 29).length = 25 := by
  simp only [february_29_iff]
  exact leapYears_before 100

/-! ### The next day (R126) -/

variable {d : Date}

theorem nextDay_at_month_end (hday : d.day = monthLength d.year d.month) (hmonth : d.month < 12) :
    d.nextDay = { day := 1, month := d.month + 1, year := d.year } := by
  rw [Date.nextDay, if_neg (by omega), if_pos hmonth]

theorem nextDay_at_year_end (hday : d.day = monthLength d.year d.month) (hmonth : d.month = 12) (hyear : d.year < 99) :
    d.nextDay = { day := 1, month := 1, year := d.year + 1 } := by
  rw [Date.nextDay, if_neg (by omega), if_neg (by omega), if_pos hyear]

/-- A year's last day is the calendar's last day, or lies before year 99. -/
theorem year_lt_of_year_end (hv : d.valid = true) (hlast : d ≠ { day := 31, month := 12, year := 99 })
    (hday : d.day = monthLength d.year d.month) (hmonth : d.month = 12) : d.year < 99 := by
  obtain ⟨-, -, hyear, -, -⟩ := (date_valid_iff d).1 hv
  have h31 : d.day = 31 := by rw [hday, hmonth]; rfl
  refine Nat.lt_of_le_of_ne hyear fun h99 => hlast ?_
  cases d
  exact (Date.mk.injEq ..).mpr ⟨h31, hmonth, h99⟩

theorem nextDay_at_end (hv : d.valid = true) (hlast : d ≠ { day := 31, month := 12, year := 99 })
    (hday : d.day = monthLength d.year d.month) :
    d.nextDay.day = 1 ∧
      (d.month < 12 → d.nextDay.month = d.month + 1 ∧ d.nextDay.year = d.year) ∧
      (d.month = 12 → d.nextDay.month = 1 ∧ d.nextDay.year = d.year + 1) := by
  obtain ⟨-, h12, -, -, -⟩ := (date_valid_iff d).1 hv
  rcases Nat.lt_or_eq_of_le h12 with hmonth | hmonth
  · rw [nextDay_at_month_end hday hmonth]
    exact ⟨rfl, fun _ => ⟨rfl, rfl⟩, fun h => absurd h hmonth.ne⟩
  · rw [nextDay_at_year_end hday hmonth (year_lt_of_year_end hv hlast hday hmonth)]
    exact ⟨rfl, fun h => absurd hmonth h.ne, fun _ => ⟨rfl, rfl⟩⟩

/-! ### The two readers of dates (R120, R130) -/

theorem date_valid_of_valid {t : DateTime} (ht : t.valid = true) : t.date.valid = true := by
  rw [DateTime.valid, Bool.and_eq_true] at ht
  exact ht.1

/-- SET CLOCK takes six bytes, and those only as a real date and time. -/
theorem parseClock_valid {bytes : List Byte} {t : DateTime} (h : parseClock bytes = some t) : t.valid = true := by
  unfold parseClock at h
  split at h
  · obtain ⟨hreal, ⟨⟩⟩ := Option.ite_none_right_eq_some.1 h
    exact hreal
  · cases h

/-- A time cue is taken only with a real date and time. -/
theorem decodeTime_valid {bytes : List Byte} {t : TimeDecode} (h : decodeTime bytes = some t) : t.at_.valid = true := by
  unfold decodeTime at h
  obtain ⟨⟨hreal, -⟩, ⟨⟩⟩ := Option.ite_none_right_eq_some.1 h
  exact hreal

/-! ### The day of the week (R127) -/

/-- The three terms: the years before with their leap days, the months before, the days before. -/
theorem dayNumber_eq_terms (d : Date) :
    d.dayNumber =
      (365 * d.year + ((List.range d.year).filter fun y => y % 4 = 0).length) +
      ((List.range (d.month - 1)).map fun i => monthLength d.year (i + 1)).sum + (d.day - 1) := by
  rw [leapYears_before]
  rfl

/-- Day 0 is a Saturday, and the week goes on from there. -/
theorem dowOfDay_eq (n : Nat) :
    dowOfDay n = match n % 7 with | 0 => 5 | 1 => 6 | 2 => 0 | 3 => 1 | 4 => 2 | 5 => 3 | _ => 4 := by
  have hr : n % 7 < 7 := Nat.mod_lt n (by omega)
  rw [dowOfDay, Nat.add_mod]
  generalize n % 7 = r at hr
  interval_cases r <;> rfl

/-- A date's day number stays below the calendar's wrap, so the repeats see the date's own day of the week. -/
theorem dowOfDay_wrapped (hv : d.valid = true) : dowOfDay (d.dayNumber % calendarDays) = d.dow := by
  rw [Nat.mod_eq_of_lt (Date.dayNumber_lt hv), Date.dow]

theorem weekdays_matches_iff (hv : d.valid = true) : Repeat.weekdays.matchesDay d.dayNumber = true ↔ d.dow ≤ 4 := by
  rw [Repeat.matchesDay, dowOfDay_wrapped hv, decide_eq_true_iff]

theorem weekly_matches_iff (hv : d.valid = true) (w : Nat) :
    (Repeat.weekly w).matchesDay d.dayNumber = true ↔ d.dow = w := by
  rw [Repeat.matchesDay, dowOfDay_wrapped hv, decide_eq_true_iff]

/-- Settles O31: the next day by the ends of the month and of the year, the readers by their one test, the repeats by the
bound on a date's number; the table of R127 is evaluated. -/
theorem theCalendarAndTheDayOfTheWeek : Obligations.TheCalendarAndTheDayOfTheWeek := by
  unfold Obligations.TheCalendarAndTheDayOfTheWeek
  refine ⟨⟨fun y m h1 h12 => monthLength_eq y h1 h12, leapYears_of_calendar, date_valid_iff, ?next, ?setClock, ?timeCue⟩,
    ?weekday, ?table⟩
  case next =>
    intro d hv hlast
    exact ⟨Date.nextDay_valid d hv, Date.nextDay_dayNumber d hv hlast, nextDay_at_end hv hlast⟩
  case setClock => exact fun _ _ h => date_valid_of_valid (parseClock_valid h)
  case timeCue => exact fun _ _ h => date_valid_of_valid (decodeTime_valid h)
  case weekday =>
    intro d hv
    exact ⟨dayNumber_eq_terms d, dowOfDay_eq d.dayNumber, weekdays_matches_iff hv, weekly_matches_iff hv⟩
  case table => decide

end Sys2Proof.Proofs.Calendar
end

section
/-! PROOFS. The sticky events and their acknowledgement (R183, R184). -/

namespace Sys2Proof.Proofs.Acknowledgement
open Sys2Proof.Machine

/-! ### The events and their bits (R183) -/

/-- The events in the order of the table of R183. -/
def events : List Sticky :=
  [.tapeEnd, .tapeStart, .nearEnd, .sessionOpen, .sessionClose, .entryMissed, .searchEnd, .cueRingFull, .checkFail,
   .overrun, .stateCorrected, .stateAbort, .storeFail, .storeCheck, .viewLost, .clockSet, .mainsReturn, .dirFull]

theorem events_getElem?_index (e : Sticky) : events[e.index]? = some e := by
  cases e <;> rfl

theorem index_lt (e : Sticky) : e.index < 18 :=
  (List.getElem?_eq_some_iff.1 (events_getElem?_index e)).1

theorem index_inj {x e : Sticky} : x.index = e.index ↔ x = e := by
  refine ⟨fun h => Option.some.inj ?_, congrArg Sticky.index⟩
  rw [← events_getElem?_index x, h, events_getElem?_index]

/-- An event's mask has the event's bit and no other event's. -/
theorem mask_getLsbD_index (e x : Sticky) : e.mask.getLsbD x.index = decide (x = e) := by
  have hmask : e.mask = BitVec.twoPow 18 e.index := (BitVec.twoPow_eq 18 e.index).symm
  rw [hmask, BitVec.getLsbD_twoPow]
  simp [index_lt, eq_comm, index_inj]

theorem raise_sticky (e x : Sticky) (s : State) : (raise e s).sticky x = (decide (x = e) || s.sticky x) := by
  rw [State.sticky, raise, State.setClu_clu, BitVec.getLsbD_or, mask_getLsbD_index, Bool.or_comm, State.sticky]

/-- Of the events, those outside the mask stay set. -/
theorem getLsbD_index_cleared (v mask : BitVec 18) (e : Sticky) :
    (v &&& ~~~mask).getLsbD e.index = (v.getLsbD e.index && !mask.getLsbD e.index) := by
  rw [BitVec.getLsbD_and, BitVec.getLsbD_not, decide_eq_true (index_lt e), Bool.true_and]

/-! ### The mask bytes (R184, section 13.1) -/

/-- The lowest byte of a number in bytes has its lowest eight bits. -/
theorem testBit_byte_add (a : Byte) (m n : Nat) :
    (a.toNat + 256 * m).testBit n = if n < 8 then a.getLsbD n else m.testBit (n - 8) := by
  rw [Nat.add_comm]
  exact Nat.testBit_two_pow_mul_add m a.isLt n

/-- The first mask byte carries the first eight events, the second the next eight, the third the last two. -/
theorem getLsbD_ofBytes (a b c : Byte) {n : Nat} (hn : n < 18) :
    (BitVec.ofNat 18 (a.toNat + 256 * b.toNat + 65536 * c.toNat)).getLsbD n =
      if n < 8 then a.getLsbD n else if n < 16 then b.getLsbD (n - 8) else c.getLsbD (n - 16) := by
  have hsum : a.toNat + 256 * b.toNat + 65536 * c.toNat = a.toNat + 256 * (b.toNat + 256 * c.toNat) := by omega
  have hsecond : n - 8 < 8 ↔ n < 16 := by omega
  have hthird : n - 8 - 8 = n - 16 := by omega
  rw [BitVec.getLsbD_ofNat, decide_eq_true hn, Bool.true_and, hsum, testBit_byte_add, testBit_byte_add, hthird]
  simp only [hsecond, BitVec.getLsbD]

theorem parseMask_of_lt (a b : Byte) {c : Byte} (hc : c.toNat < 4) :
    parseMask [a, b, c] = some (BitVec.ofNat 18 (a.toNat + 256 * b.toNat + 65536 * c.toNat)) :=
  if_pos hc

theorem parseMask_of_le (a b : Byte) {c : Byte} (hc : 4 ≤ c.toNat) : parseMask [a, b, c] = none :=
  if_neg (Nat.not_lt.2 hc)

theorem parseMask_of_length_ne {args : List Byte} (hlen : args.length ≠ 3) : parseMask args = none := by
  unfold parseMask
  split
  · exact absurd rfl hlen
  · rfl

/-! ### The command (R184) -/

variable {s : State} {tag : Byte}

/-- ACKNOWLEDGE is not refused STARTING: what the part takes reaches it. -/
theorem exec_acknowledge (ht : s.takes tag) (args : List Byte) :
    exec (.acknowledge tag args) s =
      .next (acknowledgeOp (s.clu.cmd tag 39 args) { s with clu := s.clu.taken tag }) :=
  congrArg Host.Outcome.next (takeCommand_takes ht 39 args acknowledgeOp)

theorem exec_acknowledge_mask (ht : s.takes tag) {args : List Byte} {mask : BitVec 18} (hm : parseMask args = some mask) :
    exec (.acknowledge tag args) s =
      .next { s with clu :=
        { s.clu.answered tag 39 .done .none (maskBytes (s.clu.sticky &&& mask)) with sticky := s.clu.sticky &&& ~~~mask } } := by
  rw [exec_acknowledge ht, acknowledgeOp, Clu.cmd_args, hm]
  exact congrArg Host.Outcome.next (reply_taken_sticky ht.1 rfl 39 args _ _ _)

theorem exec_acknowledge_refused (ht : s.takes tag) {args : List Byte} (hm : parseMask args = none) :
    exec (.acknowledge tag args) s = .next { s with clu := s.clu.answered tag 39 .refused .range [] } := by
  rw [exec_acknowledge ht, acknowledgeOp, Clu.cmd_args, hm]
  exact congrArg Host.Outcome.next (refuse_taken ht.1 39 args .range)

/-- Settles O37: the command has two cases, a mask that is read and one that is not; what a mask says is read off its bits,
and an event's own mask has its bit alone because the places of the table differ. -/
theorem eventsAreAcknowledged : Obligations.EventsAreAcknowledged := by
  unfold Obligations.EventsAreAcknowledged
  refine ⟨fun tag s ht => ⟨?named, ?beyond, ?length⟩, ?order, raise_sticky⟩
  case named =>
    intro a b c hc
    exact ⟨exec_acknowledge_mask ht (parseMask_of_lt a b hc), getLsbD_index_cleared _ _, fun _ => getLsbD_ofBytes a b c⟩
  case beyond => exact fun a b c hc => exec_acknowledge_refused ht (parseMask_of_le a b hc)
  case length => exact fun args hlen => exec_acknowledge_refused ht (parseMask_of_length_ne hlen)
  case order => rfl

end Sys2Proof.Proofs.Acknowledgement
end

section
/-! PROOFS. What keeps an invariant through a step: the changes a step is made of, and each operation as a chain of them
(the operations of chapters 1 to 12, in the order of the model's files). -/

namespace Sys2Proof.Proofs.Invariant
open Sys2Proof.Machine

/-! ### Changes at the sources -/

/-- A state without what the tuning controller, the line port, cue capture, the sticky events and the free choices hold. -/
def withoutSources (s : State) : State :=
  { s with tun := Tun.reset, lpt := Lpt.reset, cue := CueBlock.reset, choices := 0, clu := { s.clu with sticky := 0 } }

/-- From `s` to `t` only the sources changed: the tuning controller but for its channel table, the line port, the cue records,
sticky events and free choices. -/
structure SourceStep (s t : State) : Prop where
  rest : withoutSources t = withoutSources s
  channels : t.tun.channels = s.tun.channels
  ring : t.cue.ring = s.cue.ring
  ageA : t.cue.a.age = s.cue.a.age ∨ t.cue.a.age = 0
  ageB : t.cue.b.age = s.cue.b.age ∨ t.cue.b.age = 0

variable {s t u : State}

theorem SourceStep.refl (s : State) : SourceStep s s := ⟨rfl, rfl, rfl, .inl rfl, .inl rfl⟩

theorem SourceStep.trans (h : SourceStep s t) (g : SourceStep t u) : SourceStep s u :=
  ⟨g.rest.trans h.rest, g.channels.trans h.channels, g.ring.trans h.ring,
    g.ageA.elim (fun e => e ▸ h.ageA) .inr, g.ageB.elim (fun e => e ▸ h.ageB) .inr⟩

theorem SourceStep.pins (h : SourceStep s t) : t.pins = s.pins := (congrArg State.pins h.rest :)
theorem SourceStep.trc (h : SourceStep s t) : t.trc = s.trc := (congrArg State.trc h.rest :)
theorem SourceStep.tcb (h : SourceStep s t) : t.tcb = s.tcb := (congrArg State.tcb h.rest :)
theorem SourceStep.dir (h : SourceStep s t) : t.dir = s.dir := (congrArg State.dir h.rest :)
theorem SourceStep.clk (h : SourceStep s t) : t.clk = s.clk := (congrArg State.clk h.rest :)
theorem SourceStep.sch (h : SourceStep s t) : t.sch = s.sch := (congrArg State.sch h.rest :)
theorem SourceStep.sto (h : SourceStep s t) : t.sto = s.sto := (congrArg State.sto h.rest :)
theorem SourceStep.clu (h : SourceStep s t) : t.clu = { s.clu with sticky := t.clu.sticky } := by
  have e : ({ t.clu with sticky := 0 } : Clu) = { s.clu with sticky := 0 } := (congrArg State.clu h.rest :)
  calc t.clu = { ({ t.clu with sticky := 0 } : Clu) with sticky := t.clu.sticky } := rfl
    _ = { s.clu with sticky := t.clu.sticky } := by rw [e]

theorem SourceStep.asleep (h : SourceStep s t) : t.asleep = s.asleep := by rw [State.asleep, h.sto, State.asleep]

/-! ### The changes that a step is made of -/

/-- The counters and the tables' sizes of the counter block are kept from `x` to `y`. -/
structure TcbKept (x y : Tcb) : Prop where
  counters : -899999 ≤ x.relCounter ∧ x.relCounter ≤ 899999 ∧ x.absPos ≤ 899999 ∧
      -99999 ≤ x.indexCount ∧ x.indexCount ≤ 99999 →
    -899999 ≤ y.relCounter ∧ y.relCounter ≤ 899999 ∧ y.absPos ≤ 899999 ∧ -99999 ≤ y.indexCount ∧ y.indexCount ≤ 99999
  history : x.history.length ≤ 8 → y.history.length ≤ 8
  profiles : y.profiles.length = x.profiles.length

theorem TcbKept.same {x y : Tcb} (h1 : y.relCounter = x.relCounter) (h2 : y.absPos = x.absPos)
    (h3 : y.indexCount = x.indexCount) (h4 : y.history = x.history) (h5 : y.profiles = x.profiles) : TcbKept x y :=
  ⟨by rw [h1, h2, h3]; exact id, by rw [h4]; exact id, by rw [h5]⟩

/-- From `x` to `y` no command is held, no state of a session's entered, and no start order kept. -/
structure TrcKept (x y : Trc) : Prop where
  held : y.held = x.held ∨ y.held = none
  state : y.state = x.state ∨ y.state.isSession = false
  heldStart : y.heldStart = x.heldStart ∨ y.heldStart = none

theorem TrcKept.same {x y : Trc} (h1 : y.held = x.held) (h2 : y.state = x.state) (h3 : y.heldStart = x.heldStart) :
    TrcKept x y := ⟨.inl h1, .inl h2, .inl h3⟩

/-- A session that `y` holds stands for the one of `x`: none is lost, and none begins to close. -/
def SessionKept (x y : Option Session) : Prop :=
  (x.isSome → y.isSome) ∧ ∀ b ∈ y, b.state = .closing → ∃ a ∈ x, a.state = .closing

theorem SessionKept.refl (x : Option Session) : SessionKept x x := ⟨id, fun b hb hc => ⟨b, hb, hc⟩⟩

/-- Only a session that is not closing comes of it. -/
theorem SessionKept.open (x : Option Session) {y : Session} (hy : y.state ≠ .closing) : SessionKept x (some y) :=
  ⟨fun _ => rfl, fun b hb hc => by cases hb; exact absurd hc hy⟩

/-- The predicate bears every change that a step is made of, but for those by which the transport begins to record, and a
session to close or to end. -/
structure Kept (P : State → Prop) : Prop where
  queue {s : State} (q : List Instr) : P s → P { s with pending := q } := by intros; assumption
  choose {s : State} : P s → P s.choose := by intros; assumption
  setPins {s : State} (x : Pins) : P s → P (s.setPins x) := by intros; assumption
  setLpt {s : State} (x : Lpt) : P s → P (s.setLpt x) := by intros; assumption
  setTrc {s : State} (x : Trc) : TrcKept s.trc x → P s → P (s.setTrc x) := by intros; assumption
  hold {s : State} (h : Held) : h.id < s.clu.nextId → P s → P (s.setTrc { s.trc with held := some h }) := by
    intros; assumption
  setTcb {s : State} (x : Tcb) : TcbKept s.tcb x → P s → P (s.setTcb x) := by intros; assumption
  setDir {s : State} (x : Dir) : (s.dir.image.length ≤ 24 → x.image.length ≤ 24) → P s → P (s.setDir x) := by
    intros; assumption
  sources {s t : State} : SourceStep s t → (s.TuningSound → t.TuningSound) → P s → P t
  setChannels {s : State} (l : List (Option Channel)) : l.length = s.tun.channels.length → P s →
    P (s.setTun { s.tun with channels := l }) := by intros; assumption
  setCue {s : State} (x : CueBlock) : (s.cue.ring.length ≤ 8 → x.ring.length ≤ 8) → (s.cue.a.age ≤ 125 → x.a.age ≤ 125) →
    (s.cue.b.age ≤ 125 → x.b.age ≤ 125) → P s → P (s.setCue x) := by intros; assumption
  setClk {s : State} (x : Clk) : (s.CalendarSound → x.now.valid = true ∧ x.dow = x.now.date.dow) → P s →
    P (s.setClk x) := by intros; assumption
  setSch {s : State} (x : Sch) : x.timers.length = s.sch.timers.length → x.clears = s.sch.clears ∨ x.clears = [] → P s →
    SessionKept s.sch.session x.session → P (s.setSch x) := by intros; assumption
  addClear {s : State} (n : Nat) : n < s.clu.nextId → P s →
    P (s.setSch { s.sch with clears := s.sch.clears ++ [n] }) := by intros; assumption
  setSticky {s : State} (m : BitVec 18) : P s → P (s.setClu { s.clu with sticky := m }) := by intros; assumption
  setLines {s : State} (n : Nat) (p : Option PendingLine) : P s →
    P (s.setClu { s.clu with lineCount := n, pendingLine := p }) := by intros; assumption
  dropReady {s : State} (n : Nat) : P s → P (s.setClu { s.clu with ready := s.clu.ready.drop n }) := by intros; assumption
  giveId {s : State} : P s → P (s.setClu { s.clu with nextId := s.clu.nextId + 1 }) := by intros; assumption
  reserve {s : State} : s.clu.freePlaces ≠ 0 → P s →
    P (s.setClu { s.clu with nextId := s.clu.nextId + 1, reserved := s.clu.reserved ++ [s.clu.nextId] }) := by
    intros; assumption
  answers {s : State} (c : Cmd) (o : ReplyOutcome) (r : Reason) (l : List Byte) : P s → P (reply c o r l s) := by intros; assumption
  completes {s : State} (n : Nat) (o : ReplyOutcome) (r : Reason) : P s → P (complete n o r s)
  enlists {s : State} (c : Cmd) (o : OwnerBlock) : c.id < s.clu.nextId → s.clu.inFlight.length < 2 → P s →
    P (enlist c o s) := by intros; assumption
  emptied {s : State} (c : Cmd) : c.id < s.clu.nextId → P s → P (cluReset c s) := by intros; assumption
  dropped {s : State} : P s → P (cluDrops s) := by intros; assumption
  setSto {s : State} (x : Sto) : x.pendingWrites = s.sto.pendingWrites → x.writing = s.sto.writing →
    ((s.setSto x).asleep = true → s.asleep = true ∨ s.tun.search.state = .idle) → P s → P (s.setSto x) := by
    intros; assumption
  mark {s : State} (n : RecordName) : P s → P (markRecord n s)
  start {s : State} : P s → P (startWrite s)
  ends {s : State} (r : StoreResult) : P s → P (writeEnds r s)
  abandon {s : State} : P s → P (abandonWrite s)
  cold {s : State} : P s → P (coldStart s)
  lost {s : State} : P s → P (domainLost s)

/-- A session exists, and is not closing. -/
def Live (s : State) : Prop := ∃ x ∈ s.sch.session, x.state ≠ .closing

/-- The predicate bears every change that a step is made of. A predicate that says how the transport and the session hang
together may count on it where recording begins and where a session ends. -/
structure Bears (P : State → Prop) : Prop extends Kept P where
  setTrcLive {s : State} (x : Trc) : x.held = s.trc.held ∨ x.held = none → (s.SessionHoldsTransport → Live s) → P s →
    P (s.setTrc x)
  closes {s : State} (r : EndReason) : P s → P (beginClose r s)
  finishes {s : State} : s.closing = true → P s → P (finishClose s)
  closesByMains {s : State} : s.trc.state.isSession = false → s.trc.heldStart = none → P s → P (closeByMains s)

/-- The predicate says nothing of what the transport does for a session. -/
structure Free (P : State → Prop) : Prop extends Kept P where
  freeTrc {s : State} (x : Trc) : x.held = s.trc.held ∨ x.held = none → P s → P (s.setTrc x) := by intros; assumption
  freeSession {s : State} (x : Option Session) : P s → P (s.setSch { s.sch with session := x }) := by intros; assumption

end Sys2Proof.Proofs.Invariant
end

section
/-! PROOFS. What the operations on tuners, the search, the box and the view change, and that they keep the tuners' words, a
running search's hold on tuner B and the view's source (chapters 5 and 6). -/

namespace Sys2Proof.Proofs.Invariant
open Sys2Proof.Machine

variable {s t u : State}

/-! ### The operations change the sources alone -/

theorem step_setTuner (x : TunerId) (r : Tuner) (s : State) : SourceStep s (setTuner x r s) := by
  cases x <;> exact ⟨rfl, rfl, rfl, .inl rfl, .inl rfl⟩

theorem step_setSettling (x : TunerId) (v : Settling) (s : State) : SourceStep s (setSettling x v s) := by
  cases x <;> exact ⟨rfl, rfl, rfl, .inl rfl, .inl rfl⟩

theorem step_modSearch (f : Search → Search) (s : State) : SourceStep s (modSearch f s) :=
  ⟨rfl, rfl, rfl, .inl rfl, .inl rfl⟩

theorem step_sendWord (x : TunerId) (k : Settling) (s : State) : SourceStep s (sendWord x k s) := by
  unfold sendWord settlingNotice
  split <;> cases x <;> exact ⟨rfl, rfl, rfl, .inl rfl, .inl rfl⟩

theorem step_tune (x : TunerId) (o : Owner) (c : Option Nat) (f : Nat) (fine : Int) (l : Nat) (s : State) :
    SourceStep s (tune x o c f fine l s) := by
  rw [tune_eq]
  cases x
  · exact ⟨rfl, rfl, rfl, .inr rfl, .inl rfl⟩
  · exact ⟨rfl, rfl, rfl, .inl rfl, .inr rfl⟩

theorem step_tuneChannel (x : TunerId) (o : Owner) (c : Nat) (s : State) : SourceStep s (tuneChannel x o c s) := by
  unfold tuneChannel
  dsimp only
  split <;> exact step_tune ..

theorem step_clearTuner (x : TunerId) (s : State) : SourceStep s (clearTuner x s) := by
  rw [clearTuner_eq]
  cases x
  · exact ⟨rfl, rfl, rfl, .inr rfl, .inl rfl⟩
  · exact ⟨rfl, rfl, rfl, .inl rfl, .inr rfl⟩

theorem step_searchTune (s : State) : SourceStep s (searchTune s) := step_tune ..

theorem step_searchTakesB (s : State) : SourceStep s (searchTakesB s) := (step_modSearch _ s).trans (step_searchTune _)

theorem step_suspendSearch (s : State) : SourceStep s (suspendSearch s) := by
  unfold suspendSearch
  split
  · exact step_modSearch _ s
  · exact .refl s

theorem step_releaseB (s : State) : SourceStep s (releaseB s) := by
  unfold releaseB
  split
  · exact step_searchTakesB s
  · exact step_clearTuner .b s

theorem step_grantExt (o : Owner) (c : Nat) (s : State) : SourceStep s (grantExt o c s) := by
  unfold grantExt sendKeys
  split <;> exact ⟨rfl, rfl, rfl, .inl rfl, .inl rfl⟩

theorem step_releaseExt (s : State) : SourceStep s (releaseExt s) := ⟨rfl, rfl, rfl, .inl rfl, .inl rfl⟩

theorem step_keyEnds (s : State) : SourceStep s (keyEnds s) := by
  unfold keyEnds
  split
  · exact .refl s
  · split
    · exact ⟨rfl, rfl, rfl, .inl rfl, .inl rfl⟩
    · split <;> exact ⟨rfl, rfl, rfl, .inl rfl, .inl rfl⟩

theorem step_setView (v : Option (Nat × ViewSource)) (s : State) : SourceStep s (setView v s) :=
  ⟨rfl, rfl, rfl, .inl rfl, .inl rfl⟩

theorem step_raise (e : Sticky) (s : State) : SourceStep s (raise e s) := ⟨rfl, rfl, rfl, .inl rfl, .inl rfl⟩

theorem step_dropView (s : State) : SourceStep s (dropView s) := (step_setView _ s).trans (step_raise _ _)

theorem step_releaseSource (v : ViewSource) (s : State) : SourceStep s (releaseSource v s) := by
  cases v
  · exact step_clearTuner .a s
  · exact step_releaseB s
  · exact step_releaseExt s

theorem step_releaseView (s : State) : SourceStep s (releaseView s) := by
  unfold releaseView
  split
  · exact .refl s
  · exact (step_releaseSource _ s).trans (step_setView _ _)

theorem step_displaceViewFromA (s : State) : SourceStep s (displaceViewFromA s) := by
  unfold displaceViewFromA
  split
  · split
    · exact step_dropView s
    · exact ((step_suspendSearch s).trans (step_tuneChannel ..)).trans (step_setView _ _)
  · exact .refl s

theorem step_grantRecord (k : SourceKind) (c : Nat) (s : State) : SourceStep s (grantRecord k c s) := by
  cases k
  · exact (step_displaceViewFromA s).trans (step_tuneChannel ..)
  · unfold grantRecord
    dsimp only
    split
    · exact (step_dropView s).trans (step_grantExt ..)
    · exact step_grantExt ..

theorem step_releaseRecord (k : SourceKind) (s : State) : SourceStep s (releaseRecord k s) := by
  unfold releaseRecord
  split
  · split
    · exact step_clearTuner .a s
    · exact .refl s
  · split
    · exact step_releaseExt s
    · exact .refl s

theorem step_grantWatch (c : Nat) (s : State) : SourceStep s (grantWatch c s) := by
  unfold grantWatch
  split
  · split
    · exact .refl s
    · exact step_tuneChannel ..
  · exact (step_suspendSearch s).trans (step_tuneChannel ..)
  · dsimp only
    refine SourceStep.trans ?_ (step_tuneChannel ..)
    split
    · exact .refl s
    · split
      · exact (step_tuneChannel ..).trans (step_setView _ _)
      · exact step_dropView s
  · exact step_tuneChannel ..
  · exact step_tuneChannel ..

theorem step_releaseWatch (s : State) : SourceStep s (releaseWatch s) := by
  unfold releaseWatch
  split
  · exact step_releaseB s
  · exact .refl s

/-- What a VIEW of channel `c` is granted (R92, R93). -/
def viewGrant (c : Nat) : ViewSource → State → State
  | .tunerA, s => tuneChannel .a .view c s
  | .tunerB, s => tuneChannel .b .view c (suspendSearch s)
  | .external, s => grantExt .view c s

/-- A VIEW is its grant, and the release of the source it leaves. -/
theorem takeView_eq (c : Nat) (v : ViewSource) (s : State) :
    takeView c v s = setView (some (c, v))
      (match s.tun.view.map Prod.snd with
       | none => viewGrant c v s
       | some w => if w = v then viewGrant c v s else releaseSource w (viewGrant c v s)) := by
  cases v <;> rfl

theorem step_viewGrant (c : Nat) (v : ViewSource) (s : State) : SourceStep s (viewGrant c v s) := by
  cases v
  · exact step_tuneChannel ..
  · exact (step_suspendSearch s).trans (step_tuneChannel ..)
  · exact step_grantExt ..

theorem step_takeView (c : Nat) (v : ViewSource) (s : State) : SourceStep s (takeView c v s) := by
  rw [takeView_eq]
  refine SourceStep.trans ?_ (step_setView _ _)
  split
  · exact step_viewGrant ..
  · split
    · exact step_viewGrant ..
    · exact (step_viewGrant ..).trans (step_releaseSource ..)

theorem step_endSearch (r : SearchResult) (s : State) : SourceStep s (endSearch r s) := by
  unfold endSearch
  dsimp only
  refine SourceStep.trans ?_ (step_raise _ _)
  split
  · exact (step_modSearch _ s).trans (step_clearTuner ..)
  · exact step_modSearch _ s

theorem step_raiseFrequency (n : Nat) (s : State) : SourceStep s (raiseFrequency n s) := by
  unfold raiseFrequency
  split
  · exact step_endSearch ..
  · exact (step_modSearch _ s).trans (step_searchTune _)

theorem step_takeReading (x : TunerId) (r : Int) (s : State) : SourceStep s (takeReading x r s).1 := by
  unfold takeReading
  dsimp only
  split
  · exact step_setTuner ..
  · dsimp only
    split
    · exact step_setTuner ..
    · exact (step_setTuner ..).trans (step_sendWord ..)

theorem step_unmarkedHeader (x : TunerId) (strong : Bool) (a : Int) (s : State) :
    SourceStep s (unmarkedHeader x strong a s).1 := by
  unfold unmarkedHeader
  dsimp only
  split
  · exact (step_setTuner ..).trans (step_takeReading ..)
  · exact step_setTuner ..

theorem step_settlingHeader (x : TunerId) (s : State) : SourceStep s (settlingHeader x s).1 := by
  unfold settlingHeader
  dsimp only
  split
  · exact (step_setTuner ..).trans (step_setSettling ..)
  · exact step_setTuner ..

theorem step_clearSources (s : State) : SourceStep s (clearSources s) :=
  ((step_clearTuner .a s).trans (step_clearTuner .b _)).trans ⟨rfl, rfl, rfl, .inl rfl, .inl rfl⟩

theorem step_searchCancelled (s : State) : SourceStep s (searchCancelled s) := by
  unfold searchCancelled
  split
  · exact step_endSearch ..
  · exact .refl s

theorem step_searchReturns (s : State) : SourceStep s (searchReturns s) := by
  unfold searchReturns
  split <;> exact ⟨rfl, rfl, rfl, .inl rfl, .inl rfl⟩

/-! ### The tuners, the search and the view, one by one -/

/-- The tuners' words follow their records, a running search holds tuner B, and none runs while the part is asleep. -/
structure SourcesSound (s : State) : Prop where
  wordA : s.tun.tunerA.WordSound s.tun.wordA
  wordB : s.tun.tunerB.WordSound s.tun.wordB
  search : s.tun.search.state = .running → s.tun.tunerB.owner = .search ∧ s.tun.tunerB.frequency = some s.tun.search.frequency
  asleep : s.asleep = true → s.tun.search.state = .idle

/-- The view's source is owned by VIEW. -/
def ViewHeld (s : State) : Prop := ∀ v ∈ s.tun.view, s.ownerOf v.2 = .view

theorem tuningSound_iff : s.TuningSound ↔ SourcesSound s ∧ ViewHeld s :=
  ⟨fun ⟨h1, h2, h3, h4, h5⟩ => ⟨⟨h1, h2, h3, h5⟩, h4⟩, fun ⟨⟨h1, h2, h3, h5⟩, h4⟩ => ⟨h1, h2, h3, h4, h5⟩⟩

/-- Only the records named in `SourcesSound` matter to it. -/
theorem SourcesSound.congr (h : SourcesSound s) (hstep : SourceStep s t) (ha : t.tun.tunerA = s.tun.tunerA)
    (hb : t.tun.tunerB = s.tun.tunerB) (hwa : t.tun.wordA = s.tun.wordA) (hwb : t.tun.wordB = s.tun.wordB)
    (hs : t.tun.search.state = s.tun.search.state) (hf : t.tun.search.frequency = s.tun.search.frequency) :
    SourcesSound t := by
  obtain ⟨h1, h2, h3, h4⟩ := h
  exact ⟨by rwa [ha, hwa], by rwa [hb, hwb], by rwa [hs, hb, hf], by rwa [hstep.asleep, hs]⟩

theorem SourcesSound.tuneA (h : SourcesSound s) (o : Owner) (c : Nat) : SourcesSound (tuneChannel .a o c s) := by
  obtain ⟨r, w, ht, -, hw, -⟩ := tuneChannel_a o c s
  obtain ⟨_, h2, h3, h4⟩ := h
  refine ⟨by rwa [ht], by rwa [ht], by rwa [ht], ?_⟩
  rw [(step_tuneChannel ..).asleep, ht]
  exact h4

theorem SourcesSound.tuneB (h : SourcesSound s) (hr : s.tun.search.state ≠ .running) (o : Owner) (c : Nat) :
    SourcesSound (tuneChannel .b o c s) := by
  obtain ⟨r, w, ht, -, hw, -⟩ := tuneChannel_b o c s
  obtain ⟨h1, -, -, h4⟩ := h
  refine ⟨by rwa [ht], by rwa [ht], by rw [ht]; exact fun e => absurd e hr, ?_⟩
  rw [(step_tuneChannel ..).asleep, ht]
  exact h4

theorem SourcesSound.clearA (h : SourcesSound s) : SourcesSound (clearTuner .a s) := by
  rw [clearTuner_eq]
  exact ⟨wordSound_cleared _, h.wordB, h.search, h.asleep⟩

theorem SourcesSound.clearB (h : SourcesSound s) (hr : s.tun.search.state ≠ .running) : SourcesSound (clearTuner .b s) := by
  rw [clearTuner_eq]
  exact ⟨h.wordA, wordSound_cleared _, fun e => absurd e hr, h.asleep⟩

theorem SourcesSound.suspend (h : SourcesSound s) : SourcesSound (suspendSearch s) := by
  unfold suspendSearch
  split
  · rename_i hr
    exact ⟨h.wordA, h.wordB, fun e => (nomatch e), fun e => nomatch (h.asleep e).symm.trans hr⟩
  · exact h

/-- A search tune leaves the search on tuner B at its frequency, where it may run: the part is awake. -/
theorem SourcesSound.searchTune (h1 : s.tun.tunerA.WordSound s.tun.wordA) (ha : s.asleep = false) :
    SourcesSound (searchTune s) := by
  obtain ⟨r, w, ht, ho, hf, hw, hs⟩ := searchTune_b s
  refine ⟨by rwa [ht], by rwa [ht], by rw [ht]; exact fun _ => ⟨ho, hf⟩, ?_⟩
  rw [(step_searchTune s).asleep, ha]
  exact fun e => nomatch e

theorem SourcesSound.awake_of_search (h : SourcesSound s) (hi : s.tun.search.state ≠ .idle) : s.asleep = false :=
  Bool.eq_false_iff.mpr fun e => hi (h.asleep e)

theorem SourcesSound.searchTakesB (h : SourcesSound s) (hi : s.tun.search.state ≠ .idle) : SourcesSound (searchTakesB s) := by
  refine SourcesSound.searchTune ?_ ?_
  · exact h.wordA
  · exact h.awake_of_search hi

theorem SourcesSound.releaseB (h : SourcesSound s) (hr : s.tun.search.state ≠ .running) : SourcesSound (releaseB s) := by
  unfold Machine.releaseB
  split
  · rename_i hs
    exact h.searchTakesB (by rw [hs]; decide)
  · exact h.clearB hr

theorem SourcesSound.grantExt (h : SourcesSound s) (o : Owner) (c : Nat) : SourcesSound (grantExt o c s) := by
  obtain ⟨e1, e2, e3, e4, e5, -⟩ := grantExt_frame o c s
  exact h.congr (step_grantExt ..) e1 e2 e3 e4 (by rw [e5]) (by rw [e5])

theorem SourcesSound.releaseExt (h : SourcesSound s) : SourcesSound (releaseExt s) := ⟨h.wordA, h.wordB, h.search, h.asleep⟩

theorem SourcesSound.setView (h : SourcesSound s) (v : Option (Nat × ViewSource)) : SourcesSound (setView v s) :=
  ⟨h.wordA, h.wordB, h.search, h.asleep⟩

theorem SourcesSound.dropView (h : SourcesSound s) : SourcesSound (dropView s) := ⟨h.wordA, h.wordB, h.search, h.asleep⟩

/-- A source that VIEW owns is released: tuner B is not with the search then. -/
theorem SourcesSound.releaseSource (h : SourcesSound s) {v : ViewSource} (ho : s.ownerOf v = .view) :
    SourcesSound (releaseSource v s) := by
  cases v
  · exact h.clearA
  · exact h.releaseB fun e => nomatch (h.search e).1.symm.trans ho
  · exact h.releaseExt

/-- No view is held after it is dropped. -/
theorem viewHeld_none (h : s.tun.view = none) : ViewHeld s := by
  intro v hv
  rw [h] at hv
  nomatch hv

/-! ### The grants and releases keep the tuning -/

theorem tuning_releaseView (h : s.TuningSound) : (releaseView s).TuningSound := by
  obtain ⟨hs, hv⟩ := tuningSound_iff.mp h
  unfold releaseView
  split
  · exact h
  · rename_i n v heq
    exact tuningSound_iff.mpr ⟨(hs.releaseSource (hv (n, v) heq)).setView _, viewHeld_none rfl⟩

theorem tuning_dropView (h : s.TuningSound) : (dropView s).TuningSound :=
  tuningSound_iff.mpr ⟨(tuningSound_iff.mp h).1.dropView, viewHeld_none rfl⟩

/-- The owners of the sources that a tune of tuner `x` does not touch stay. -/
theorem ownerOf_tuneChannel_a {o : Owner} {c : Nat} : (tuneChannel .a o c s).tun.tunerA.owner = o ∧
    (tuneChannel .a o c s).tun.tunerB = s.tun.tunerB ∧ (tuneChannel .a o c s).tun.ext = s.tun.ext ∧
    (tuneChannel .a o c s).tun.view = s.tun.view ∧ (tuneChannel .a o c s).tun.search = s.tun.search := by
  obtain ⟨r, w, ht, ho, -⟩ := tuneChannel_a o c s
  rw [ht]
  exact ⟨ho, rfl, rfl, rfl, rfl⟩

theorem ownerOf_tuneChannel_b {o : Owner} {c : Nat} : (tuneChannel .b o c s).tun.tunerB.owner = o ∧
    (tuneChannel .b o c s).tun.tunerA = s.tun.tunerA ∧ (tuneChannel .b o c s).tun.ext = s.tun.ext ∧
    (tuneChannel .b o c s).tun.view = s.tun.view ∧ (tuneChannel .b o c s).tun.search = s.tun.search := by
  obtain ⟨r, w, ht, ho, -⟩ := tuneChannel_b o c s
  rw [ht]
  exact ⟨ho, rfl, rfl, rfl, rfl⟩

/-- Tuner A may be tuned for any owner while no view is on it. -/
theorem tuning_tuneA (h : s.TuningSound) (o : Owner) (c : Nat) (hn : ∀ v ∈ s.tun.view, v.2 ≠ .tunerA) :
    (tuneChannel .a o c s).TuningSound := by
  obtain ⟨hs, hv⟩ := tuningSound_iff.mp h
  obtain ⟨-, e1, e2, e3, -⟩ := ownerOf_tuneChannel_a (s := s) (o := o) (c := c)
  refine tuningSound_iff.mpr ⟨hs.tuneA o c, fun v hm => ?_⟩
  rw [e3] at hm
  have hold := hv v hm
  have hna := hn v hm
  rcases hv2 : v.2 with _ | _ | _
  · exact absurd hv2 hna
  · rw [hv2] at hold; simpa only [State.ownerOf, e1] using hold
  · rw [hv2] at hold; simpa only [State.ownerOf, e2] using hold

/-- Tuner B may be tuned for any owner while no view is on it and no search runs. -/
theorem tuning_tuneB (h : s.TuningSound) (o : Owner) (c : Nat) (hr : s.tun.search.state ≠ .running)
    (hn : ∀ v ∈ s.tun.view, v.2 ≠ .tunerB) : (tuneChannel .b o c s).TuningSound := by
  obtain ⟨hs, hv⟩ := tuningSound_iff.mp h
  obtain ⟨-, e1, e2, e3, -⟩ := ownerOf_tuneChannel_b (s := s) (o := o) (c := c)
  refine tuningSound_iff.mpr ⟨hs.tuneB hr o c, fun v hm => ?_⟩
  rw [e3] at hm
  have hold := hv v hm
  have hna := hn v hm
  rcases hv2 : v.2 with _ | _ | _
  · rw [hv2] at hold; simpa only [State.ownerOf, e1] using hold
  · exact absurd hv2 hna
  · rw [hv2] at hold; simpa only [State.ownerOf, e2] using hold

theorem tuning_suspendSearch (h : s.TuningSound) : (suspendSearch s).TuningSound := by
  obtain ⟨hs, hv⟩ := tuningSound_iff.mp h
  obtain ⟨e1, e2, e3, e4, -⟩ := suspendSearch_frame s
  refine tuningSound_iff.mpr ⟨hs.suspend, fun v hm => ?_⟩
  rw [e1] at hm
  have hold := hv v hm
  rcases hv2 : v.2 with _ | _ | _ <;> rw [hv2] at hold <;> simpa only [State.ownerOf, e2, e3, e4] using hold

/-- A view moved to tuner B leaves no view on tuner A. -/
theorem displaceViewFromA_off (s : State) : ∀ v ∈ (displaceViewFromA s).tun.view, v.2 ≠ .tunerA := by
  unfold displaceViewFromA
  split
  · split
    · exact fun v hv => nomatch hv
    · rintro v ⟨⟩ ⟨⟩
  · rename_i hno
    intro v hv hA
    obtain ⟨n, _⟩ := v
    subst hA
    exact hno n hv

theorem tuning_displaceViewFromA (h : s.TuningSound) : (displaceViewFromA s).TuningSound := by
  unfold displaceViewFromA
  split
  · split
    · exact tuning_dropView h
    · rename_i n _ _
      have hs := (tuningSound_iff.mp h).1.suspend
      refine tuningSound_iff.mpr ⟨(hs.tuneB (suspendSearch_notRunning s) .view n).setView _, ?_⟩
      rintro v ⟨⟩
      exact ownerOf_tuneChannel_b.1
  · exact h

theorem tuning_grantRecord (k : SourceKind) (c : Nat) (h : s.TuningSound) : (grantRecord k c s).TuningSound := by
  cases k
  · exact tuning_tuneA (tuning_displaceViewFromA h) .record c (displaceViewFromA_off s)
  · unfold grantRecord
    dsimp only
    have key : ∀ t : State, t.TuningSound → (∀ v ∈ t.tun.view, v.2 ≠ .external) → (grantExt .record c t).TuningSound := by
      intro t ht hn
      obtain ⟨hs, hv⟩ := tuningSound_iff.mp ht
      obtain ⟨e1, e2, -, -, -, e6, -⟩ := grantExt_frame .record c t
      refine tuningSound_iff.mpr ⟨hs.grantExt .record c, fun v hm => ?_⟩
      rw [e6] at hm
      have hold := hv v hm
      have hna := hn v hm
      rcases hv2 : v.2 with _ | _ | _
      · rw [hv2] at hold; simpa only [State.ownerOf, e1] using hold
      · rw [hv2] at hold; simpa only [State.ownerOf, e2] using hold
      · exact absurd hv2 hna
    split
    · exact key _ (tuning_dropView h) fun v hm => nomatch hm
    · rename_i hne
      refine key s h fun v hm he => hne (decide_eq_true ?_)
      have := (tuningSound_iff.mp h).2 v hm
      rwa [he] at this

theorem tuning_releaseRecord (k : SourceKind) (h : s.TuningSound) : (releaseRecord k s).TuningSound := by
  obtain ⟨hs, hv⟩ := tuningSound_iff.mp h
  cases k
  · unfold releaseRecord
    dsimp only
    split
    · rename_i ho
      refine tuningSound_iff.mpr ⟨hs.clearA, ?_⟩
      rw [clearTuner_eq]
      intro v hm
      have hold := hv v hm
      rcases hv2 : v.2 with _ | _ | _ <;> rw [hv2] at hold
      · exact nomatch ho.symm.trans hold
      · exact hold
      · exact hold
    · exact h
  · unfold releaseRecord
    dsimp only
    split
    · rename_i ho
      refine tuningSound_iff.mpr ⟨hs.releaseExt, fun v hm => ?_⟩
      have hold := hv v hm
      rcases hv2 : v.2 with _ | _ | _ <;> rw [hv2] at hold
      · exact hold
      · exact hold
      · exact nomatch ho.symm.trans hold
    · exact h

/-- No view stands on tuner B while another owns it. -/
theorem view_off_B (h : s.TuningSound) (ho : s.tun.tunerB.owner ≠ .view) : ∀ v ∈ s.tun.view, v.2 ≠ .tunerB := by
  intro v hm he
  have := (tuningSound_iff.mp h).2 v hm
  rw [he] at this
  exact ho this

/-- No search runs while another owns tuner B. -/
theorem search_off_B (h : s.TuningSound) (ho : s.tun.tunerB.owner ≠ .search) : s.tun.search.state ≠ .running :=
  fun e => ho ((tuningSound_iff.mp h).1.search e).1

theorem tuning_grantWatch (c : Nat) (h : s.TuningSound) : (grantWatch c s).TuningSound := by
  unfold grantWatch
  split
  case h_1 ho =>
    split
    · exact h
    · exact tuning_tuneB h _ c (search_off_B h (by rw [ho]; decide)) (view_off_B h (by rw [ho]; decide))
  case h_2 ho =>
    obtain ⟨e1, -, e3, -⟩ := suspendSearch_frame s
    exact tuning_tuneB (tuning_suspendSearch h) _ c (suspendSearch_notRunning s)
      (view_off_B (tuning_suspendSearch h) (by rw [e3, ho]; decide))
  case h_3 ho =>
    have hr : s.tun.search.state ≠ .running := search_off_B h (by rw [ho]; decide)
    dsimp only
    split
    · rename_i hno
      exact tuning_tuneB h _ c hr (by rw [hno]; exact fun v hm => nomatch hm)
    · split
      · rename_i n _ _ _
        obtain ⟨hs, -⟩ := tuningSound_iff.mp h
        have moved : (setView (some (n, .tunerA)) (tuneChannel .a .view n s)).TuningSound := by
          refine tuningSound_iff.mpr ⟨(hs.tuneA .view n).setView _, ?_⟩
          rintro v ⟨⟩
          exact ownerOf_tuneChannel_a.1
        refine tuning_tuneB moved _ c ?_ ?_
        · obtain ⟨-, -, -, -, e⟩ := ownerOf_tuneChannel_a (s := s) (o := .view) (c := n)
          show (tuneChannel .a .view n s).tun.search.state ≠ .running
          rw [e]; exact hr
        · rintro v ⟨⟩ ⟨⟩
      · exact tuning_tuneB (tuning_dropView h) _ c hr fun v hm => nomatch hm
  case h_4 ho => exact tuning_tuneB h _ c (search_off_B h (by rw [ho]; decide)) (view_off_B h (by rw [ho]; decide))
  case h_5 ho => exact tuning_tuneB h _ c (search_off_B h (by rw [ho]; decide)) (view_off_B h (by rw [ho]; decide))

theorem tuning_releaseWatch (h : s.TuningSound) : (releaseWatch s).TuningSound := by
  unfold releaseWatch
  split
  · rename_i ho
    obtain ⟨hs, hv⟩ := tuningSound_iff.mp h
    obtain ⟨e1, e2, e3, -⟩ := releaseB_frame s
    have hoff := view_off_B h (by rw [ho]; decide)
    refine tuningSound_iff.mpr ⟨hs.releaseB (search_off_B h (by rw [ho]; decide)), fun v hm => ?_⟩
    rw [e1] at hm
    have hold := hv v hm
    have hna := hoff v hm
    rcases hv2 : v.2 with _ | _ | _
    · rw [hv2] at hold; simpa only [State.ownerOf, e2] using hold
    · exact absurd hv2 hna
    · rw [hv2] at hold; simpa only [State.ownerOf, e3] using hold
  · exact h

/-- What a VIEW is granted it owns, the sources of the view it leaves still owned by VIEW. -/
theorem viewGrant_sound (c : Nat) (v : ViewSource) (h : s.TuningSound) :
    SourcesSound (viewGrant c v s) ∧ (viewGrant c v s).ownerOf v = .view ∧
      ∀ w, s.ownerOf w = .view → (viewGrant c v s).ownerOf w = .view := by
  obtain ⟨hs, -⟩ := tuningSound_iff.mp h
  cases v
  · obtain ⟨e, e1, e2, -⟩ := ownerOf_tuneChannel_a (s := s) (o := .view) (c := c)
    refine ⟨hs.tuneA .view c, e, fun w hw => ?_⟩
    cases w
    · exact e
    · exact (congrArg Tuner.owner e1).trans hw
    · exact (congrArg ExtRecord.owner e2).trans hw
  · obtain ⟨e, e1, e2, -⟩ := ownerOf_tuneChannel_b (s := suspendSearch s) (o := .view) (c := c)
    obtain ⟨-, f2, f3, f4, -⟩ := suspendSearch_frame s
    refine ⟨hs.suspend.tuneB (suspendSearch_notRunning s) .view c, e, fun w hw => ?_⟩
    cases w
    · exact (congrArg Tuner.owner (e1.trans f2)).trans hw
    · exact e
    · exact (congrArg ExtRecord.owner (e2.trans f4)).trans hw
  · obtain ⟨e1, e2, -, -, -, -, e7, -⟩ := grantExt_frame .view c s
    refine ⟨hs.grantExt .view c, e7, fun w hw => ?_⟩
    cases w
    · exact (congrArg Tuner.owner e1).trans hw
    · exact (congrArg Tuner.owner e2).trans hw
    · exact e7

theorem tuning_takeView (c : Nat) (v : ViewSource) (h : s.TuningSound) : (takeView c v s).TuningSound := by
  obtain ⟨hg, ho, hold⟩ := viewGrant_sound c v h
  have hv := (tuningSound_iff.mp h).2
  rw [takeView_eq]
  generalize viewGrant c v s = g at hg ho hold
  have key : ∀ t, SourcesSound t → t.ownerOf v = .view → (setView (some (c, v)) t).TuningSound := by
    intro t ht hto
    refine tuningSound_iff.mpr ⟨ht.setView _, ?_⟩
    rintro x ⟨⟩
    cases v <;> exact hto
  split
  · exact key g hg ho
  · rename_i w hw
    split
    · exact key g hg ho
    · rename_i hne
      obtain ⟨x, hx, rfl⟩ := Option.map_eq_some_iff.mp hw
      refine key _ (hg.releaseSource (hold _ (hv x hx))) ?_
      rw [releaseSource_owner hne]
      exact ho

/-! ### The search keeps the tuning -/

theorem SourcesSound.endSearch (h : SourcesSound s) (r : SearchResult) : SourcesSound (endSearch r s) := by
  unfold Machine.endSearch
  dsimp only
  split
  · exact ⟨h.wordA, wordSound_cleared _, fun e => (nomatch e), fun _ => rfl⟩
  · exact ⟨h.wordA, h.wordB, fun e => (nomatch e), fun _ => rfl⟩

theorem tuning_endSearch (r : SearchResult) (h : s.TuningSound) : (endSearch r s).TuningSound := by
  obtain ⟨hs, hv⟩ := tuningSound_iff.mp h
  refine tuningSound_iff.mpr ⟨hs.endSearch r, ?_⟩
  unfold Machine.endSearch
  dsimp only
  split
  · rename_i hr
    have hoff := view_off_B h (by rw [(hs.search (of_decide_eq_true hr)).1]; decide)
    intro v hm
    have hold := hv v hm
    have hna := hoff v hm
    rcases hv2 : v.2 with _ | _ | _ <;> rw [hv2] at hold
    · exact hold
    · exact absurd hv2 hna
    · exact hold
  · exact hv

theorem tuning_raiseFrequency (n : Nat) (hr : s.tun.search.state = .running) (h : s.TuningSound) :
    (raiseFrequency n s).TuningSound := by
  obtain ⟨hs, hv⟩ := tuningSound_iff.mp h
  unfold raiseFrequency
  split
  · exact tuning_endSearch .done h
  · have hoff := view_off_B h (by rw [(hs.search hr).1]; decide)
    have ha := hs.awake_of_search (by rw [hr]; decide)
    refine tuningSound_iff.mpr ⟨SourcesSound.searchTune (by exact hs.wordA) (by exact ha), ?_⟩
    obtain ⟨r, w, ht, -⟩ := searchTune_b (modSearch (fun r =>
      { r with frequency := r.frequency + n, phase := .step, count := 0, network := none }) s)
    intro v hm
    rw [ht] at hm
    have hold := hv v hm
    have hna := hoff v hm
    rcases hv2 : v.2 with _ | _ | _ <;> rw [hv2] at hold
    · exact (congrArg (fun x : Tun => x.tunerA.owner) ht).trans hold
    · exact absurd hv2 hna
    · exact (congrArg (fun x : Tun => x.ext.owner) ht).trans hold

/-- A change of a tuner's record that leaves its owner, its frequency and its offsets keeps the tuning. -/
theorem tuning_setTuner (x : TunerId) {r : Tuner} (ho : r.owner = (s.tuner x).owner) (ha : r.afc = (s.tuner x).afc)
    (hf : r.frequency = (s.tuner x).frequency) (hfine : r.fine = (s.tuner x).fine) (h : s.TuningSound) :
    (setTuner x r s).TuningSound := by
  obtain ⟨⟨h1, h2, h3, h5⟩, h4⟩ := tuningSound_iff.mp h
  have word : ∀ w, (s.tuner x).WordSound w → r.WordSound w := by
    intro w hw
    refine ⟨by rw [ha]; exact hw.1, by rw [ha]; exact hw.2.1, ?_⟩
    rw [hf, hfine, ha]
    exact hw.2.2
  have view : ViewHeld (setTuner x r s) := by
    intro v hm
    have hold := h4 v (by cases x <;> exact hm)
    rcases hv2 : v.2 with _ | _ | _ <;> rw [hv2] at hold <;> cases x
    · exact ho.trans hold
    · exact hold
    · exact hold
    · exact ho.trans hold
    · exact hold
    · exact hold
  refine tuningSound_iff.mpr ⟨?_, view⟩
  cases x
  · exact ⟨word _ h1, h2, h3, h5⟩
  · exact ⟨h1, word _ h2, fun e => ⟨ho.trans (h3 e).1, hf.trans (h3 e).2⟩, h5⟩

theorem tuning_setSettling (x : TunerId) (v : Settling) (h : s.TuningSound) : (setSettling x v s).TuningSound := by
  cases x <;> exact h

/-- A tuner's AFC offset moves within its range and its word follows (R85, R87). -/
theorem tuning_sendWord (x : TunerId) (k : Settling) {r : Tuner} (ho : r.owner = (s.tuner x).owner)
    (hf : x = .b → s.tun.search.state = .running → r.frequency = some s.tun.search.frequency)
    (ha : -24 ≤ r.afc ∧ r.afc ≤ 24) (h : s.TuningSound) : (sendWord x k (setTuner x r s)).TuningSound := by
  obtain ⟨⟨h1, h2, h3, h5⟩, h4⟩ := tuningSound_iff.mp h
  have word : ({ r with settle := 8 } : Tuner).WordSound r.synthWord := wordSound_synthWord ha rfl rfl rfl
  have asleep : (sendWord x k (setTuner x r s)).asleep = s.asleep :=
    ((step_setTuner x r s).trans (step_sendWord x k _)).asleep
  cases x
  · have e := sendWord_a k (setTuner .a r s)
    refine tuningSound_iff.mpr ⟨⟨by rw [e]; exact word, by rw [e]; exact h2, by rw [e]; exact h3, by rw [asleep, e]; exact h5⟩, ?_⟩
    intro v hm
    rw [e] at hm
    have hold := h4 v hm
    rcases hv2 : v.2 with _ | _ | _ <;> rw [hv2] at hold
    · exact (congrArg (fun x : Tun => x.tunerA.owner) e).trans (ho.trans hold)
    · exact (congrArg (fun x : Tun => x.tunerB.owner) e).trans hold
    · exact (congrArg (fun x : Tun => x.ext.owner) e).trans hold
  · have e := sendWord_b k (setTuner .b r s)
    refine tuningSound_iff.mpr ⟨⟨by rw [e]; exact h1, by rw [e]; exact word,
      by rw [e]; exact fun hr => ⟨ho.trans (h3 hr).1, hf rfl hr⟩, by rw [asleep, e]; exact h5⟩, ?_⟩
    intro v hm
    rw [e] at hm
    have hold := h4 v hm
    rcases hv2 : v.2 with _ | _ | _ <;> rw [hv2] at hold
    · exact (congrArg (fun x : Tun => x.tunerA.owner) e).trans hold
    · exact (congrArg (fun x : Tun => x.tunerB.owner) e).trans (ho.trans hold)
    · exact (congrArg (fun x : Tun => x.ext.owner) e).trans hold

theorem tuning_takeReading (x : TunerId) (a : Int) (h : s.TuningSound) : (takeReading x a s).1.TuningSound := by
  unfold takeReading
  dsimp only
  split
  · exact tuning_setTuner x rfl rfl rfl rfl h
  · dsimp only
    have range : -24 ≤ (s.tuner x).afc ∧ (s.tuner x).afc ≤ 24 := by
      obtain ⟨hs, -⟩ := tuningSound_iff.mp h
      cases x
      · exact ⟨hs.wordA.1, hs.wordA.2.1⟩
      · exact ⟨hs.wordB.1, hs.wordB.2.1⟩
    split
    · rename_i he
      exact tuning_setTuner x rfl he rfl rfl h
    · refine tuning_sendWord x .trim rfl ?_ (afcEvaluate_range _ _ range) h
      rintro rfl hr
      exact ((tuningSound_iff.mp h).1.search hr).2

theorem tuning_unmarkedHeader (x : TunerId) (strong : Bool) (a : Int) (h : s.TuningSound) :
    (unmarkedHeader x strong a s).1.TuningSound := by
  have detector : (setTuner x ((s.tuner x).presence s.sto.options.presenceRun strong) s).TuningSound := by
    refine tuning_setTuner x ?_ ?_ ?_ ?_ h <;> cases strong <;> rfl
  unfold unmarkedHeader
  dsimp only
  split
  · exact tuning_takeReading x a detector
  · exact detector

theorem tuning_settlingHeader (x : TunerId) (h : s.TuningSound) : (settlingHeader x s).1.TuningSound := by
  have lowered : (setTuner x { s.tuner x with settle := (s.tuner x).settle - 1 } s).TuningSound :=
    tuning_setTuner x rfl rfl rfl rfl h
  unfold settlingHeader
  dsimp only
  split
  · exact tuning_setSettling x .none lowered
  · exact lowered

/-- With the search stopped, everything at the sources can be cleared (R99 to R101). -/
theorem tuning_clearSources (hr : s.tun.search.state ≠ .running) (h : s.TuningSound) : (clearSources s).TuningSound := by
  obtain ⟨hs, -⟩ := tuningSound_iff.mp h
  have cleared := hs.clearA.clearB hr
  exact tuningSound_iff.mpr ⟨⟨cleared.wordA, cleared.wordB, cleared.search, cleared.asleep⟩, viewHeld_none rfl⟩

end Sys2Proof.Proofs.Invariant
end

section
/-! PROOFS. The operations of the blocks keep what bears the changes they are made of: the control path, the counter block, the
directory, the store, the tuners and the transport (chapters 1 to 6, 11 and 12). -/

namespace Sys2Proof.Proofs.Invariant
open Sys2Proof.Machine

variable {P : State → Prop} (K : Kept P) {s : State}

/-- An operation of a command, handed the command that the control line unit has just taken, keeps the predicate. -/
def OpKeeps (P : State → Prop) (op : Cmd → State → State) : Prop :=
  ∀ (c : Cmd) (s : State), c.id < s.clu.nextId → s.asleep = false → P s → P (op c s)

include K

/-! ### The control path (chapter 11) -/

theorem Kept.keeps_raise (e : Sticky) (h : P s) : P (raise e s) := K.setSticky _ h

theorem Kept.keeps_done (c : Cmd) (h : P s) : P (done c s) := K.answers c _ _ _ h

theorem Kept.keeps_refuse (c : Cmd) (r : Reason) (h : P s) : P (refuse c r s) := K.answers c _ _ _ h

theorem Kept.keeps_completeHeld (o : ReplyOutcome) (r : Reason) (h : P s) : P (completeHeld o r s) := by
  unfold completeHeld
  split
  · exact h
  · exact K.completes _ o r (K.setTrc _ ⟨.inr rfl, .inl rfl, .inl rfl⟩ h)

omit K in
theorem complete_nextId (id : Nat) (o : ReplyOutcome) (r : Reason) (s : State) :
    (complete id o r s).clu.nextId = s.clu.nextId := by
  unfold complete
  split
  · rfl
  · simp only [State.setClu_clu, Clu.answer]
    split <;> rfl

omit K in
theorem completeHeld_nextId (o : ReplyOutcome) (r : Reason) (s : State) :
    (completeHeld o r s).clu.nextId = s.clu.nextId := by
  unfold completeHeld
  split
  · rfl
  · rw [complete_nextId]; rfl

omit K in
theorem complete_trc (n : Nat) (o : ReplyOutcome) (r : Reason) (s : State) : (complete n o r s).trc = s.trc := by
  unfold complete
  split <;> rfl

omit K in
theorem completeHeld_state (o : ReplyOutcome) (r : Reason) (s : State) :
    (completeHeld o r s).trc.state = s.trc.state := by
  unfold completeHeld
  split
  · rfl
  · rw [complete_trc]; rfl

theorem Kept.keeps_holdTransport {c : Cmd} {effect : State → State} (hid : c.id < s.clu.nextId)
    (he : ∀ t, t.trc.state = s.trc.state → P t → P (effect t)) (h : P s) : P (holdTransport c effect s) := by
  have hid' : c.id < (completeHeld .superseded .none s).clu.nextId := by rwa [completeHeld_nextId]
  unfold holdTransport
  dsimp only
  split
  · rename_i hl
    have enlisted := K.enlists c .trc hid' hl (K.keeps_completeHeld .superseded .none h)
    exact he _ (completeHeld_state _ _ s) (K.hold _ hid' enlisted)
  · exact K.keeps_refuse c .full h

theorem Kept.keeps_atOnce {c : Cmd} {effect : State → State} (o : ReplyOutcome) (r : Reason)
    (he : ∀ t, t.trc.state = s.trc.state → P t → P (effect t)) (h : P s) : P (atOnce c effect o r s) :=
  K.answers c o r _ (he _ (completeHeld_state _ _ s) (K.keeps_completeHeld .superseded .none h))

theorem Kept.keeps_owned {op : Cmd → State → State} (hop : OpKeeps P op) : OpKeeps P (owned op) := by
  intro c s hid ha h
  unfold owned
  split
  · exact K.keeps_refuse c _ h
  · exact hop c s hid ha h

theorem Kept.keeps_noArgs {op : Cmd → State → State} (hop : OpKeeps P op) : OpKeeps P (noArgs op) := by
  intro c s hid ha h
  unfold noArgs
  split
  · exact hop c s hid ha h
  · split
    · exact K.keeps_refuse c _ h
    · exact hop c s hid ha h

theorem Kept.keeps_takeCommand (tag : Byte) (code : Nat) (args : List Byte) {op : Cmd → State → State} (hop : OpKeeps P op)
    (h : P s) : P (takeCommand tag code args op s) := by
  unfold takeCommand
  split
  · exact h
  · rename_i ha
    have awake := Bool.eq_false_iff.mpr ha
    dsimp only
    split
    · exact hop _ _ (Nat.lt_succ_self _) awake (K.giveId h)
    · split
      · exact K.keeps_raise _ h
      · rename_i hf
        exact hop _ _ (Nat.lt_succ_self _) awake (K.reserve hf h)

theorem Kept.keeps_modSession (f : Session → Session) (h : P s)
    (hf : ∀ x, (f x).state = .closing → x.state = .closing) : P (modSession f s) := by
  unfold modSession
  split
  · exact h
  · rename_i x hx
    exact K.setSch _ rfl (.inl rfl) h ⟨fun _ => rfl, fun b hb hc => ⟨x, hx, by cases hb; exact hf x hc⟩⟩

theorem Kept.keeps_modTimer (k : Nat) (f : TimerEntry → TimerEntry) (h : P s) : P (modTimer k f s) :=
  K.setSch _ (List.length_modify ..) (.inl rfl) h (.refl _)

omit K in
theorem keeps_foldl {α : Type} {f : State → α → State} (hf : ∀ t a, P t → P (f t a)) (l : List α) (h : P s) :
    P (l.foldl f s) := by
  induction l generalizing s with
  | nil => exact h
  | cons a l ih => exact ih (hf s a h)

/-! ### The counter block (chapter 2) -/

theorem Kept.keeps_exactAtZero (h : P s) : P (exactAtZero s) :=
  K.setTcb _ ⟨fun ⟨h1, h2, _, h4, h5⟩ => ⟨h1, h2, Nat.zero_le _, h4, h5⟩, id, rfl⟩ h

theorem Kept.keeps_positionUnknown (h : P s) : P (positionUnknown s) := K.setTcb _ ⟨id, id, rfl⟩ h

theorem Kept.keeps_openWindow (h : P s) : P (openWindow s) := K.setTcb _ ⟨id, id, rfl⟩ h

theorem Kept.keeps_evalNearEnd (h : P s) : P (evalNearEnd s) := by
  unfold evalNearEnd
  split
  · split
    · exact h
    · exact K.keeps_raise _ (K.setTcb _ ⟨id, id, rfl⟩ h)
  · exact K.setTcb _ ⟨id, id, rfl⟩ h

theorem Kept.keeps_clearHistory (h : P s) : P (clearHistory s) :=
  K.setSch _ rfl (.inl rfl) (K.setTcb _ ⟨id, fun _ => Nat.zero_le _, rfl⟩ h) (.refl _)

theorem Kept.keeps_selectProfile (p : Nat) (h : P s) : P (selectProfile p s) := by
  unfold selectProfile
  split
  · exact h
  · exact K.keeps_clearHistory (K.setTcb _ ⟨id, id, rfl⟩ h)

theorem Kept.keeps_newCassette (h : P s) : P (newCassette s) :=
  K.keeps_clearHistory (K.setTcb _ ⟨fun ⟨_, _, h3, _, _⟩ => ⟨by simp, by simp, h3, by simp, by simp⟩, id, rfl⟩ h)

theorem Kept.keeps_tcbEjected (h : P s) : P (tcbEjected s) :=
  K.keeps_clearHistory (K.setTcb _ ⟨fun ⟨h1, h2, _, h4, h5⟩ => ⟨h1, h2, Nat.zero_le _, h4, h5⟩, id, rfl⟩ h)

/-! ### The directory (chapter 3) -/

theorem Kept.keeps_dirUnknown (h : P s) : P (dirUnknown s) := K.setDir _ (fun _ => Nat.zero_le _) h

theorem Kept.keeps_dirEjected (h : P s) : P (dirEjected s) := K.setDir _ (fun _ => Nat.zero_le _) h

theorem Kept.keeps_setImage {image : List DirEntry} (hl : s.dir.image.length ≤ 24 → image.length ≤ 24) (h : P s) :
    P (setImage image s) :=
  K.keeps_modSession _ (K.setDir _ hl h) (fun _ => id)

omit K in
theorem insertEntry_length (e : DirEntry) (image : List DirEntry) : (insertEntry e image).length = image.length + 1 := by
  have parts := List.length_eq_length_filter_add (l := image) (fun x => decide (x.start < e.start))
  simp only [insertEntry, List.length_append, List.length_cons, decide_not]
  omega

theorem Kept.keeps_openNotice (x : Session) (n : Option Nat) (h : P s) : P (openNotice x n s) := by
  unfold openNotice
  dsimp only
  split
  · exact K.keeps_modSession _ (K.setDir _ id h) (fun _ => id)
  · split
    · exact K.keeps_raise _ (K.setDir _ id h)
    · rename_i hlen
      refine K.keeps_setImage (fun _ => ?_) (K.setDir _ id h)
      rw [insertEntry_length]
      omega

theorem Kept.keeps_followWriting (h : P s) : P (followWriting s) := by
  unfold followWriting
  split
  · exact h
  · split
    · exact K.setDir _ id h
    · exact h

theorem Kept.keeps_noteSwitch (h : P s) : P (noteSwitch s) := by
  unfold noteSwitch
  split
  · exact K.keeps_modSession _ (K.keeps_setImage (fun hl => by rwa [List.length_map]) h) (fun _ => id)
  · exact h

omit K in
theorem closeImage_length (S E : Nat) (r : EndReason) (image : List DirEntry) :
    (closeImage S E r image).length ≤ image.length := List.length_filterMap_le ..

theorem Kept.keeps_closeNotice (r : EndReason) (h : P s) : P (closeNotice r s).1 := by
  have cleared : P (s.setDir { s.dir with range := none }) := K.setDir _ id h
  unfold closeNotice
  split
  · exact h
  · dsimp only
    split
    · exact cleared
    · split
      · exact K.keeps_setImage (fun hl => (closeImage_length ..).trans hl) cleared
      · split
        · exact cleared
        · exact K.keeps_setImage (fun hl => (closeImage_length ..).trans hl) cleared

theorem Kept.keeps_headerFollows (p : Nat) (h : P s) : P (headerFollows p s) := by
  unfold headerFollows
  split
  · exact K.setDir _ id h
  · exact h

theorem Kept.keeps_readBegins (h : P s) : P (readBegins s) := K.setDir _ id h

theorem Kept.keeps_startBlankTest (h : P s) : P (startBlankTest s) := by
  unfold startBlankTest
  split
  · exact h
  · exact K.setDir _ id h

theorem Kept.keeps_fileLine (frame : Nat) (p : Parity) (line : Nat) (l : List Byte) (h : P s) :
    P (fileLine frame p line l s) := by
  unfold fileLine
  split
  · split
    · exact h
    · exact K.setDir _ id h
  · exact h

theorem Kept.keeps_readEmpty (st : DirState) (h : P s) : P (readEmpty st s) := K.setDir _ (fun _ => Nat.zero_le _) h

omit K in
/-- A copy that is accepted carries at most 24 entries (R50). -/
theorem judgeCopy_length {places : List (Option (List Byte))} {es : List DirEntry} {p g : Nat}
    (h : judgeCopy places = some (es, p, g)) : es.length ≤ 24 := by
  unfold judgeCopy at h
  dsimp only at h
  split at h
  · split at h
    · rename_i hc
      obtain ⟨-, -, -, -, hcount, -, -⟩ := hc
      cases h
      simpa using hcount
    · cases h
  · cases h

theorem Kept.keeps_readEnds (e : ReadEnding) (h : P s) : P (readEnds e s) := by
  unfold readEnds
  dsimp only
  split
  · exact K.keeps_dirUnknown h
  · split
    · exact K.keeps_readEmpty _ h
    · exact K.setDir _ id h
  · split
    · split
      · rename_i hf
        obtain ⟨places, -, hj⟩ := List.exists_of_findSome?_eq_some hf
        exact K.keeps_selectProfile _ (K.setDir _ (fun _ => judgeCopy_length hj) h)
      · split
        · exact K.keeps_readEmpty _ h
        · exact K.keeps_readEmpty _ h
    · exact K.setDir _ id h

theorem Kept.keeps_buildWriteImage (h : P s) : P (buildWriteImage s) := K.setDir _ id h

theorem Kept.keeps_writeCompletes (h : P s) : P (writeCompletes s) := K.setDir _ id h

/-! ### The store (chapter 12) -/

theorem Kept.keeps_setChannel (i : Nat) (c : Option Channel) (h : P s) : P (setChannel i c s) :=
  K.setChannels _ (List.length_set ..) h

theorem Kept.keeps_setProfileEntry (i : Nat) (p : Profile) (h : P s) : P (setProfileEntry i p s) :=
  K.setTcb _ ⟨id, id, List.length_set ..⟩ h

/-- A change of the tuning controller in which no source has a part. -/
theorem Kept.setTun_sourceless (x : Tun) (hc : x.channels = s.tun.channels)
    (ht : s.TuningSound → (s.setTun x).TuningSound) (h : P s) : P (s.setTun x) :=
  K.sources (s := s) (t := s.setTun x) ⟨rfl, hc, rfl, .inl rfl, .inl rfl⟩ ht h

theorem Kept.keeps_loadOptions (o : Options) (h : P s) : P (loadOptions o s) :=
  K.keeps_selectProfile _ (K.setClk _ (fun hc => hc) (K.setSto _ rfl rfl .inl h))

theorem Kept.keeps_loadTimer (i : Nat) (t : Option TimerDef) (h : P s) : P (loadTimer i t s) := by
  unfold loadTimer
  split
  · exact K.keeps_modTimer _ _ h
  · split
    · exact K.mark _ (K.keeps_modTimer _ _ h)
    · exact K.keeps_modTimer _ _ h

theorem Kept.keeps_loadContent {n : RecordName} {l : List Byte} {t : State} (ht : loadContent n l s = some t) (h : P s) :
    P t := by
  unfold loadContent at ht
  cases n <;> obtain ⟨x, -, rfl⟩ := Option.map_eq_some_iff.mp ht
  case channel => exact K.keeps_setChannel _ _ h
  case timer => exact K.keeps_loadTimer _ _ h
  case profile => exact K.keeps_setProfileEntry _ _ h
  case irProfile => exact K.setTun_sourceless _ rfl id h
  case options => exact K.keeps_loadOptions _ h

theorem Kept.keeps_loadDefault (n : RecordName) (h : P s) : P (loadDefault n s) := by
  cases n
  case channel => exact K.keeps_setChannel _ _ h
  case timer i => exact K.keeps_loadTimer i none h
  case profile => exact K.keeps_setProfileEntry _ _ h
  case irProfile => exact K.setTun_sourceless _ rfl id h
  case options => exact K.keeps_loadOptions _ h

theorem Kept.keeps_loadRecord (n : RecordName) (l : Option (List Byte)) (h : P s) : P (loadRecord n l s) := by
  unfold loadRecord
  split
  · rename_i t ht
    obtain ⟨content, -, hc⟩ := Option.bind_eq_some_iff.mp ht
    exact K.keeps_loadContent hc h
  · exact K.keeps_raise _ (K.keeps_loadDefault n h)

theorem Kept.keeps_readDone (i : Nat) (l : Option (List Byte)) (h : P s) : P (readDone i l s) := by
  unfold readDone
  dsimp only
  split
  · exact K.setSto _ rfl rfl .inl (K.keeps_loadRecord _ l h)
  · exact K.start (K.setSto _ rfl rfl .inl (K.keeps_loadRecord _ l h))

/-! ### The sources and the search (chapters 5 and 6) -/

theorem Kept.keeps_grantRecord (k : SourceKind) (c : Nat) (h : P s) : P (grantRecord k c s) :=
  K.sources (step_grantRecord k c s) (tuning_grantRecord k c) h

theorem Kept.keeps_releaseRecord (k : SourceKind) (h : P s) : P (releaseRecord k s) :=
  K.sources (step_releaseRecord k s) (tuning_releaseRecord k) h

theorem Kept.keeps_grantWatch (c : Nat) (h : P s) : P (grantWatch c s) :=
  K.sources (step_grantWatch c s) (tuning_grantWatch c) h

theorem Kept.keeps_releaseWatch (h : P s) : P (releaseWatch s) := K.sources (step_releaseWatch s) tuning_releaseWatch h

theorem Kept.keeps_releaseView (h : P s) : P (releaseView s) := K.sources (step_releaseView s) tuning_releaseView h

theorem Kept.keeps_takeView (c : Nat) (v : ViewSource) (h : P s) : P (takeView c v s) :=
  K.sources (step_takeView c v s) (tuning_takeView c v) h

theorem Kept.keeps_keyEnds (h : P s) : P (keyEnds s) := by
  refine K.sources (step_keyEnds s) (fun ht => ?_) h
  unfold keyEnds
  split
  · exact ht
  · split
    · exact ht
    · split <;> exact ht

theorem Kept.keeps_setSettling (x : TunerId) (v : Settling) (h : P s) : P (setSettling x v s) :=
  K.sources (step_setSettling x v s) (tuning_setSettling x v) h

theorem Kept.keeps_endSearch (r : SearchResult) (h : P s) : P (endSearch r s) :=
  K.sources (step_endSearch r s) (tuning_endSearch r) h

/-- A change of the search record that leaves its state and its frequency. -/
theorem Kept.keeps_modSearch {f : Search → Search} (hs : (f s.tun.search).state = s.tun.search.state)
    (hf : (f s.tun.search).frequency = s.tun.search.frequency) (h : P s) : P (modSearch f s) := by
  refine K.sources (step_modSearch f s) (fun ht => ?_) h
  obtain ⟨hs0, hv⟩ := tuningSound_iff.mp ht
  exact tuningSound_iff.mpr ⟨hs0.congr (step_modSearch f s) rfl rfl rfl rfl hs hf, hv⟩

theorem Kept.keeps_raiseFrequency (n : Nat) (hr : s.tun.search.state = .running) (h : P s) : P (raiseFrequency n s) :=
  K.sources (step_raiseFrequency n s) (tuning_raiseFrequency n hr) h

theorem Kept.keeps_passOver (hr : s.tun.search.state = .running) (h : P s) : P (passOver s) := K.keeps_raiseFrequency 5 hr h

theorem Kept.keeps_enterConfirm (h : P s) : P (enterConfirm s) :=
  K.keeps_modSearch rfl rfl
    (K.sources (step_setTuner .b _ s) (tuning_setTuner .b (s := s) rfl rfl rfl rfl) h)

theorem Kept.keeps_enterTrim (h : P s) : P (enterTrim s) := K.keeps_modSearch rfl rfl h

theorem Kept.keeps_countHeader (h : P s) : P (countHeader s) := K.keeps_modSearch rfl rfl h

theorem Kept.keeps_searchAddition (hr : s.tun.search.state = .running) (h : P s) : P (searchAddition s) := by
  unfold searchAddition
  dsimp only
  split
  · exact K.keeps_raiseFrequency 140 hr h
  · split
    · exact K.keeps_endSearch .full h
    · rename_i k _
      have marked := fun x => (markRecord_tun (.channel k) (setChannel k x s)).1
      refine K.keeps_raiseFrequency 140 ?_ (K.keeps_modSearch rfl rfl (K.mark _ (K.keeps_setChannel k _ h)))
      simp only [modSearch, State.setTun_tun, marked]
      exact hr

theorem Kept.keeps_nameFound (n : Nat) (hr : s.tun.search.state = .running) (h : P s) : P (nameFound n s) :=
  K.keeps_searchAddition hr (K.keeps_modSearch rfl rfl h)

theorem Kept.keeps_enterName (hr : s.tun.search.state = .running) (h : P s) : P (enterName s) := by
  have named : P (modSearch (fun r => { r with phase := .name, count := 0, network := none }) s) :=
    K.keeps_modSearch rfl rfl h
  unfold enterName
  dsimp only
  split
  · exact K.keeps_nameFound _ hr named
  · exact named

omit K in
/-- The folded frequency is the one tuned with its offset: a word in the same band stays right (R106). -/
theorem tuning_foldedSame {f : Nat} (hr : s.tun.search.state = .running)
    (hf : (f : Int) = s.tun.search.frequency + s.tun.tunerB.afc) (hb : bandOf f = bandOf s.tun.search.frequency)
    (h : s.TuningSound) :
    (modSearch (fun r => { r with frequency := f })
      (setTuner .b { s.tun.tunerB with frequency := some f, afc := 0 } s)).TuningSound := by
  obtain ⟨⟨h1, h2, h3, h5⟩, h4⟩ := tuningSound_iff.mp h
  obtain ⟨ho, hfreq⟩ := h3 hr
  refine tuningSound_iff.mpr ⟨⟨h1, ⟨by simp [modSearch, setTuner], by simp [modSearch, setTuner], ?_⟩, fun _ => ⟨ho, rfl⟩, h5⟩, h4⟩
  intro g hg
  cases hg
  have word := h2.2.2 _ hfreq
  refine word.trans ?_
  rw [hb, hf]
  congr 2
  show ((_ : Nat) : Int) + 778 + s.tun.tunerB.fine + s.tun.tunerB.afc =
    ((_ : Nat) : Int) + s.tun.tunerB.afc + 778 + s.tun.tunerB.fine + 0
  omega

omit K in
/-- With a word sent after it, a folded frequency is followed by the word (R106). -/
theorem tuning_foldedSent {f : Nat} (h : s.TuningSound) :
    (sendWord .b .trim (modSearch (fun r => { r with frequency := f })
      (setTuner .b { s.tun.tunerB with frequency := some f, afc := 0 } s))).TuningSound := by
  obtain ⟨⟨h1, h2, h3, h5⟩, h4⟩ := tuningSound_iff.mp h
  have hstep := step_sendWord .b .trim (modSearch (fun r => { r with frequency := f })
    (setTuner .b { s.tun.tunerB with frequency := some f, afc := 0 } s))
  have e := sendWord_b .trim (modSearch (fun r => { r with frequency := f })
    (setTuner .b { s.tun.tunerB with frequency := some f, afc := 0 } s))
  refine tuningSound_iff.mpr ⟨⟨by rw [e]; exact h1, ?_, by rw [e]; exact fun hr => ⟨(h3 hr).1, rfl⟩, ?_⟩, ?_⟩
  · rw [e]
    exact wordSound_synthWord ⟨by simp [modSearch, setTuner], by simp [modSearch, setTuner]⟩ rfl rfl rfl
  · rw [hstep.asleep, e]; exact h5
  · intro v hm
    rw [e] at hm
    have hold := h4 v hm
    rcases hv2 : v.2 with _ | _ | _ <;> rw [hv2] at hold
    · exact (congrArg (fun x : Tun => x.tunerA.owner) e).trans hold
    · exact (congrArg (fun x : Tun => x.tunerB.owner) e).trans hold
    · exact (congrArg (fun x : Tun => x.ext.owner) e).trans hold

theorem Kept.keeps_foldTrim (hr : s.tun.search.state = .running) (h : P s) : P (foldTrim s) := by
  unfold foldTrim
  dsimp only
  split
  · rename_i hrange
    have hf : (((s.tun.search.frequency : Int) + s.tun.tunerB.afc).toNat : Int) =
        s.tun.search.frequency + s.tun.tunerB.afc := Int.toNat_of_nonneg (by omega)
    have folded := (step_setTuner .b { s.tun.tunerB with
      frequency := some ((s.tun.search.frequency : Int) + s.tun.tunerB.afc).toNat, afc := 0 } s).trans
      (step_modSearch (fun r => { r with frequency := ((s.tun.search.frequency : Int) + s.tun.tunerB.afc).toNat }) _)
    split
    · rename_i hb
      exact K.keeps_enterName hr (K.sources folded (tuning_foldedSame hr hf hb) h)
    · refine K.keeps_enterName ?_ (K.sources (folded.trans (step_sendWord ..)) tuning_foldedSent h)
      rw [sendWord_b]
      exact hr
  · exact K.keeps_passOver hr h

theorem Kept.keeps_searchLimit (hr : s.tun.search.state = .running) (h : P s) : P (searchLimit s) := by
  unfold searchLimit
  split
  · exact K.keeps_passOver hr h
  · exact K.keeps_passOver hr h
  · exact K.keeps_foldTrim hr h
  · exact K.keeps_searchAddition hr h

theorem Kept.keeps_unmarkedHeader (x : TunerId) (strong : Bool) (a : Int) (h : P s) : P (unmarkedHeader x strong a s).1 :=
  K.sources (step_unmarkedHeader x strong a s) (tuning_unmarkedHeader x strong a) h

omit K in
/-- An unmarked header leaves the search record. -/
theorem search_unmarkedHeader (x : TunerId) (strong : Bool) (a : Int) (s : State) :
    (unmarkedHeader x strong a s).1.tun.search = s.tun.search := by
  unfold unmarkedHeader
  dsimp only
  split
  · rw [takeReading_search]; cases x <;> rfl
  · cases x <;> rfl

theorem Kept.keeps_searchReacts (was : Bool) (e : Option Int) (hr : s.tun.search.state = .running) (h : P s) :
    P (searchReacts was e s) := by
  unfold searchReacts
  dsimp only
  split
  · split
    · exact K.keeps_enterConfirm h
    · exact h
  · split
    · exact K.keeps_enterTrim h
    · exact h
  · split
    · exact K.keeps_passOver hr h
    · split
      · exact K.keeps_foldTrim hr h
      · exact h
  · split
    · exact K.keeps_passOver hr h
    · exact h

theorem Kept.keeps_searchHeader (strong : Bool) (a : Int) (hr : s.tun.search.state = .running) (h : P s) :
    P (searchHeader strong a s) := by
  have counted : P (countHeader s) := K.keeps_countHeader h
  have reacts : ∀ was t, t.tun.search.state = .running → P t →
      P (searchReacts was (unmarkedHeader .b strong a t).2 (unmarkedHeader .b strong a t).1) := fun was t ht hp =>
    K.keeps_searchReacts was _ (by rw [search_unmarkedHeader]; exact ht) (K.keeps_unmarkedHeader .b strong a hp)
  unfold searchHeader
  dsimp only
  split
  · have after := K.choose (K.keeps_searchLimit (s := countHeader s) hr counted)
    split
    · rename_i hrun
      exact reacts _ _ hrun.1 after
    · exact after
  · have reacted := reacts s.tun.tunerB.present (countHeader s) hr counted
    generalize searchReacts s.tun.tunerB.present (unmarkedHeader .b strong a (countHeader s)).2
      (unmarkedHeader .b strong a (countHeader s)).1 = t at reacted
    have limited : ∀ (b : Bool) u, P u → P (if b && sameStretch (countHeader s) u then searchLimit u else u) := by
      intro b u hu
      split
      · rename_i hsame
        rw [Bool.and_eq_true] at hsame
        exact K.keeps_searchLimit ((of_decide_eq_true hsame.2).1.trans hr) hu
      · exact hu
    refine limited _ _ ?_
    split
    · exact K.choose reacted
    · exact reacted

theorem Kept.keeps_settlingCount (hr : s.tun.search.state = .running) (h : P s) : P (settlingCount s) := by
  unfold settlingCount
  dsimp only
  split
  · split
    · exact K.keeps_searchLimit (s := countHeader s) hr (K.keeps_countHeader h)
    · exact K.keeps_countHeader h
  · exact h

omit K in
theorem search_settlingHeader (x : TunerId) (s : State) : (settlingHeader x s).1.tun.search = s.tun.search := by
  unfold settlingHeader
  dsimp only
  split <;> cases x <;> rfl

theorem Kept.keeps_tunHeader (x : TunerId) (settling strong : Bool) (a : Int) (h : P s) :
    P (tunHeader x settling strong a s).1 := by
  unfold tunHeader
  dsimp only
  split
  · exact h
  · split
    · have settled : P (settlingHeader x s).1 := K.sources (step_settlingHeader x s) (tuning_settlingHeader x) h
      split
      · rename_i hs
        rw [Bool.and_eq_true] at hs
        have hrun := (of_decide_eq_true hs.1).2.2
        exact K.keeps_settlingCount (by rw [search_settlingHeader]; exact hrun) settled
      · exact settled
    · split
      · rename_i hs
        exact K.keeps_searchHeader strong a (of_decide_eq_true hs).2.2 h
      · exact K.keeps_unmarkedHeader x strong a h

/-! ### The transport (chapter 1) -/

theorem Kept.keeps_enter (st : TState) (ph : Phase) (h : P s) (hst : st.isSession = false) :
    P (enter st ph s) :=
  K.setTrc _ ⟨.inl rfl, .inr hst, .inl rfl⟩ (K.setDir _ id (K.setTcb _ ⟨id, id, rfl⟩ h))

theorem Kept.keeps_setPhase (ph : Phase) (h : P s) : P (setPhase ph s) := K.setTrc _ (.same rfl rfl rfl) h

theorem Kept.keeps_cutRead (h : P s) : P (cutRead s) := by
  unfold cutRead
  split
  · exact K.keeps_readEnds _ h
  · exact h

theorem Kept.keeps_stopTape (h : P s) : P (stopTape s) := K.setTrc _ (.same rfl rfl rfl) (K.keeps_enter _ _ h rfl)

theorem Kept.keeps_beginMotion (st : TState) (ph : Phase) (h : P s) (hst : st.isSession = false) :
    P (beginMotion st ph s) :=
  K.setTrc _ (.same rfl rfl rfl) (K.keeps_enter _ _ h hst)

theorem Kept.keeps_beginPlay (h : P s) : P (beginPlay s) := K.setTrc _ (.same rfl rfl rfl) (K.keeps_beginMotion _ _ h rfl)

theorem Kept.keeps_resumePlay (h : P s) : P (resumePlay s) := K.keeps_beginMotion _ _ h rfl

theorem Kept.keeps_beginDirRead (h : P s) : P (beginDirRead s) := K.keeps_readBegins (K.keeps_enter _ _ h rfl)

theorem Kept.keeps_clearLatch (h : P s) : P (clearLatch s) := K.setTrc _ (.same rfl rfl rfl) h

theorem Kept.keeps_clearLatchFor (d : Direction) (h : P s) : P (clearLatchFor d s) := by
  cases d
  · exact h
  · exact K.keeps_clearLatch h

theorem Kept.keeps_beginLocate (l : LocateTarget) (h : P s) : P (beginLocate l s) :=
  K.setTrc _ (.same rfl rfl rfl) (K.keeps_beginMotion _ _ h rfl)

theorem Kept.keeps_takeEndAction (e : EndAction) (h : P s) : P (takeEndAction e s) := by
  cases e
  · exact K.keeps_stopTape h
  · unfold takeEndAction
    dsimp only
    split
    · exact h
    · split
      · exact K.keeps_resumePlay h
      · exact K.keeps_beginPlay h

theorem Kept.keeps_runThreading (h : P s) : P (runThreading s) := K.setTrc _ (.same rfl rfl rfl) h

theorem Kept.keeps_runUnthreading (ph : Phase) (h : P s) : P (runUnthreading ph s) := K.setTrc _ (.same rfl rfl rfl) h

theorem Kept.keeps_beginLoading (h : P s) : P (beginLoading s) := by
  unfold beginLoading
  dsimp only
  split
  · exact K.setTrc _ (.same rfl rfl rfl) (K.keeps_enter _ _ h rfl)
  · exact K.keeps_runThreading (K.keeps_enter _ _ h rfl)

theorem Kept.keeps_beginPushOut (h : P s) : P (beginPushOut s) := K.setTrc _ ⟨.inl rfl, .inr rfl, .inl rfl⟩ h

theorem Kept.keeps_beginUnloading (h : P s) : P (beginUnloading s) := by
  unfold beginUnloading
  dsimp only
  split
  · exact K.setTrc _ (.same rfl rfl rfl) (K.keeps_enter _ _ h rfl)
  · exact K.keeps_runUnthreading _ (K.keeps_enter _ _ h rfl)

theorem Kept.keeps_beginDewHold (h : P s) : P (beginDewHold s) := by
  unfold beginDewHold
  dsimp only
  split
  · exact K.setTrc _ (.same rfl rfl rfl) (K.setTrc _ (.same rfl rfl rfl) (K.keeps_enter _ _ h rfl))
  · exact K.keeps_runUnthreading _ (K.setTrc _ (.same rfl rfl rfl) (K.keeps_enter _ _ h rfl))

theorem Kept.keeps_dewHoldAtOnce (h : P s) : P (dewHoldAtOnce s) := K.keeps_runUnthreading _ (K.keeps_enter _ _ h rfl)

theorem Kept.keeps_beginRethread (h : P s) : P (beginRethread s) := K.setTrc _ (.same rfl rfl rfl) h

theorem Kept.keeps_enterEjected (h : P s) : P (enterEjected s) :=
  K.keeps_dirEjected (K.keeps_tcbEjected (K.setTrc _ (.same rfl rfl rfl) (K.keeps_enter _ _ h rfl)))

theorem Kept.keeps_enterFault (h : P s) : P (enterFault s) := K.setTrc _ ⟨.inl rfl, .inl rfl, .inr rfl⟩ (K.keeps_enter _ _ (K.keeps_cutRead h) rfl)

theorem Kept.keeps_foundEjected (h : P s) : P (foundEjected s) :=
  K.keeps_dirEjected (K.setTrc _ (.same rfl rfl rfl) (K.keeps_enter _ _ h rfl))

theorem Kept.keeps_stateBySwitches (h : P s) : P (stateBySwitches s) := by
  unfold stateBySwitches
  split
  · exact K.keeps_dirUnknown (K.keeps_enter _ _ h rfl)
  · exact K.keeps_foundEjected h
  · split
    · split
      · exact K.keeps_beginDewHold h
      · exact K.keeps_stopTape h
    · exact K.keeps_beginLoading h

theorem Kept.keeps_beginLockPhase (h : P s) : P (beginLockPhase s) := K.setTrc _ (.same rfl rfl rfl) h

theorem Kept.keeps_afterLeader (h : P s) : P (afterLeader s) := by
  unfold afterLeader
  split
  · exact K.setTrc _ (.same rfl rfl rfl) h
  · exact K.keeps_beginLockPhase h

theorem Kept.keeps_orderHalt (h : P s) : P (orderHalt s) := by
  unfold orderHalt
  split
  · dsimp only
    split
    · exact K.keeps_stopTape (K.keeps_cutRead h)
    · exact K.keeps_completeHeld _ _ (K.keeps_stopTape (K.keeps_cutRead h))
  · split <;> exact K.setTrc _ (.same rfl rfl rfl) h

theorem Kept.keeps_withdrawOrders (h : P s) : P (withdrawOrders s) := K.setTrc _ ⟨.inl rfl, .inl rfl, .inr rfl⟩ h

theorem Kept.keeps_orderStop (h : P s) : P (orderStop s) := by
  have let_go : P (if s.holds [codeRecord, codePause] then completeHeld .aborted .state s else s) := by
    split
    · exact K.keeps_completeHeld _ _ h
    · exact h
  unfold orderStop
  generalize (if s.holds [codeRecord, codePause] then completeHeld .aborted .state s else s) = t at let_go
  dsimp only
  split
  · exact K.setTrc _ (.same rfl rfl rfl) (K.keeps_stopTape let_go)
  · exact let_go

theorem Kept.keeps_autoRewind (h : P s) : P (autoRewind s) := by
  unfold autoRewind
  split
  · exact K.keeps_beginMotion _ _ h rfl
  · exact h

end Sys2Proof.Proofs.Invariant
end

section
/-! PROOFS. The timer scheduler's own operations, and the stages of the transport, keep what bears the changes they are made of
(chapters 1, 9 and 10). -/

namespace Sys2Proof.Proofs.Invariant
open Sys2Proof.Machine

variable {P : State → Prop} (K : Kept P) {s : State}
include K

/-! ### The watch, and the end of an occurrence (R144, R162) -/

theorem Kept.keeps_reassessWatch (h : P s) : P (reassessWatch s) := by
  unfold reassessWatch
  split
  · exact h
  · dsimp only
    split
    · exact h
    · split
      · exact K.keeps_grantWatch _ (K.setSch _ rfl (.inl rfl) h (.refl _))
      · split
        · exact K.keeps_releaseWatch (K.setSch _ rfl (.inl rfl) h (.refl _))
        · exact h

theorem Kept.keeps_setEntryState (k : Nat) (st : EntryState) (h : P s) : P (setEntryState k st s) := by
  unfold setEntryState
  dsimp only
  split
  · exact K.keeps_reassessWatch (K.keeps_modTimer _ _ h)
  · exact K.keeps_modTimer _ _ h

theorem Kept.keeps_occurrenceEnds (k : Nat) (served : Bool) (h : P s) : P (occurrenceEnds k served s) := by
  have ended : ∀ t, P t → P (if served then t else raise .entryMissed t) := fun t ht => by
    split
    · exact ht
    · exact K.keeps_raise _ ht
  refine ended _ ?_
  split
  · exact K.keeps_reassessWatch (K.keeps_modTimer _ _ h)
  · exact K.keeps_modTimer _ _ h

theorem Kept.keeps_missOccurrence (k : Nat) (r : EndReason) (h : P s) : P (missOccurrence k r s) :=
  K.keeps_occurrenceEnds _ _ (K.keeps_modTimer _ _ h)

theorem Kept.keeps_interruptedEnds (k : Nat) (h : P s) : P (interruptedEnds k s) := by
  unfold interruptedEnds
  split
  · exact K.keeps_occurrenceEnds _ _ h
  · exact K.keeps_missOccurrence _ _ h

/-! ### A session opens (R146, R149) -/

theorem Kept.keeps_openSession (x : Session) (h : P s) (hx : x.state ≠ .closing) :
    P (openSession x s) :=
  K.keeps_reassessWatch (K.keeps_grantRecord _ _ (K.keeps_orderHalt (K.keeps_evalNearEnd
    (K.setSch { s.sch with session := some x } rfl (.inl rfl) h (.open _ hx)))))

theorem Kept.keeps_openTimerSession (k : Nat) (r : StopRule) (h : P s) : P (openTimerSession k r s) := by
  unfold openTimerSession
  split
  · exact K.keeps_openSession _ (K.keeps_modTimer _ _ h) (fun e => nomatch e)
  · exact h

theorem Kept.keeps_attempt (k : Nat) (r : StopRule) (h : P s) : P (attempt k r s) := by
  unfold attempt
  split
  · exact h
  · split
    · exact K.keeps_modTimer _ _ h
    · split
      · exact K.keeps_openTimerSession _ _ h
      · split
        · exact h
        · exact K.keeps_missOccurrence _ _ h

theorem Kept.keeps_testWaiting (k : Nat) (h : P s) : P (testWaiting k s) := by
  unfold testWaiting
  split
  · split
    · split
      · exact K.keeps_attempt _ _ h
      · exact h
    · split
      · exact K.keeps_attempt _ _ h
      · exact h
  · exact h

/-! ### What a close does besides (R156, R157) -/

theorem Kept.keeps_closeEntryOf (x : Session) (n : Option Nat) (k : Nat) (h : P s) : P (closeEntryOf x n k s) := by
  unfold closeEntryOf
  dsimp only
  split
  · exact K.keeps_reassessWatch (K.mark _ (K.keeps_modTimer _ _ h))
  · split
    · exact K.keeps_setEntryState _ _ (K.keeps_modTimer _ _ (K.keeps_modTimer _ _ h))
    · exact K.keeps_occurrenceEnds _ _ (K.keeps_modTimer _ _ h)

theorem Kept.keeps_takeDeferred (k : Nat) (h : P s) : P (takeDeferred k s) := by
  unfold takeDeferred
  split
  · exact h
  · split
    · exact h
    · split
      · split
        · exact K.keeps_testWaiting _ h
        · exact K.keeps_missOccurrence _ _ h
      · split
        · exact K.keeps_attempt _ _ h
        · exact K.keeps_missOccurrence _ _ h

theorem Kept.keeps_takeAllDeferred (h : P s) : P (takeAllDeferred s) :=
  keeps_foldl (fun _ k ht => K.keeps_takeDeferred k ht) _ h

theorem Kept.keeps_completeWaiting (h : P s) : P (completeWaiting s) := by
  refine keeps_foldl (fun _ id ht => K.completes id _ _ ht) _ (K.setSch _ rfl (.inr rfl) ?_ (.refl _))
  split
  · exact K.keeps_completeHeld _ _ h
  · exact h

/-! ### The scheduler's own operations leave the transport -/

omit K in
theorem modSession_trc (f : Session → Session) (s : State) : (modSession f s).trc = s.trc := by
  unfold modSession
  split <;> rfl

omit K in
theorem setImage_trc (image : List DirEntry) (s : State) : (setImage image s).trc = s.trc := modSession_trc _ _

omit K in
theorem markRecord_trc (n : RecordName) (s : State) : (markRecord n s).trc = s.trc := by
  have started : ∀ t, (startWrite t).trc = t.trc := fun t => by
    unfold startWrite
    split
    · rfl
    · split <;> rfl
  unfold markRecord
  split
  · exact started s
  · exact started _

omit K in
theorem reassessWatch_trc (s : State) : (reassessWatch s).trc = s.trc := by
  unfold reassessWatch
  split
  · rfl
  · dsimp only
    split
    · rfl
    · split
      · exact (step_grantWatch _ _).trc
      · split
        · exact (step_releaseWatch _).trc
        · rfl

omit K in
theorem setEntryState_trc (k : Nat) (st : EntryState) (s : State) : (setEntryState k st s).trc = s.trc := by
  unfold setEntryState
  dsimp only
  split
  · exact reassessWatch_trc _
  · rfl

omit K in
theorem occurrenceEnds_trc (k : Nat) (served : Bool) (s : State) : (occurrenceEnds k served s).trc = s.trc := by
  have ended : ∀ t : State, (if served then t else raise .entryMissed t).trc = t.trc := fun t => by
    split <;> rfl
  refine (ended _).trans ?_
  split
  · exact reassessWatch_trc _
  · rfl

omit K in
theorem closeEntryOf_trc (x : Session) (n : Option Nat) (k : Nat) (s : State) : (closeEntryOf x n k s).trc = s.trc := by
  unfold closeEntryOf
  dsimp only
  split
  · exact (reassessWatch_trc _).trans (markRecord_trc _ _)
  · split
    · exact setEntryState_trc _ _ _
    · exact occurrenceEnds_trc _ _ _

omit K in
theorem closeNotice_trc (r : EndReason) (s : State) : (closeNotice r s).1.trc = s.trc := by
  unfold closeNotice
  split
  · rfl
  · dsimp only
    split
    · rfl
    · split
      · exact setImage_trc _ _
      · split
        · rfl
        · exact setImage_trc _ _

omit K in
theorem runningEntry_trc (st : EntryState) (s : State) :
    (match s.runningEntry with | none => s | some k => setEntryState k st s).trc = s.trc := by
  cases s.runningEntry with
  | none => rfl
  | some k => exact setEntryState_trc k st s

/-! ### The running session and its entry (R152, R169) -/

/-- The running entry of a session, if it has one, takes a state (R152). -/
theorem Kept.keeps_runningEntry (st : EntryState) (h : P s) :
    P (match s.runningEntry with | none => s | some k => setEntryState k st s) := by
  cases s.runningEntry with
  | none => exact h
  | some k => exact K.keeps_setEntryState k st h

theorem Kept.keeps_takeCueLoss (h : P s) : P (takeCueLoss s) :=
  K.keeps_modSession _ h fun x hc => by
    split at hc
    · exact hc
    · exact hc

theorem Kept.keeps_clearCueLoss (h : P s) : P (clearCueLoss s) := K.keeps_modSession _ h (fun _ => id)

theorem Kept.keeps_checkCueLoss (h : P s) : P (checkCueLoss s) := by
  unfold checkCueLoss
  split
  · exact h
  · split
    · exact K.keeps_takeCueLoss h
    · exact h

theorem Kept.keeps_irDone (h : P s) : P (irDone s) := by
  unfold irDone
  split
  · exact h
  · split
    · exact K.keeps_modSession _ h (fun _ => id)
    · exact h

theorem Kept.keeps_cueAbsentNotice (c : Option Nat) (h : P s) : P (cueAbsentNotice c s) := by
  unfold cueAbsentNotice
  split
  · split
    · exact K.keeps_checkCueLoss h
    · exact h
  · exact h

/-! ### The entries at an evaluation (R143, R145, R160) -/

theorem Kept.keeps_evalClockEntry (k a b : Nat) (h : P s) : P (evalClockEntry k a b s) := by
  unfold evalClockEntry
  dsimp only
  split
  · split
    · exact h
    · exact K.keeps_missOccurrence _ _ h
  · split
    · split
      · exact K.keeps_attempt _ _ h
      · exact K.keeps_interruptedEnds _ h
    · split
      · exact h
      · split
        · exact K.keeps_attempt _ _ h
        · exact K.keeps_missOccurrence _ _ h

theorem Kept.keeps_evalLabelEntry (k a b : Nat) (h : P s) : P (evalLabelEntry k a b s) := by
  unfold evalLabelEntry
  dsimp only
  split
  · split
    · exact K.keeps_missOccurrence _ _ h
    · split
      · exact K.keeps_interruptedEnds _ h
      · exact K.keeps_missOccurrence _ _ h
  · split
    · split
      · exact K.keeps_setEntryState _ _ h
      · exact h
    · exact K.keeps_testWaiting _ (K.keeps_setEntryState _ _ h)

theorem Kept.keeps_evalEntry (k : Nat) (h : P s) : P (evalEntry k s) := by
  have taken : ∀ a b, P (if (s.timer k).labelled then evalLabelEntry k a b s else evalClockEntry k a b s) := fun a b => by
    split
    · exact K.keeps_evalLabelEntry _ _ _ h
    · exact K.keeps_evalClockEntry _ _ _ h
  unfold evalEntry
  dsimp only
  split
  · exact h
  · split
    · exact taken _ _
    · exact taken _ _
    · exact taken _ _
    · exact taken _ _
    · exact h

theorem Kept.keeps_recomputeEntry (k : Nat) (h : P s) : P (recomputeEntry k s) := by
  unfold recomputeEntry
  split
  · dsimp only
    split
    · split
      · exact K.keeps_modTimer _ _ h
      · exact K.keeps_missOccurrence _ _ (K.keeps_modTimer _ _ h)
    · exact K.keeps_modTimer _ _ h
  · exact h

theorem Kept.keeps_watchLost (h : P s) : P (watchLost s) := K.keeps_reassessWatch (K.setSch _ rfl (.inl rfl) h (.refl _))

/-! ### Stages of the transport (R3, R10, R11, R18, R20, R26 to R31) -/

theorem Kept.keeps_noteSpeedChange (h : P s) : P (noteSpeedChange s) := by
  unfold noteSpeedChange
  split
  · exact K.keeps_noteSwitch h
  · exact h

theorem Kept.keeps_seekReads (h : P s) : P (seekReads s) := K.keeps_beginDirRead (K.setTrc _ (.same rfl rfl rfl) h)

theorem Kept.keeps_continueLocate (n : Int) (e : EndAction) (h : P s) : P (continueLocate n e s) := by
  unfold continueLocate
  split
  · exact K.keeps_completeHeld _ _ (K.keeps_takeEndAction _ h)
  · dsimp only
    split
    · exact K.keeps_completeHeld _ _ (K.keeps_stopTape (K.keeps_clearLatchFor _ h))
    · exact K.keeps_beginLocate _ (K.keeps_clearLatchFor _ h)

theorem Kept.keeps_continueSeek (x : SeekEntry) (h : P s) : P (continueSeek x s) := by
  have goes_on : P (match s.entry x.entry with
      | none => completeHeld .failed .range s
      | some e => continueLocate e.start x.endAction s) := by
    split
    · exact K.keeps_completeHeld _ _ h
    · exact K.keeps_continueLocate _ _ h
  unfold continueSeek
  split
  · exact K.keeps_completeHeld _ _ h
  · exact K.keeps_completeHeld _ _ h
  · exact goes_on
  · exact goes_on

theorem Kept.keeps_finishRead (e : ReadEnding) (h : P s) : P (finishRead e s) := by
  unfold finishRead
  dsimp only
  split
  · exact K.keeps_stopTape (K.keeps_readEnds _ h)
  · exact K.keeps_continueSeek _ (K.keeps_stopTape (K.keeps_readEnds _ h))

theorem Kept.keeps_targetReached (l : LocateTarget) (h : P s) : P (targetReached l s) :=
  K.keeps_completeHeld _ _ (K.keeps_takeEndAction _ h)

theorem Kept.keeps_countMark (marked : Bool) (h : P s) : P (countMark marked s) := by
  unfold countMark
  split
  · split
    · exact K.setTrc _ (.same rfl rfl rfl) h
    · exact h
  · exact h

theorem Kept.keeps_locatePulse (marked : Bool) (h : P s) : P (locatePulse marked s) := by
  have counted := K.keeps_countMark marked h
  unfold locatePulse
  dsimp only
  split
  · split
    · exact K.keeps_targetReached _ counted
    · exact counted
  · exact counted

theorem Kept.keeps_beginDirWrite (h : P s) : P (beginDirWrite s) := by
  unfold beginDirWrite
  dsimp only
  split
  · exact K.keeps_setPhase _ (K.keeps_exactAtZero (K.keeps_beginMotion _ _ h rfl))
  · exact K.keeps_beginMotion _ _ h rfl

theorem Kept.keeps_dirWriteCompletes (h : P s) : P (dirWriteCompletes s) := K.keeps_beginUnloading (K.keeps_writeCompletes h)

theorem Kept.keeps_leaveLeaderToWrite (h : P s) : P (leaveLeaderToWrite s) := by
  unfold leaveLeaderToWrite
  split
  · exact K.keeps_setPhase _ (K.keeps_buildWriteImage h)
  · exact K.keeps_completeHeld _ _ (K.keeps_stopTape h)

omit K in
/-- A control pulse keeps the two counters and the absolute position within their limits (R26 to R30). -/
theorem pulse_bounds (t : Tcb) (d : Direction) (marked : Bool) : TcbKept t (t.pulse d marked) := by
  refine ⟨fun ⟨h1, h2, h3, h4, h5⟩ => ?_, id, rfl⟩
  have clamped := fun (n : Nat) (x : Int) => clampInt_eq n x
  have absolute : stepAbs d t.absPos ≤ 899999 := by
    unfold stepAbs
    split
    · split
      · simp only [frameLimit] at *; omega
      · exact h3
    · omega
  refine ⟨?_, ?_, ?_, ?_, ?_⟩ <;> simp only [Tcb.pulse, clamped, frameLimit, indexLimit]
  · omega
  · omega
  · split <;> assumption
  · split <;> omega
  · split <;> omega

theorem Kept.keeps_countPulse (d : Direction) (marked : Bool) (h : P s) : P (countPulse d marked s) := by
  have counted : P (s.setTcb (s.tcb.pulse d (s.pulseMark marked))) := K.setTcb _ (pulse_bounds _ d _) h
  unfold countPulse
  dsimp only
  split
  · exact K.keeps_followWriting (K.setTrc _ (.same rfl rfl rfl) (K.setDir _ id counted))
  · exact K.setDir _ id counted

theorem Kept.keeps_dewUnthreaded (h : P s) : P (dewUnthreaded s) := by
  unfold dewUnthreaded
  split
  · exact K.keeps_beginPushOut h
  · split
    · exact K.setTrc _ (.same rfl rfl rfl) h
    · exact K.keeps_beginRethread h

end Sys2Proof.Proofs.Invariant
end

section
/-! PROOFS. A session as it runs and closes, recording begun and ended for it, and the clock's notices, keep what bears the
changes they are made of (chapters 1 and 8 to 10). -/

namespace Sys2Proof.Proofs.Invariant
open Sys2Proof.Machine

variable {P : State → Prop} (K : Bears P) {s : State}
include K

/-! ### The transport records, pauses and locks up for a session (R13, R15 to R17) -/

omit K in
/-- A transport in a session's hands has a session that is not closing (R13, R156). -/
theorem live_of_isSession (hs : s.trc.state.isSession = true) (h : s.SessionHoldsTransport) : Live s := by
  obtain ⟨hexists, -, hclosing⟩ := h
  obtain ⟨x, hx⟩ := Option.isSome_iff_exists.mp (hexists hs)
  refine ⟨x, hx, fun hc => ?_⟩
  rw [(hclosing x hx hc).2] at hs
  cases hs

omit K in
/-- A start order is held only for a session that is not closing (R13, R156). -/
theorem live_of_heldStart (hs : s.trc.heldStart.isSome = true) (h : s.SessionHoldsTransport) : Live s := by
  obtain ⟨-, hexists, hclosing⟩ := h
  obtain ⟨x, hx⟩ := Option.isSome_iff_exists.mp (hexists hs)
  refine ⟨x, hx, fun hc => ?_⟩
  rw [(hclosing x hx hc).1] at hs
  cases hs

omit K in
theorem Live.of_state {x : Session} (hx : s.sch.session = some x) (h : x.state ≠ .closing) : Live s := ⟨x, hx, h⟩

theorem Bears.keeps_enterLive (st : TState) (ph : Phase) (hl : s.SessionHoldsTransport → Live s) (h : P s) :
    P (enter st ph s) :=
  K.setTrcLive _ (.inl rfl) hl (K.setDir _ id (K.setTcb _ ⟨id, id, rfl⟩ h))

theorem Bears.keeps_beginMotionLive (st : TState) (ph : Phase) (hl : s.SessionHoldsTransport → Live s) (h : P s) :
    P (beginMotion st ph s) :=
  K.setTrc _ (.same rfl rfl rfl) (K.keeps_enterLive st ph hl h)

theorem Bears.keeps_beginLockup (speed : Speed) (index : Bool) (hl : s.SessionHoldsTransport → Live s) (h : P s) :
    P (beginLockup speed index s) := by
  have ordered := K.setTrc { (beginMotion .lockup .lock s).trc with
    orderedSpeed := speed, orderedIndex := index, heldStart := none } ⟨.inl rfl, .inl rfl, .inr rfl⟩ (K.keeps_beginMotionLive .lockup .lock hl h)
  unfold beginLockup
  dsimp only
  split
  · exact K.keeps_setPhase _ ordered
  · exact K.keeps_afterLeader ordered

theorem Bears.keeps_beginBackspace (speed : Speed) (hl : s.SessionHoldsTransport → Live s) (h : P s) :
    P (beginBackspace speed s) :=
  K.setTrc _ (.same rfl rfl rfl) (K.keeps_beginMotionLive _ _ hl h)

theorem Bears.keeps_enterRecordPause (hl : s.SessionHoldsTransport → Live s) (h : P s) : P (enterRecordPause s) :=
  K.setTrc _ (.same rfl rfl rfl) (K.keeps_enterLive _ _ hl h)

theorem Bears.keeps_orderStart (speed : Speed) (index : Bool) (hl : s.SessionHoldsTransport → Live s) (h : P s) :
    P (orderStart speed index s) := by
  unfold orderStart
  split
  · exact K.setTrcLive _ (.inl rfl) hl h
  · split
    · exact K.keeps_beginLockup _ _ hl h
    · exact h

theorem Bears.keeps_orderPause (h : P s) : P (orderPause s) := by
  unfold orderPause
  split
  · exact K.setTrc _ (.same rfl rfl rfl) h
  · split
    · rename_i hr
      exact K.keeps_enterRecordPause (live_of_isSession (by rw [hr]; rfl)) h
    · exact h

theorem Bears.keeps_orderResume (speed : Speed) (hl : s.SessionHoldsTransport → Live s) (h : P s) :
    P (orderResume speed s) := by
  unfold orderResume
  split
  · exact K.keeps_beginBackspace _ hl h
  · split
    · split
      · exact K.setTrcLive _ (.inl rfl) hl h
      · exact K.keeps_beginLockup _ _ hl h
    · split
      · exact K.setTrc _ (.same rfl rfl rfl) h
      · exact h

/-! ### A report of the transport closes the session (R155, R156) -/

theorem Bears.keeps_reportClose (r : EndReason) (h : P s) : P (reportClose r s) := by
  unfold reportClose
  split
  · exact h
  · rename_i x hx
    split
    · rename_i hc
      exact K.finishes (by simp [State.closing, hx, hc.1]) h
    · exact K.closes _ h

/-! ### A session runs (R150 to R153, R165 to R169) -/

omit K in
theorem modSession_isSome (f : Session → Session) (s : State) :
    (modSession f s).sch.session.isSome = s.sch.session.isSome := by
  unfold modSession
  split
  · rfl
  · rename_i x hx
    rw [hx]; rfl

omit K in
/-- A change of the session that leaves it open makes it live. -/
theorem live_modSession {f : Session → Session} {x : Session} (hx : s.sch.session = some x) (hf : (f x).state ≠ .closing) :
    Live (modSession f s) :=
  ⟨f x, by simp [modSession, hx], hf⟩

omit K in
theorem Live.congr {t : State} (h : Live s) (e : t.sch = s.sch) : Live t := by rwa [Live, e]

omit K in
theorem orderPause_sch (s : State) : (orderPause s).sch = s.sch := by
  unfold orderPause
  split
  · rfl
  · split <;> rfl

omit K in
theorem evalNearEnd_sch (s : State) : (evalNearEnd s).sch = s.sch := by
  unfold evalNearEnd
  split
  · split <;> rfl
  · rfl

theorem Bears.keeps_labelPause (h : P s) : P (labelPause s) :=
  K.keeps_runningEntry _ (K.keeps_orderPause (K.keeps_modSession _ h fun _ e => nomatch e))

theorem Bears.keeps_labelResume (hs : s.sch.session.isSome = true) (h : P s) : P (labelResume s) := by
  obtain ⟨x, hx⟩ := Option.isSome_iff_exists.mp hs
  exact K.keeps_runningEntry _ (K.keeps_orderResume _ (fun _ => live_modSession hx fun e => nomatch e)
    (K.keeps_modSession _ h fun _ e => nomatch e))

theorem Bears.keeps_labelContent (cue : Cue) (h : P s) : P (labelContent cue s) := by
  have cleared := K.keeps_clearCueLoss h
  unfold labelContent
  split
  · exact h
  · rename_i x hx
    split
    · exact h
    · split
      · exact K.closes _ h
      · dsimp only
        split
        · exact K.keeps_modSession _ cleared (fun _ => id)
        · exact K.keeps_modSession _ cleared (fun _ => id)
        · exact K.keeps_labelPause cleared
        · split
          · exact K.keeps_labelResume (by rw [clearCueLoss, modSession_isSome, hx]; rfl) cleared
          · exact cleared
        · exact cleared

theorem Bears.keeps_clockContent (cue : Cue) (h : P s) : P (clockContent cue s) := by
  unfold clockContent
  split
  · exact h
  · split
    · exact K.keeps_labelContent _ (K.keeps_modSession _ h (fun _ => id))
    · exact h

theorem Bears.keeps_testSessionCue (h : P s) : P (testSessionCue s) := by
  unfold testSessionCue
  split
  · exact h
  · split
    · split
      · exact K.keeps_clockContent _ h
      · exact h
    · exact h

theorem Bears.keeps_takeHoldPending (h : P s) : P (takeHoldPending s) :=
  K.keeps_clearCueLoss (K.keeps_labelPause (K.setTrc _ (.same rfl rfl rfl) (K.keeps_modSession _ h (fun _ => id))))

theorem Bears.keeps_activateSession (h : P s) : P (activateSession s) := by
  unfold activateSession
  split
  · exact h
  · rename_i x _
    have opened := K.keeps_openNotice x ((s.channel x.channel).bind Channel.network)
      (K.keeps_modSession (fun y => { y with state := .active, startedAt := some s.clk.now }) h
        fun _ e => nomatch e)
    have entered : P (raise .sessionOpen (match x.origin with
        | none => openNotice x ((s.channel x.channel).bind Channel.network)
            (modSession (fun y => { y with state := .active, startedAt := some s.clk.now }) s)
        | some k => setEntryState k .recording (openNotice x ((s.channel x.channel).bind Channel.network)
            (modSession (fun y => { y with state := .active, startedAt := some s.clk.now }) s)))) := by
      refine K.keeps_raise _ ?_
      split
      · exact opened
      · exact K.keeps_setEntryState _ _ opened
    refine K.keeps_checkCueLoss ?_
    split
    · exact K.keeps_takeHoldPending entered
    · exact entered

theorem Bears.keeps_autoSwitch (m : Nat) (h : P s) : P (autoSwitch m s) := by
  unfold autoSwitch
  split
  · exact h
  · rename_i x hx
    split
    · exact h
    · split
      · rename_i hc
        have active : x.state ≠ .closing := by rw [hc.1]; exact fun e => nomatch e
        exact K.keeps_orderResume _ (fun _ => (live_modSession hx active).congr (orderPause_sch _))
          (K.keeps_orderPause (K.keeps_modSession _ h (fun _ => id)))
      · exact h

theorem Bears.keeps_estimateUpdate (h : P s) : P (estimateUpdate s) := by
  unfold estimateUpdate
  split
  · exact K.setSch _ rfl (.inl rfl) h (.refl _)
  · exact h
  · exact K.keeps_autoSwitch _ (K.setSch _ rfl (.inl rfl) h (.refl _))

theorem Bears.keeps_startAtTapeEnd (h : P s) : P (startAtTapeEnd s) :=
  K.closes _ (K.keeps_raise _ (K.setTrc _ (.same rfl rfl rfl) h))

theorem Bears.keeps_sourceReady (h : P s) : P (sourceReady s) := by
  unfold sourceReady
  split
  · exact h
  · rename_i x hx
    split
    · rename_i hc
      have ready := fun (l : Lpt) (f : Session → Session) hf =>
        K.keeps_evalNearEnd (K.setLpt l (K.keeps_modSession f h hf))
      dsimp only
      split
      · exact K.keeps_startAtTapeEnd (ready _ _ fun _ => id)
      · have starting : x.state ≠ .closing := by rw [hc.1]; exact fun e => nomatch e
        exact K.keeps_orderStart _ _ (fun _ => (live_modSession hx starting).congr (evalNearEnd_sch _))
          (ready _ _ fun _ => id)
    · exact h

/-! ### Cue notices (R164 to R169) -/

theorem Bears.keeps_sessionCueChange (c : Nat) (cue : Cue) (h : P s) : P (sessionCueChange c cue s) := by
  unfold sessionCueChange
  split
  · exact h
  · split
    · split
      · exact K.keeps_labelContent _ h
      · exact K.keeps_clockContent _ h
      · exact h
    · exact h

theorem Bears.keeps_waitingCueChange (c : Nat) (cue : Cue) (h : P s) : P (waitingCueChange c cue s) := by
  unfold waitingCueChange
  split
  · exact h
  · refine keeps_foldl (fun t k ht => ?_) _ h
    split
    · exact K.keeps_attempt _ _ ht
    · exact ht

theorem Bears.keeps_cueChangeNotice (c : Option Nat) (cue : Cue) (h : P s) : P (cueChangeNotice c cue s) := by
  cases c with
  | none => exact h
  | some c => exact K.keeps_waitingCueChange c cue (K.keeps_sessionCueChange c cue h)

/-! ### The evaluation (R143, R154, R160, R168 to R170) -/

theorem Bears.keeps_evalClockStop (h : P s) : P (evalClockStop s) := by
  unfold evalClockStop
  split
  · exact h
  · split
    · split
      · exact h
      · exact K.closes _ h
    · exact h

theorem Bears.keeps_evalOverrun (h : P s) : P (evalOverrun s) := by
  unfold evalOverrun
  split
  · exact h
  · split
    · split
      · exact h
      · exact K.closes _ h
    · exact h

theorem Bears.keeps_evalCueLoss (h : P s) : P (evalCueLoss s) := by
  unfold evalCueLoss
  split
  · exact h
  · split
    · split
      · exact K.closes _ h
      · exact h
    · exact h

theorem Bears.keeps_evalSession (h : P s) : P (evalSession s) := by
  unfold evalSession
  split
  · exact h
  · split
    · exact h
    · exact K.keeps_evalCueLoss (K.keeps_evalOverrun (K.keeps_evalClockStop
        (K.keeps_checkCueLoss (K.keeps_testSessionCue h))))

theorem Bears.keeps_evaluateTable (h : P s) : P (evaluateTable s) := by
  unfold evaluateTable
  split
  · exact h
  · exact K.keeps_reassessWatch (keeps_foldl (fun _ k ht => K.keeps_evalEntry k ht) _ (K.keeps_evalSession h))

/-! ### The clock's notices (R128 to R132, R145) -/

theorem Bears.keeps_clockMoved (n : ClockNotice) (h : P s) : P (clockMoved n s) := by
  have wrapped : P (s.setSch { s.sch with timers := s.sch.timers.map (TimerEntry.wrapped n.new.seconds) }) :=
    K.setSch _ (List.length_map ..) (.inl rfl) h (.refl _)
  refine K.keeps_evaluateTable ?_
  split
  · exact keeps_foldl (fun _ k ht => K.keeps_recomputeEntry k ht) _ wrapped
  · exact wrapped

theorem Bears.keeps_applySet {t : DateTime} (ht : t.valid = true) (cause : ClockCause) (h : P s) : P (applySet t cause s) :=
  K.keeps_clockMoved _ (K.keeps_raise _ (K.setClk _ (fun _ => ⟨ht, rfl⟩) h))

theorem Bears.keeps_timeCue {t : DateTime} (ht : t.valid = true) (h : P s) : P (timeCue t s) := by
  unfold timeCue
  split
  · exact h
  · split
    · exact K.keeps_applySet ht _ h
    · exact h

theorem Bears.keeps_secondEvent (h : P s) : P (secondEvent s) := by
  have ticked : ∀ x : Clk, x.now = s.clk.now.tick → x.dow = (s.clk.now.tick).date.dow → P (s.setClk x) :=
    fun x hn hd => K.setClk x (fun hc => by rw [hn, hd]; exact ⟨s.clk.now.tick_valid hc.1, rfl⟩) h
  unfold secondEvent
  split
  · exact K.keeps_clockMoved _ (ticked _ rfl rfl)
  · dsimp only
    split
    · exact K.keeps_evaluateTable (ticked _ rfl rfl)
    · exact ticked _ rfl rfl

/-! ### Losses of sources and the unit reset (R101, R159, R163) -/

theorem Bears.keeps_sourceLost (h : P s) : P (sourceLost s) := K.closes _ h

theorem Bears.keeps_schReset (h : P s) : P (schReset s) := by
  have returned := K.keeps_modSession (fun x => { x with clearNote := false }) (K.keeps_releaseWatch (K.setSch { s.sch with
    timers := s.sch.timers.map entryAtReset, staging := none, watch := none, clears := [] } (List.length_map ..) (.inr rfl) h (.refl _))) (fun _ => id)
  unfold schReset
  dsimp only
  split
  · exact returned
  · split
    · exact returned
    · exact K.closes _ (K.keeps_modSession _ returned (fun _ => id))

/-! ### RECORD is entered (R15 to R17) -/

theorem Bears.keeps_takeHeldPause (hs : s.trc.state.isSession = true) (h : P s) : P (takeHeldPause s) := by
  have paused := K.keeps_enterRecordPause (live_of_isSession hs) h
  unfold takeHeldPause
  split
  · split
    · exact paused
    · exact K.keeps_orderResume _ (live_of_isSession rfl) paused
  · exact h

omit K in
theorem noteSpeedChange_trc (s : State) : (noteSpeedChange s).trc = s.trc := by
  unfold noteSpeedChange noteSwitch
  split
  · split
    · exact (modSession_trc _ _).trans (setImage_trc _ s)
    · rfl
  · rfl

theorem Bears.keeps_enterRecord (hs : s.trc.state.isSession = true) (h : P s) : P (enterRecord s) := by
  have activated : ∀ t, P t → P (if t.sch.session.any (fun x => decide (x.state = .starting)) then activateSession t else t) :=
    fun t ht => by
      split
      · exact K.keeps_activateSession ht
      · exact ht
  have completed : ∀ t, P t → P (if t.holds [codeRecord, codePause] then completeHeld .done .none t else t) := fun t ht => by
    split
    · exact K.keeps_completeHeld _ _ ht
    · exact ht
  have entered := K.keeps_enterLive .record .idle (live_of_isSession (by rwa [noteSpeedChange_trc])) (K.keeps_noteSpeedChange h)
  exact completed _ (activated _ (K.keeps_openWindow (K.setTrc _ (.same rfl rfl rfl) entered)))

theorem Bears.keeps_seam (hs : s.trc.state.isSession = true) (h : P s) : P (seam s) := by
  unfold seam
  split
  · exact K.keeps_enterRecord hs h
  · exact K.keeps_enterRecord (by rwa [modSession_trc]) (K.keeps_modSession _ h (fun _ => id))

theorem Bears.keeps_beginForwardRun (hs : s.trc.state.isSession = true) (h : P s) : P (beginForwardRun s) := by
  unfold beginForwardRun
  dsimp only
  split
  · exact K.keeps_seam hs (K.keeps_setPhase _ h)
  · exact K.keeps_setPhase _ h

/-! ### The ends of the tape, locate and seek (R10 to R12) -/

theorem Bears.keeps_tapeEnd (h : P s) : P (tapeEnd s) :=
  K.closes _ (K.keeps_completeHeld _ _ (K.keeps_raise _ (K.setTrc _ (.same rfl rfl rfl)
    (K.keeps_stopTape (K.keeps_cutRead h)))))

theorem Bears.keeps_tapeStart (h : P s) : P (tapeStart s) := by
  have reached : P (exactAtZero (raise .tapeStart s)) := K.keeps_exactAtZero (K.keeps_raise _ h)
  unfold tapeStart
  dsimp only
  split
  · exact K.keeps_setPhase _ reached
  · exact K.keeps_seekReads reached
  · rename_i hs
    exact K.keeps_beginForwardRun (by show s.trc.state.isSession = true; rw [hs]; rfl) reached
  · exact K.keeps_completeHeld _ _ (K.keeps_stopTape reached)

/-! ### Faults, dew and the directory write (R18, R20 to R23, R61) -/

theorem Bears.keeps_faultWith (o : ReplyOutcome) (r : Reason) (h : P s) : P (faultWith o r s) :=
  K.keeps_reportClose _ (K.keeps_completeHeld _ _ (K.keeps_enterFault h))

theorem Bears.keeps_dewStop (h : P s) : P (dewStop s) :=
  K.keeps_reportClose _ (K.keeps_beginDewHold (K.keeps_completeHeld _ _ (K.keeps_cutRead h)))

/-! ### A control pulse, rest, and the end of threading (R3, R8, R10, R13, R26 to R31) -/

theorem Bears.keeps_lockupPulse (hs : s.trc.state.isSession = true) (h : P s) : P (lockupPulse s) := by
  unfold lockupPulse
  split
  · split
    · exact K.keeps_beginLockPhase h
    · exact h
  · dsimp only
    split
    · exact K.keeps_beginForwardRun hs (K.setTrc _ (.same rfl rfl rfl) h)
    · exact K.setTrc _ (.same rfl rfl rfl) h
  · dsimp only
    split
    · exact K.keeps_seam hs (K.setTrc _ (.same rfl rfl rfl) h)
    · exact K.setTrc _ (.same rfl rfl rfl) h
  · exact h

omit K in
theorem countPulse_state (d : Direction) (marked : Bool) (s : State) :
    (countPulse d marked s).trc.state = s.trc.state := by
  unfold countPulse followWriting
  dsimp only
  split
  · split
    · rfl
    · split <;> rfl
  · rfl

theorem Bears.keeps_controlPulse (d : Direction) (marked : Bool) (h : P s) : P (controlPulse d marked s) := by
  have counted := K.keeps_countPulse d marked h
  have hstate := countPulse_state d marked s
  unfold controlPulse
  dsimp only
  cases hs : s.trc.state
  case lockup => exact K.keeps_lockupPulse (by rw [hstate, hs]; rfl) counted
  case dirRead =>
    dsimp only
    split
    · exact K.keeps_finishRead _ counted
    · exact counted
  case locate => exact K.keeps_locatePulse marked counted
  case record => exact K.keeps_takeHeldPause (by rw [hstate, hs]; rfl) counted
  all_goals exact counted

theorem Bears.keeps_takeHeldStart (h : P s) : P (takeHeldStart s) := by
  unfold takeHeldStart
  split
  · exact h
  · rename_i hh
    split
    · exact K.keeps_beginLockup _ _ (live_of_heldStart (by rw [hh]; rfl)) h
    · exact h

theorem Bears.keeps_atRest (h : P s) : P (atRest s) := by
  have rested : P (s.setTrc { s.trc with atRestMark := false }) := K.setTrc _ (.same rfl rfl rfl) h
  have stands : P (autoRewind (takeHeldStart (if (s.setTrc { s.trc with atRestMark := false }).holds [codeStop]
      then completeHeld .done .none (s.setTrc { s.trc with atRestMark := false })
      else s.setTrc { s.trc with atRestMark := false }))) := by
    refine K.keeps_autoRewind (K.keeps_takeHeldStart ?_)
    split
    · exact K.keeps_completeHeld _ _ rested
    · exact rested
  unfold atRest
  dsimp only
  split
  case h_1 =>
    split
    · rename_i hc
      exact K.finishes hc rested
    · exact stands
  case h_2 => exact K.keeps_runThreading rested
  case h_3 => exact K.keeps_runUnthreading _ rested
  case h_4 => exact K.keeps_runUnthreading _ rested
  all_goals exact rested

theorem Bears.keeps_threadingEnds (h : P s) : P (threadingEnds s) := by
  unfold threadingEnds
  split
  · exact K.keeps_reportClose _ (K.keeps_dewHoldAtOnce h)
  · have halted : P (s.setTrc { s.trc with heldHalt := false }) := K.setTrc _ (.same rfl rfl rfl) h
    dsimp only
    split
    · split
      · exact K.keeps_takeHeldStart (K.keeps_dirUnknown (K.keeps_enter _ _ halted rfl))
      · exact K.keeps_beginDirRead halted
    · exact K.keeps_takeHeldStart (K.keeps_dirUnknown (K.keeps_positionUnknown (K.keeps_enter _ _ halted rfl)))

end Sys2Proof.Proofs.Invariant
end

section
/-! PROOFS. The commands, cue capture and the supply keep what bears the changes they are made of (chapters 1 to 3, 5 to 9, 11
and 12). -/

namespace Sys2Proof.Proofs.Invariant
open Sys2Proof.Machine

variable {P : State → Prop} (K : Bears P) {s : State}
include K

/-! ### The transport's commands (R5 to R20) -/

theorem Bears.keeps_trcCommand {op : Cmd → State → State} (hop : OpKeeps P op) : OpKeeps P (trcCommand op) := by
  refine K.keeps_owned fun c s hid ha h => ?_
  split
  · exact K.keeps_refuse c _ h
  · exact hop c s hid ha h

theorem Bears.keeps_playOp : OpKeeps P playOp := by
  intro c s hid _ h
  unfold playOp
  split
  · exact K.keeps_refuse c _ h
  · split
    · exact K.keeps_atOnce _ _ (fun t _ => K.keeps_resumePlay) h
    · split
      · exact K.keeps_atOnce _ _ (fun t _ ht => ht) h
      · exact K.keeps_holdTransport hid (fun t _ ht => K.keeps_beginPlay (K.keeps_cutRead ht)) h

theorem Bears.keeps_windOp (st : TState) (d : Direction) (hst : st.isSession = false) :
    OpKeeps P (windOp st d) := by
  intro c s hid _ h
  unfold windOp
  split
  · exact K.keeps_refuse c _ h
  · exact K.keeps_holdTransport hid
      (fun t _ ht => K.keeps_beginMotion _ _ (K.keeps_clearLatchFor _ (K.keeps_cutRead ht)) hst) h

theorem Bears.keeps_pictureOp : OpKeeps P pictureOp := by
  intro c s hid ha h
  unfold pictureOp
  split
  · exact K.keeps_refuse c _ h
  · exact K.keeps_windOp _ _ rfl c s hid ha h
  · exact K.keeps_windOp _ _ rfl c s hid ha h

theorem Bears.keeps_locateOp (k : LocateKind) (n : Int) (e : EndAction) : OpKeeps P (locateOp k n e) := by
  intro c s hid _ h
  unfold locateOp
  dsimp only
  generalize (if k = .counter then s.tcb.relCounter else (s.tcb.absPos : Int)) = current
  split
  · exact K.keeps_refuse c _ h
  · split
    · exact K.keeps_atOnce _ _ (fun t _ ht => K.keeps_takeEndAction _ (K.keeps_cutRead ht)) h
    · split
      · exact K.keeps_atOnce _ _ (fun t _ ht => K.keeps_stopTape (K.keeps_clearLatchFor _ (K.keeps_cutRead ht))) h
      · exact K.keeps_holdTransport hid
          (fun t _ ht => K.keeps_beginLocate _ (K.keeps_clearLatchFor _ (K.keeps_cutRead ht))) h

theorem Bears.keeps_locateCommand : OpKeeps P locateCommand := by
  intro c s hid ha h
  unfold locateCommand
  split
  · exact K.keeps_refuse c _ h
  · exact K.keeps_locateOp _ _ _ c s hid ha h

theorem Bears.keeps_seekIndexOp : OpKeeps P seekIndexOp := by
  intro c s hid _ h
  unfold seekIndexOp
  split
  · exact K.keeps_refuse c _ h
  · rename_i marks _ _
    dsimp only
    generalize (if 0 < marks then .forward else .reverse : Direction) = d
    split
    · exact K.keeps_refuse c _ h
    · split
      · exact K.keeps_atOnce _ _ (fun t _ ht => K.keeps_stopTape (K.keeps_clearLatchFor _ (K.keeps_cutRead ht))) h
      · exact K.keeps_holdTransport hid
          (fun t _ ht => K.keeps_beginLocate _ (K.keeps_clearLatchFor _ (K.keeps_cutRead ht))) h

theorem Bears.keeps_beginSeek (k : Nat) (e : EndAction) (h : P s) : P (beginSeek k e s) := by
  have sought := fun (x : Trc) held state start => K.setTrc x ⟨.inl held, .inl state, .inl start⟩
    (K.keeps_beginMotion .locate .seekRewind (K.keeps_clearLatch (K.keeps_cutRead h)) rfl)
  unfold beginSeek
  dsimp only
  split
  · exact K.keeps_seekReads (K.keeps_exactAtZero (sought _ rfl rfl rfl))
  · exact sought _ rfl rfl rfl

theorem Bears.keeps_seekEntryOp : OpKeeps P seekEntryOp := by
  intro c s hid ha h
  unfold seekEntryOp
  split
  · exact K.keeps_refuse c _ h
  · split
    · exact K.keeps_refuse c _ h
    · split
      · split
        · exact K.keeps_refuse c _ h
        · exact K.keeps_locateOp _ _ _ c s hid ha h
      · exact K.keeps_holdTransport hid (fun t _ => K.keeps_beginSeek _ _) h

theorem Bears.keeps_leaveFault (h : P s) : P (leaveFault s) := by
  unfold leaveFault
  dsimp only
  split
  · exact K.keeps_clearHistory (K.keeps_clearLatch (K.keeps_stateBySwitches h))
  · exact K.keeps_stateBySwitches h

theorem Bears.keeps_stopOp : OpKeeps P stopOp := by
  intro c s hid _ h
  unfold stopOp
  split
  · exact K.keeps_atOnce _ _ (fun t _ => K.keeps_leaveFault) h
  · split
    · exact K.keeps_holdTransport hid (fun t _ => K.closes _) h
    · split
      · exact K.keeps_atOnce _ _ (fun t _ ht => ht) h
      · split
        · exact K.keeps_atOnce _ _ (fun t _ => K.keeps_stopTape) h
        · exact K.keeps_holdTransport hid (fun t _ ht => K.keeps_stopTape (K.keeps_cutRead ht)) h

theorem Bears.keeps_manualResume (hs : s.trc.state.isSession = true) (h : P s) : P (manualResume s) := by
  refine K.keeps_beginBackspace _ (live_of_isSession ?_) (K.keeps_runningEntry _ (K.keeps_modSession _ h fun _ e => nomatch e))
  exact (congrArg (fun x : Trc => x.state.isSession) ((runningEntry_trc .recording _).trans (modSession_trc _ s))).trans hs

theorem Bears.keeps_manualPause (hs : s.trc.state.isSession = true) (h : P s) : P (manualPause s) :=
  K.keeps_runningEntry _ (K.keeps_modSession _ (K.keeps_enterRecordPause (live_of_isSession hs) h) fun _ e => nomatch e)

theorem Bears.keeps_enterPlayPause (h : P s) : P (enterPlayPause s) := K.setTrc _ (.same rfl rfl rfl) (K.keeps_beginMotion _ _ h rfl)

theorem Bears.keeps_pauseOp : OpKeeps P pauseOp := by
  intro c s hid _ h
  unfold pauseOp
  split
  · split
    · rename_i hr
      exact K.keeps_atOnce _ _ (fun t ht => K.keeps_manualPause (by rw [ht, hr.1]; rfl)) h
    · split
      · rename_i hr
        exact K.keeps_holdTransport hid (fun t ht => K.keeps_manualResume (by rw [ht, hr.1]; rfl)) h
      · exact K.keeps_refuse c _ h
  · split
    · exact K.keeps_atOnce _ _ (fun t _ => K.keeps_enterPlayPause) h
    · split
      · exact K.keeps_holdTransport hid (fun t _ => K.keeps_resumePlay) h
      · exact K.keeps_refuse c _ h

theorem Bears.keeps_recordFresh : OpKeeps P recordFresh := by
  intro c s hid _ h
  unfold recordFresh
  split
  · exact K.keeps_refuse c _ h
  · split
    · exact K.keeps_refuse c _ h
    · split
      · exact K.keeps_refuse c _ h
      · exact K.keeps_holdTransport hid (fun t _ ht => K.keeps_openSession _ ht (fun e => nomatch e)) h

theorem Bears.keeps_recordOp : OpKeeps P recordOp := by
  intro c s hid ha h
  unfold recordOp
  split
  · exact K.keeps_recordFresh c s hid ha h
  · split
    · rename_i hr
      exact K.keeps_holdTransport hid (fun t ht => K.keeps_manualResume (by rw [ht, hr.1]; rfl)) h
    · split
      · exact K.keeps_refuse c _ h
      · exact K.keeps_refuse c _ h

theorem Bears.keeps_ejectFromDew (h : P s) : P (ejectFromDew s) := by
  unfold ejectFromDew
  split
  · exact K.keeps_beginPushOut h
  · exact K.keeps_beginUnloading h
  · exact h

theorem Bears.keeps_ejectOp : OpKeeps P ejectOp := by
  intro c s hid _ h
  unfold ejectOp
  split
  · exact K.keeps_holdTransport hid (fun t _ => K.keeps_ejectFromDew) h
  · refine K.keeps_holdTransport hid (fun t _ ht => ?_) h
    dsimp only
    split
    · exact K.keeps_beginDirWrite (K.keeps_cutRead ht)
    · exact K.keeps_beginUnloading (K.setTrc _ (.same rfl rfl rfl) (K.keeps_cutRead ht))

theorem Bears.keeps_setSpeedOp : OpKeeps P setSpeedOp := by
  intro c s _ _ h
  unfold setSpeedOp
  split
  · exact K.keeps_done c (K.keeps_evalNearEnd (K.setTrc _ (.same rfl rfl rfl) h))
  · split
    · exact K.keeps_done c (K.keeps_evalNearEnd (K.setTrc _ (.same rfl rfl rfl) h))
    · exact K.keeps_refuse c _ h

/-! ### The counter block's and the directory's commands (R32 to R37, R60) -/

theorem Bears.keeps_zeroCounterOp : OpKeeps P zeroCounterOp := by
  intro c s _ _ h
  unfold zeroCounterOp
  split
  · exact K.keeps_refuse c _ h
  · exact K.answers c _ _ _ (K.setTcb _ ⟨fun ⟨_, _, h3, _, _⟩ => ⟨by simp, by simp, h3, by simp, by simp⟩, id, rfl⟩ h)

theorem Bears.keeps_stageProfilePart (p : Nat) (rest : List Byte) : OpKeeps P (stageProfilePart p rest) := by
  intro c s _ _ h
  unfold stageProfilePart
  split
  · exact K.keeps_refuse c _ h
  · split
    · split
      · split
        · exact K.keeps_refuse c _ h
        · exact K.keeps_done c (K.setTcb _ ⟨id, id, rfl⟩ h)
      · exact K.keeps_refuse c _ h
    · split
      · exact K.keeps_refuse c _ h
      · split
        · exact K.keeps_refuse c _ h
        · exact K.keeps_done c (K.setTcb _ ⟨id, id, rfl⟩ h)

theorem Bears.keeps_stageProfileOp : OpKeeps P stageProfileOp := by
  intro c s hid ha h
  unfold stageProfileOp
  split
  · exact K.keeps_stageProfilePart _ _ c s hid ha h
  · exact K.keeps_refuse c _ h

theorem Bears.keeps_commitProfileOp : OpKeeps P commitProfileOp := by
  intro c s _ _ h
  unfold commitProfileOp
  split
  · exact K.keeps_refuse c _ h
  · split
    · exact K.keeps_refuse c _ h
    · dsimp only
      split
      · exact K.keeps_refuse c _ h
      · refine K.keeps_done c ?_
        split
        · exact K.keeps_clearHistory (K.mark _ (K.setTcb _ ⟨id, id, rfl⟩ (K.keeps_setProfileEntry _ _ h)))
        · exact K.mark _ (K.setTcb _ ⟨id, id, rfl⟩ (K.keeps_setProfileEntry _ _ h))

theorem Bears.keeps_readProfileOp : OpKeeps P readProfileOp := by
  intro c s _ _ h
  unfold readProfileOp
  split
  · split
    · exact K.keeps_refuse c _ h
    · dsimp only
      split
      · exact K.answers c _ _ _ h
      · exact K.answers c _ _ _ h
  · exact K.keeps_refuse c _ h

theorem Bears.keeps_setProfileOp : OpKeeps P setProfileOp := by
  intro c s _ _ h
  unfold setProfileOp
  split
  · exact K.keeps_refuse c _ h
  · split
    · exact K.keeps_refuse c _ h
    · refine K.keeps_done c ?_
      split
      · exact K.keeps_headerFollows _ (K.keeps_selectProfile _ h)
      · exact K.keeps_selectProfile _ h

theorem Bears.keeps_readEntryOp : OpKeeps P readEntryOp := by
  intro c s _ _ h
  unfold readEntryOp
  split
  · exact K.keeps_refuse c _ h
  · split
    · exact K.keeps_refuse c _ h
    · split
      · exact K.answers c _ _ _ h
      · split
        · exact K.keeps_refuse c _ h
        · split
          · exact K.keeps_refuse c _ h
          · exact K.answers c _ _ _ h

theorem Bears.keeps_deleteEntryOp : OpKeeps P deleteEntryOp := by
  intro c s _ _ h
  unfold deleteEntryOp
  split
  · exact K.keeps_refuse c _ h
  · split
    · exact K.keeps_refuse c _ h
    · split
      · exact K.keeps_refuse c _ h
      · split
        · exact K.keeps_refuse c _ h
        · split
          · exact K.keeps_refuse c _ h
          · split
            · exact K.keeps_refuse c _ h
            · split
              · exact K.keeps_refuse c _ h
              · exact K.keeps_done c (K.keeps_setImage
                  (fun hl => (List.length_eraseIdx_le ..).trans hl) h)

/-! ### The tuning controller's commands (R79 to R81, R91, R96, R102, R109, R118, R119) -/

theorem Bears.keeps_viewChannel (n : Nat) : OpKeeps P (viewChannel n) := by
  intro c s _ _ h
  unfold viewChannel
  split
  · exact K.keeps_refuse c _ h
  · dsimp only
    split
    · exact K.answers c _ _ _ h
    · exact K.answers c _ _ _ (K.keeps_takeView _ _ h)

theorem Bears.keeps_viewScan (order : List Nat) : OpKeeps P (viewScan order) := by
  intro c s hid ha h
  unfold viewScan
  split
  · exact K.keeps_refuse c _ h
  · exact K.keeps_viewChannel _ c s hid ha h

theorem Bears.keeps_viewOp : OpKeeps P viewOp := by
  intro c s hid ha h
  unfold viewOp
  split
  · exact K.keeps_refuse c _ h
  · split
    · exact K.keeps_refuse c _ h
    · dsimp only
      split
      · exact K.keeps_viewScan _ c s hid ha h
      · split
        · exact K.keeps_viewScan _ c s hid ha h
        · split
          · exact K.keeps_done c (K.keeps_releaseView h)
          · split
            · exact K.keeps_refuse c _ h
            · split
              · exact K.keeps_refuse c _ h
              · exact K.keeps_viewChannel _ c s hid ha h

theorem Bears.keeps_stageChannelOp : OpKeeps P stageChannelOp := by
  intro c s _ _ h
  unfold stageChannelOp
  split
  · exact K.keeps_refuse c _ h
  · exact K.keeps_done c (K.setTun_sourceless _ rfl id h)

theorem Bears.keeps_commitChannelOp : OpKeeps P commitChannelOp := by
  intro c s _ _ h
  unfold commitChannelOp
  split
  · exact K.keeps_refuse c _ h
  · split
    · exact K.keeps_refuse c _ h
    · split
      · exact K.keeps_refuse c _ h
      · split
        · exact K.keeps_done c (K.mark _ (K.setTun_sourceless _ rfl id (K.keeps_setChannel _ _ h)))
        · exact K.keeps_refuse c _ h

theorem Bears.keeps_clearChannelOp : OpKeeps P clearChannelOp := by
  intro c s _ _ h
  unfold clearChannelOp
  split
  · exact K.keeps_refuse c _ h
  · split
    · exact K.keeps_refuse c _ h
    · split
      · exact K.keeps_done c h
      · split
        · exact K.keeps_refuse c _ h
        · exact K.keeps_done c (K.mark _ (K.keeps_setChannel _ _ h))

theorem Bears.keeps_readChannelOp : OpKeeps P readChannelOp := by
  intro c s _ _ h
  unfold readChannelOp
  split
  · exact K.keeps_refuse c _ h
  · split
    · exact K.keeps_refuse c _ h
    · split
      · exact K.answers c _ _ _ h
      · exact K.answers c _ _ _ h

theorem Bears.keeps_loadIrOp : OpKeeps P loadIrOp := by
  intro c s _ _ h
  unfold loadIrOp
  split
  · exact K.keeps_refuse c _ h
  · exact K.keeps_done c (K.mark _ (K.setTun_sourceless _ rfl id h))

omit K in
/-- A search begins suspended, and takes a free tuner B at once (R102, R103). -/
theorem tuning_beginSearch (f : Nat) (ha : s.asleep = false) (h : s.TuningSound) : (beginSearch f s).TuningSound := by
  obtain ⟨hs, hv⟩ := tuningSound_iff.mp h
  have asleep_not : ∀ t : State, t.asleep = s.asleep → t.asleep = true → t.tun.search.state = .idle :=
    fun t e ht => absurd (ht.symm.trans (e.trans ha)) (by decide)
  have begun : SourcesSound (modSearch (fun _ =>
      { state := .suspended, frequency := f, phase := .step, count := 0, network := none, added := 0, result := .none }) s) :=
    ⟨hs.wordA, hs.wordB, fun e => (nomatch e), asleep_not _ rfl⟩
  unfold beginSearch
  dsimp only
  split
  · rename_i ho
    refine tuningSound_iff.mpr ⟨begun.searchTakesB (by simp [modSearch]), ?_⟩
    obtain ⟨r, w, ht, -⟩ := searchTune_b (modSearch (fun x => { x with state := .running, count := 0, network := none }) (modSearch (fun _ =>
      { state := .suspended, frequency := f, phase := .step, count := 0, network := none, added := 0, result := .none }) s))
    have hoff := view_off_B h (by rw [ho]; decide)
    intro v hm
    unfold searchTakesB at hm ⊢
    rw [ht] at hm
    have hold := hv v hm
    have hnb := hoff v hm
    rcases hv2 : v.2 with _ | _ | _ <;> rw [hv2] at hold
    · exact (congrArg (fun x : Tun => x.tunerA.owner) ht).trans hold
    · exact absurd hv2 hnb
    · exact (congrArg (fun x : Tun => x.ext.owner) ht).trans hold
  · exact tuningSound_iff.mpr ⟨begun, hv⟩

theorem Bears.keeps_startSearchOp : OpKeeps P startSearchOp := by
  intro c s _ ha h
  unfold startSearchOp
  split
  · exact K.keeps_refuse c _ h
  · split
    · exact K.keeps_refuse c _ h
    · refine K.answers c _ _ _ (K.sources ?_ (tuning_beginSearch _ ha) h)
      unfold beginSearch
      dsimp only
      split
      · exact (step_modSearch _ s).trans (step_searchTakesB _)
      · exact step_modSearch _ s

theorem Bears.keeps_endSearchOp : OpKeeps P endSearchOp := by
  intro c s _ _ h
  unfold endSearchOp
  split
  · exact K.keeps_done c (K.keeps_endSearch _ h)
  · exact K.keeps_refuse c _ h

theorem Bears.keeps_readCueOp : OpKeeps P readCueOp := by
  intro c s _ _ h
  unfold readCueOp
  split
  · exact K.keeps_refuse c _ h
  · exact K.answers c _ _ _ h

theorem Bears.keeps_releaseCueOp : OpKeeps P releaseCueOp := by
  intro c s _ _ h
  unfold releaseCueOp
  split
  · exact K.keeps_refuse c _ h
  · rename_i e rest hring
    refine K.answers c _ _ _ (K.setCue _ (fun hl => ?_) id id h)
    rw [hring, List.length_cons] at hl
    exact (Nat.le_succ _).trans hl

/-! ### The clock's and the scheduler's commands (R130, R133, R136 to R141) -/

theorem Bears.keeps_setClockOp : OpKeeps P setClockOp := by
  intro c s _ _ h
  unfold setClockOp
  split
  · exact K.keeps_refuse c _ h
  · rename_i t ht
    exact K.answers c _ _ _ (K.keeps_applySet (Calendar.parseClock_valid ht) _ h)

theorem Bears.keeps_stageTimerOp : OpKeeps P stageTimerOp := by
  intro c s _ _ h
  unfold stageTimerOp
  split
  · exact K.keeps_refuse c _ h
  · exact K.keeps_done c (K.setSch _ rfl (.inl rfl) h (.refl _))

theorem Bears.keeps_commitIdle (k : Nat) (t : TimerDef) (h : P s) : P (commitIdle k t s) := by
  have armed : P (if (s.timer k).state = .waiting then reassessWatch (modTimer k (fun e =>
      { e with defn := some t, deferred := false, interrupted := false, state := .armed,
               next := t.newOccurrence s.nowSeconds }) s)
      else modTimer k (fun e =>
      { e with defn := some t, deferred := false, interrupted := false, state := .armed,
               next := t.newOccurrence s.nowSeconds }) s) := by
    split
    · exact K.keeps_reassessWatch (K.keeps_modTimer _ _ h)
    · exact K.keeps_modTimer _ _ h
  unfold commitIdle
  dsimp only
  generalize (if (s.timer k).state = .waiting then _ else _ : State) = u at armed
  split
  · exact armed
  · split
    · split
      · exact K.keeps_evalEntry _ armed
      · exact K.keeps_missOccurrence _ _ armed
    · exact K.keeps_evalEntry _ armed

theorem Bears.keeps_relabel (l : Option Label) (h : P s) : P (relabel l s) := by
  have tested : ∀ t, P t → P (if l.isSome then testSessionCue t else t) := fun t ht => by
    split
    · exact K.keeps_testSessionCue ht
    · exact ht
  refine tested _ ?_
  split
  · rename_i hp
    refine K.keeps_labelResume ?_ (K.keeps_modSession _ h (fun _ => id))
    rw [modSession_isSome]
    exact Option.isSome_of_any hp
  · exact K.keeps_modSession _ h (fun _ => id)

theorem Bears.keeps_commitRunning (k : Nat) (t : TimerDef) (h : P s) : P (commitRunning k t s) := by
  refine K.keeps_evalClockStop ?_
  split
  · exact K.keeps_modSession _ (K.keeps_modTimer _ _ h) (fun _ => id)
  · exact K.keeps_relabel _ (K.keeps_modSession _ (K.keeps_modTimer _ _ h) (fun _ => id))

theorem Bears.keeps_commitTimerOp : OpKeeps P commitTimerOp := by
  intro c s _ _ h
  unfold commitTimerOp
  split
  · exact K.keeps_refuse c _ h
  · split
    · exact K.keeps_refuse c _ h
    · exact K.keeps_refuse c _ h
    · refine K.keeps_done c (K.mark _ (K.keeps_reassessWatch ?_))
      split
      · exact K.keeps_commitRunning _ _ (K.setSch _ rfl (.inl rfl) h (.refl _))
      · exact K.keeps_commitIdle _ _ (K.setSch _ rfl (.inl rfl) h (.refl _))

theorem Bears.keeps_readTimerOp : OpKeeps P readTimerOp := by
  intro c s _ _ h
  unfold readTimerOp
  split
  · split
    · exact K.keeps_refuse c _ h
    · split
      · split
        · exact K.keeps_refuse c _ h
        · exact K.answers c _ _ _ h
      · exact K.answers c _ _ _ h
  · exact K.keeps_refuse c _ h

theorem Bears.keeps_clearIdle (k : Nat) (h : P s) : P (clearIdle k s) := by
  unfold clearIdle
  split
  · exact h
  · exact K.mark _ (K.keeps_modTimer _ _ h)

theorem Bears.keeps_clearRunning : OpKeeps P clearRunning := by
  intro c s hid _ h
  unfold clearRunning
  split
  · rename_i hl
    have listed := K.enlists c .sch hid hl h
    exact K.keeps_reassessWatch (K.closes _ (K.keeps_modSession _ (K.addClear (s := enlist c .sch s) c.id hid listed) (fun _ => id)))
  · exact K.keeps_refuse c _ h

theorem Bears.keeps_clearTimerOp : OpKeeps P clearTimerOp := by
  intro c s hid ha h
  unfold clearTimerOp
  split
  · exact K.keeps_refuse c _ h
  · split
    · exact K.keeps_refuse c _ h
    · split
      · exact K.keeps_clearRunning c s hid ha h
      · exact K.keeps_done c (K.keeps_reassessWatch (K.keeps_clearIdle _ h))

/-! ### Cue capture (chapter 7) -/

omit K in
theorem cueRecord_setCueRecord (x : TunerId) (r : CueRecord) (s : State) : (setCueRecord x r s).cueRecord x = r := by
  cases x <;> rfl

theorem Bears.keeps_setCueRecord (x : TunerId) (r : CueRecord) (hr : (s.cueRecord x).age ≤ 125 → r.age ≤ 125) (h : P s) :
    P (setCueRecord x r s) := by
  cases x
  · exact K.setCue _ id hr id h
  · exact K.setCue _ id id hr h

theorem Bears.keeps_appendRing (x : TunerId) (c : Option Nat) (cue : Cue) (h : P s) : P (appendRing x c cue s) := by
  unfold appendRing
  split
  · rename_i hl
    refine K.setCue _ (fun _ => ?_) id id h
    rw [List.length_append, List.length_singleton]
    exact hl
  · exact K.keeps_raise _ h

theorem Bears.keeps_cueToSearch (naming : Bool) (x : TunerId) (cue : Cue) (h : P s) : P (cueToSearch naming x cue s) := by
  unfold cueToSearch
  split
  · rename_i hn
    simp only [State.searchNaming, Bool.and_eq_true, decide_eq_true_eq] at hn
    exact K.keeps_nameFound _ hn.2.1.2 h
  · exact h

theorem Bears.keeps_becomesCurrent (x : TunerId) (cue : Cue) (h : P s) : P (becomesCurrent x cue s) :=
  K.keeps_cueToSearch _ x cue (K.keeps_cueChangeNotice _ cue (K.keeps_appendRing x _ cue (K.keeps_setCueRecord x _ id h)))

theorem Bears.keeps_takeCue (x : TunerId) (cue : Cue) (h : P s) : P (takeCue x cue s) := by
  have taken := K.keeps_setCueRecord x { s.cueRecord x with lastCue := some cue, age := 0 } (fun _ => Nat.zero_le _) h
  unfold takeCue
  dsimp only
  split
  · exact K.keeps_becomesCurrent x cue taken
  · exact taken

theorem Bears.keeps_takeTime (x : TunerId) {t : TimeDecode} (ht : t.at_.valid = true) (h : P s) : P (takeTime x t s) := by
  have taken := K.keeps_setCueRecord x { s.cueRecord x with lastTime := some t } id h
  unfold takeTime
  dsimp only
  split
  · split
    · rename_i l hl
      exact K.keeps_timeCue (localTime_valid t ht l hl) taken
    · exact taken
  · exact taken

theorem Bears.keeps_cueLineTaken (x : TunerId) (kind : Byte) (l : List Byte) (h : P s) : P (cueLineTaken x kind l s) := by
  unfold cueLineTaken
  split
  · split
    · split
      · exact K.keeps_takeCue x _ h
      · exact h
    · split
      · rename_i t ht
        exact K.keeps_takeTime x (Calendar.decodeTime_valid ht) h
      · exact h
  · exact h

theorem Bears.keeps_cueLost (x : TunerId) (h : P s) : P (cueLost x s) := by
  unfold cueLost
  dsimp only
  split
  · exact h
  · exact K.keeps_cueAbsentNotice _ (K.keeps_setCueRecord x _ id h)

theorem Bears.keeps_ageExpires (x : TunerId) (h : P s) : P (ageExpires x s) :=
  K.keeps_cueLost x (K.keeps_setCueRecord x _ id h)

theorem Bears.keeps_cueHeader (x : TunerId) (settling : Bool) (h : P s) : P (cueHeader x settling s) := by
  have counted := K.keeps_setCueRecord x { s.cueRecord x with taking := true, age := min 125 ((s.cueRecord x).age + 1) }
    (fun _ => Nat.min_le_left ..) h
  unfold cueHeader
  dsimp only
  split
  · exact h
  · split
    · exact K.keeps_ageExpires x counted
    · exact counted

theorem Bears.keeps_tunerHeader (x : TunerId) (settling strong : Bool) (a : Int) (h : P s) :
    P (tunerHeader x settling strong a s) := by
  unfold tunerHeader
  dsimp only
  split
  · exact K.keeps_sourceReady (K.keeps_tunHeader x settling strong a h)
  · exact K.keeps_tunHeader x settling strong a h

theorem Bears.keeps_receiveHeader (x : TunerId) (strong : Bool) (a : Int) (h : P s) : P (receiveHeader x strong a s) := by
  have tunFirst := fun settling => K.keeps_cueHeader x settling (K.keeps_tunerHeader x settling strong a h)
  unfold receiveHeader
  dsimp only
  split
  · split
    · exact K.choose (K.keeps_tunerHeader x _ strong a (K.keeps_cueHeader x _ h))
    · exact K.choose (tunFirst _)
  · exact tunFirst _

theorem Bears.keeps_cueReset (h : P s) : P (cueReset s) := by
  have reset_one : ∀ x t, P t → P (cueResetTuner x t) := fun x t ht =>
    K.keeps_cueLost x (K.keeps_setCueRecord x _ (fun _ => Nat.zero_le _) ht)
  exact reset_one _ _ (reset_one _ _ (K.setCue _ (fun _ => Nat.zero_le _) id id h))

/-! ### The supply (R193 to R195) -/

omit K in
/-- A session's states are threaded ones, which a failure leaves for STOPPED (R25). -/
theorem failedState (st : TState) : (if st.isThreaded then TState.stopped else st).isSession = false := by
  cases st <;> rfl

theorem Bears.keeps_trcFails (h : P s) : P (trcFails s) := by
  have rested : ∀ x : Trc, x.held = none → x.heldStart = none →
      x.state = (if s.trc.state.isThreaded then .stopped else s.trc.state) →
      P ((enter (if s.trc.state.isThreaded then .stopped else s.trc.state) .idle (cutRead s)).setTrc x) :=
    fun x held start state =>
      K.setTrc x ⟨.inr held, .inl state, .inr start⟩ (K.keeps_enter _ _ (K.keeps_cutRead h) (failedState _))
  unfold trcFails
  dsimp only
  split
  · exact K.keeps_positionUnknown (rested _ rfl rfl rfl)
  · exact rested _ rfl rfl rfl

omit K in
theorem trcFails_rests (s : State) : (trcFails s).trc.state.isSession = false ∧ (trcFails s).trc.heldStart = none := by
  unfold trcFails
  dsimp only
  split
  · exact ⟨failedState _, rfl⟩
  · exact ⟨failedState _, rfl⟩

theorem Bears.keeps_tcbCut (h : P s) : P (tcbCut s) := K.setTcb _ ⟨id, id, rfl⟩ h

theorem Bears.keeps_dirCut (h : P s) : P (dirCut s) := K.setDir _ id h

theorem Bears.keeps_schFails (hs : s.trc.state.isSession = false) (hh : s.trc.heldStart = none) (h : P s) :
    P (schFails s) :=
  K.setSch _ rfl (.inr rfl) (K.closesByMains hs hh (K.setSch _ rfl (.inl rfl) h (.refl _))) (.refl _)

/-- With no search running, everything at the sources can be cleared (R99 to R101). -/
theorem Bears.keeps_clearSources (hr : s.tun.search.state = .idle) (h : P s) : P (clearSources s) :=
  K.sources (step_clearSources s) (tuning_clearSources (by rw [hr]; decide)) h

/-- While the part is asleep no search runs (R111), and everything at the sources can be cleared. -/
theorem Bears.keeps_clearSources_asleep (ha : s.asleep = true) (h : P s) : P (clearSources s) :=
  K.sources (step_clearSources s) (fun ht => by
    have idle := (tuningSound_iff.mp ht).1.asleep ha
    exact tuning_clearSources (by rw [idle]; decide) ht) h

omit K in
/-- An operation of the search record that stops the search, tells nothing of the supply and keeps the tuning. -/
structure StopsSearch (f : State → State) : Prop where
  step (s : State) : SourceStep s (f s)
  tuning (s : State) : s.TuningSound → (f s).TuningSound
  idle (s : State) : (f s).tun.search.state = .idle
  commutes (s : State) (x : Sto) : f (s.setSto x) = (f s).setSto x

omit K in
theorem stopsSearch_fails : StopsSearch searchFails where
  step _ := ⟨rfl, rfl, rfl, .inl rfl, .inl rfl⟩
  tuning s h := by
    obtain ⟨hs, hv⟩ := tuningSound_iff.mp h
    exact tuningSound_iff.mpr ⟨⟨hs.wordA, hs.wordB, fun e => (nomatch e), fun _ => rfl⟩, hv⟩
  idle _ := rfl
  commutes _ _ := rfl

omit K in
theorem endSearch_idle (r : SearchResult) (s : State) : (endSearch r s).tun.search.state = .idle := by
  unfold endSearch
  dsimp only
  split <;> rfl

omit K in
theorem stopsSearch_cancelled : StopsSearch searchCancelled where
  step := step_searchCancelled
  tuning s h := by
    unfold searchCancelled
    split
    · exact tuning_endSearch _ h
    · exact h
  idle s := by
    unfold searchCancelled
    split
    · exact endSearch_idle _ s
    · rename_i hr
      simpa [Search.isRunning] using hr
  commutes s x := by
    by_cases hr : s.tun.search.isRunning = true
    · simp only [searchCancelled, State.setSto_tun, hr, if_true]
      by_cases hrun : s.tun.search.state = .running
      · simp only [endSearch, State.setSto_tun, hrun, decide_true, if_true]
        rfl
      · simp only [endSearch, State.setSto_tun, hrun, decide_false, Bool.false_eq_true, if_false]
        rfl
    · simp only [searchCancelled, State.setSto_tun, hr, if_false, Bool.false_eq_true]

omit K in
/-- The blocks that fail before the sources do not see the supply. -/
theorem trcFails_setSto (s : State) (x : Sto) : trcFails (s.setSto x) = (trcFails s).setSto x := by
  have cut : cutRead (s.setSto x) = (cutRead s).setSto x := by
    by_cases hd : s.trc.state = .dirRead
    · simp only [cutRead, State.setSto_trc, hd, if_true]
      rfl
    · simp only [cutRead, State.setSto_trc, hd, if_false]
  unfold trcFails
  rw [cut]
  cases hm : s.trc.state.isMotion <;> simp only [State.setSto_trc, hm, if_true, if_false, Bool.false_eq_true] <;> rfl

/-- The blocks fail with the part asleep (R193, R194): the search stops before the sources are cleared. -/
theorem Bears.keeps_failBlocks {search : State → State} (hsearch : StopsSearch search) (x : Sto)
    (hp : x.pendingWrites = s.sto.pendingWrites) (hw : x.writing = s.sto.writing) (h : P s) :
    P (failBlocks search (s.setSto x)) := by
  have stopped : P (search (tcbCut (trcFails s))) :=
    K.sources (hsearch.step _) (hsearch.tuning _) (K.keeps_tcbCut (K.keeps_trcFails h))
  have sto_kept : (search (tcbCut (trcFails s))).sto = s.sto := by
    rw [(hsearch.step _).sto]
    have unseen := congrArg State.sto (trcFails_setSto s s.sto)
    exact unseen
  have failed : P (search (tcbCut (trcFails (s.setSto x)))) := by
    have commuted : search (tcbCut (trcFails (s.setSto x))) = (search (tcbCut (trcFails s))).setSto x := by
      rw [trcFails_setSto]
      exact hsearch.commutes (tcbCut (trcFails s)) x
    rw [commuted]
    exact K.setSto x (hp.trans (congrArg Sto.pendingWrites sto_kept).symm)
      (hw.trans (congrArg Sto.writing sto_kept).symm) (fun _ => .inr (hsearch.idle _)) stopped
  have cleared := K.keeps_clearSources (hsearch.idle _) failed
  have rests : (clearSources (search (tcbCut (trcFails (s.setSto x))))).trc = (trcFails (s.setSto x)).trc :=
    (step_clearSources _).trc.trans (hsearch.step _).trc
  obtain ⟨state, start⟩ := trcFails_rests (s.setSto x)
  rw [← rests] at state start
  have cued := K.setCue CueBlock.reset (fun _ => Nat.zero_le _) (fun _ => Nat.zero_le _) (fun _ => Nat.zero_le _) cleared
  refine K.setSto _ rfl rfl .inl (K.abandon (K.dropped (K.setLpt _ (K.keeps_dirCut (K.keeps_schFails ?_ ?_ cued)))))
  · exact state
  · exact start

theorem Bears.keeps_mainsFails (h : P s) : P (mainsFails s) := by
  unfold mainsFails
  dsimp only
  split
  · have stopped : P (searchFails s) := K.sources (stopsSearch_fails.step s) (stopsSearch_fails.tuning s) h
    exact K.setSto (s := searchFails s) _ rfl rfl (fun _ => .inr rfl) stopped
  · exact K.keeps_failBlocks stopsSearch_fails _ rfl rfl h

theorem Bears.keeps_resetAsserts (h : P s) : P (resetAsserts s) := by
  unfold resetAsserts
  dsimp only
  split
  · rename_i hb
    exact K.setSto _ rfl rfl (fun _ => .inl (by simp [State.asleep, hb])) h
  · exact K.keeps_failBlocks stopsSearch_cancelled _ rfl rfl h

omit K in
/-- The switches give no state of a session (R25). -/
theorem startState_rests (p : Pins) : (startState p).1.isSession = false := by
  unfold startState
  split
  · rfl
  · rfl
  · split
    · split <;> rfl
    · rfl

/-- The blocks return from sleep (R194): the sources are cleared while no search runs. -/
theorem Bears.keeps_returnBlocks (x : Sto) (hp : x.pendingWrites = s.sto.pendingWrites) (hw : x.writing = s.sto.writing)
    (ha : s.asleep = true) (h : P s) : P (returnBlocks (s.setSto x)) := by
  have cleared := K.keeps_clearSources_asleep ha h
  have asleep_cleared : (clearSources s).asleep = true := (step_clearSources s).asleep.trans ha
  have woken : P ((clearSources s).setSto x) := K.setSto x hp hw (fun _ => .inl asleep_cleared) cleared
  have started := K.keeps_dirCut (K.keeps_tcbCut
    (K.setTrc (Trc.started s.pins s.trc.endLatch s.trc.speedSetting) ⟨.inr rfl, .inr (startState_rests _), .inr rfl⟩ woken))
  have commuted : dirCut (tcbCut (((clearSources s).setSto x).setTrc (Trc.started s.pins s.trc.endLatch s.trc.speedSetting))) =
      clearSources (dirCut (tcbCut ((s.setSto x).setTrc (Trc.started s.pins s.trc.endLatch s.trc.speedSetting)))) := by
    simp only [clearSources, clearTuner_eq]
    rfl
  rw [commuted] at started
  have dropped := K.dropped (K.setLpt Lpt.reset (K.setCue CueBlock.reset (fun _ => Nat.zero_le _)
    (fun _ => Nat.zero_le _) (fun _ => Nat.zero_le _) started))
  exact K.setSch _ rfl (.inr rfl) dropped (.refl _)

omit K in
theorem tuning_searchReturns (h : s.TuningSound) : (searchReturns s).TuningSound := by
  obtain ⟨hs, hv⟩ := tuningSound_iff.mp h
  unfold searchReturns
  split
  · exact tuningSound_iff.mpr ⟨⟨hs.wordA, hs.wordB, fun e => (nomatch e), fun _ => rfl⟩, hv⟩
  · exact tuningSound_iff.mpr ⟨⟨hs.wordA, hs.wordB, fun e => (nomatch e), fun _ => rfl⟩, hv⟩

theorem Bears.keeps_warmReturn (ha : s.asleep = true) (h : P s) : P (warmReturn s) :=
  K.keeps_evaluateTable (K.start (K.keeps_raise _ (K.sources (step_searchReturns _) tuning_searchReturns
    (K.keeps_returnBlocks _ rfl rfl ha h))))

theorem Bears.keeps_mainsReturns (hb : s.sto.power = .backup) (h : P s) : P (mainsReturns s) := by
  have ha : s.asleep = true := by simp [State.asleep, hb]
  unfold mainsReturns
  split
  · exact K.setSto _ rfl rfl (fun _ => .inl ha) h
  · split
    · exact K.keeps_warmReturn ha h
    · exact K.cold h

theorem Bears.keeps_resetReleases (hr : s.sto.resetAsserted = true) (h : P s) : P (resetReleases s) := by
  have ha : s.asleep = true := by simp [State.asleep, hr]
  have released : P (s.setSto { s.sto with resetAsserted := false }) := K.setSto _ rfl rfl (fun _ => .inl ha) h
  unfold resetReleases
  dsimp only
  split
  · exact released
  · split
    · exact K.keeps_evaluateTable (K.start (K.keeps_returnBlocks _ rfl rfl ha h))
    · exact K.cold released

theorem Bears.keeps_trcStandby (h : P s) : P (trcStandby s) := by
  unfold trcStandby
  split
  · exact K.keeps_completeHeld _ _ (K.keeps_stopTape (K.keeps_cutRead h))
  · exact h

/-- A power state other than BACKUP does not put the part to sleep. -/
theorem Bears.keeps_power {p : PowerState} (hp : p ≠ .backup) (h : P s) : P (s.setSto { s.sto with power := p }) :=
  K.setSto _ rfl rfl (fun ha => .inl (by simpa [State.asleep, hp] using Or.inr ha)) h

/-! ### Options, power and the unit resets (R184 to R186, R191, R192) -/

theorem Bears.keeps_optionActs (i : Nat) (h : P s) : P (optionActs i s) := by
  unfold optionActs
  split
  · exact K.setClk _ (fun hc => hc) h
  · split
    · exact K.keeps_mainsFails h
    · exact h

theorem Bears.keeps_setOptionOp : OpKeeps P setOptionOp := by
  intro c s _ _ h
  unfold setOptionOp
  split
  · split
    · exact K.keeps_refuse c _ h
    · refine K.keeps_optionActs _ (K.keeps_done c ?_)
      split
      · exact K.setSto _ rfl rfl .inl h
      · exact K.mark _ (K.setSto _ rfl rfl .inl h)
  · exact K.keeps_refuse c _ h

theorem Bears.keeps_powerOp : OpKeeps P powerOp := by
  intro c s _ _ h
  unfold powerOp
  split
  · exact K.keeps_done c (K.keeps_power (by decide) h)
  · split
    · split
      · exact K.keeps_done c h
      · split
        · exact K.keeps_refuse c _ h
        · exact K.keeps_done c (K.keeps_power (by decide) (K.keeps_releaseView (K.keeps_trcStandby h)))
    · exact K.keeps_refuse c _ h

theorem Bears.keeps_acknowledgeOp : OpKeeps P acknowledgeOp := by
  intro c s _ _ h
  unfold acknowledgeOp
  split
  · exact K.keeps_refuse c _ h
  · exact K.answers c _ _ _ (K.setSticky _ h)

theorem Bears.keeps_cancelOwner (o : OwnerBlock) (h : P s) : P (cancelOwner o s) :=
  keeps_foldl (fun _ (f : InFlight) ht => K.completes f.id _ _ ht) _ h

theorem Bears.keeps_trcReset (h : P s) : P (trcReset s) :=
  K.keeps_reportClose _ (K.setTrc _ ⟨.inr rfl, .inl rfl, .inr rfl⟩ (K.keeps_stateBySwitches (K.keeps_cutRead h)))

theorem Bears.keeps_tunReset (h : P s) : P (tunReset s) := by
  have cleared : P (clearSources (searchCancelled s)) := K.keeps_clearSources (stopsSearch_cancelled.idle s)
    (K.sources (stopsSearch_cancelled.step s) (stopsSearch_cancelled.tuning s) h)
  have watched : ∀ (b : Bool) t, P t → P (if b then watchLost t else t) := fun b t ht => by
    split
    · exact K.keeps_watchLost ht
    · exact ht
  refine watched _ _ ?_
  split
  · exact K.keeps_sourceLost cleared
  · exact cleared

theorem Bears.keeps_resetUnitOp : OpKeeps P resetUnitOp := by
  intro c s hid _ h
  unfold resetUnitOp
  split
  · exact K.keeps_trcReset (K.keeps_done c (K.keeps_cancelOwner _ h))
  · exact K.keeps_tunReset (K.keeps_done c h)
  · exact K.keeps_schReset (K.keeps_done c (K.keeps_cancelOwner _ h))
  · exact K.keeps_cueReset (K.keeps_done c h)
  · exact K.keeps_done c (K.emptied c hid h)
  · exact K.keeps_refuse c _ h

/-- The operation of every command code, the codes that name no command included (R175, R177). -/
theorem Bears.keeps_commandOp (code : Nat) : OpKeeps P (commandOp code) := by
  unfold commandOp
  split
  · exact K.keeps_trcCommand (K.keeps_noArgs K.keeps_playOp)
  · exact K.keeps_trcCommand (K.keeps_noArgs K.keeps_recordOp)
  · exact K.keeps_trcCommand (K.keeps_noArgs K.keeps_pauseOp)
  · exact K.keeps_trcCommand (K.keeps_noArgs K.keeps_stopOp)
  · exact K.keeps_trcCommand (K.keeps_noArgs (K.keeps_windOp _ _ rfl))
  · exact K.keeps_trcCommand (K.keeps_noArgs (K.keeps_windOp _ _ rfl))
  · exact K.keeps_trcCommand K.keeps_pictureOp
  · exact K.keeps_trcCommand K.keeps_locateCommand
  · exact K.keeps_trcCommand K.keeps_seekIndexOp
  · exact K.keeps_trcCommand K.keeps_seekEntryOp
  · exact K.keeps_trcCommand (K.keeps_noArgs K.keeps_ejectOp)
  · exact K.keeps_owned K.keeps_setSpeedOp
  · exact K.keeps_owned (K.keeps_noArgs K.keeps_zeroCounterOp)
  · exact K.keeps_owned K.keeps_stageProfileOp
  · exact K.keeps_owned (K.keeps_noArgs K.keeps_commitProfileOp)
  · exact K.keeps_owned K.keeps_readProfileOp
  · exact K.keeps_owned K.keeps_setProfileOp
  · exact K.keeps_owned K.keeps_readEntryOp
  · exact K.keeps_owned K.keeps_deleteEntryOp
  · exact K.keeps_owned K.keeps_viewOp
  · exact K.keeps_owned K.keeps_stageChannelOp
  · exact K.keeps_owned K.keeps_commitChannelOp
  · exact K.keeps_owned K.keeps_clearChannelOp
  · exact K.keeps_owned K.keeps_readChannelOp
  · exact K.keeps_owned K.keeps_loadIrOp
  · exact K.keeps_owned K.keeps_startSearchOp
  · exact K.keeps_owned (K.keeps_noArgs K.keeps_endSearchOp)
  · exact K.keeps_owned (K.keeps_noArgs fun c _ _ _ => K.answers c _ _ _)
  · exact K.keeps_owned (K.keeps_noArgs K.keeps_readCueOp)
  · exact K.keeps_owned (K.keeps_noArgs K.keeps_releaseCueOp)
  · exact K.keeps_owned K.keeps_setClockOp
  · exact K.keeps_owned (K.keeps_noArgs fun c _ _ _ => K.answers c _ _ _)
  · exact K.keeps_owned K.keeps_stageTimerOp
  · exact K.keeps_owned K.keeps_commitTimerOp
  · exact K.keeps_owned K.keeps_readTimerOp
  · exact K.keeps_owned K.keeps_clearTimerOp
  · exact K.keeps_owned K.keeps_setOptionOp
  · exact K.keeps_owned K.keeps_powerOp
  · exact K.keeps_acknowledgeOp
  · exact K.keeps_resetUnitOp
  · exact fun c _ _ _ => K.keeps_refuse c _

end Sys2Proof.Proofs.Invariant
end

section
/-! PROOFS. The line port, the events and a whole step keep what bears the changes they are made of (chapters 1 to 12). -/

namespace Sys2Proof.Proofs.Invariant
open Sys2Proof.Machine

variable {P : State → Prop} (K : Bears P) {s : State}
include K

/-! ### The line port (chapter 4) and the command lines (R174, R175) -/

theorem Bears.keeps_setField (i : Inbound) (f : FieldRecord) (h : P s) : P (setField i f s) := by
  cases i <;> exact K.setLpt _ h

theorem Bears.keeps_beginReplyField (p : Parity) (h : P s) : P (beginReplyField p s) := K.setLpt _ (K.dropReady 2 h)

theorem Bears.keeps_beginMon (p : Parity) (grade : Nat) (i : Option Inbound) (h : P s) : P (beginMon p grade i s) :=
  K.keeps_beginReplyField p (K.setLpt _ h)

theorem Bears.keeps_beginRec (p : Parity) (grade : Nat) (i : Option Inbound) (h : P s) : P (beginRec p grade i s) :=
  K.setLpt _ h

theorem Bears.keeps_outboundFields (i : Inbound) (hd : Header) (real : Bool) (h : P s) : P (outboundFields i hd real s) := by
  have finished : P (finishFields i s) := K.setLpt _ h
  have mon_begun : ∀ g src, P (if (finishFields i s).monChoice = .stream i ∧ ¬ (finishFields i s).monSending
      then beginMon hd.parity g src (finishFields i s) else finishFields i s) := fun g src => by
    split
    · exact K.keeps_beginMon _ _ _ finished
    · exact finished
  have rec_begun : ∀ g src t, P t →
      P (if t.recChoice = .stream i ∧ ¬ t.recSending then beginRec hd.parity g src t else t) := fun g src t ht => by
    split
    · exact K.keeps_beginRec _ _ _ ht
    · exact ht
  exact rec_begun _ _ _ (mon_begun _ _)

theorem Bears.keeps_endDirWrite (h : P s) : P (endDirWrite s) := by
  unfold endDirWrite
  split
  · exact K.keeps_dirWriteCompletes h
  · exact h

theorem Bears.keeps_generateBlank (out : Outbound) (h : P s) : P (generateBlank out s) := by
  unfold generateBlank
  split
  · split
    · exact h
    · exact K.keeps_beginMon _ _ _ h
  · split
    · exact h
    · exact K.keeps_beginRec _ _ _ (K.keeps_endDirWrite h)

theorem Bears.keeps_newCtrlField (h : P s) : P (newCtrlField s) := by
  unfold newCtrlField
  dsimp only
  split
  · exact K.keeps_raise _ (K.setLines _ _ h)
  · exact K.setLines _ _ h

theorem Bears.keeps_handOn (i : Inbound) (hd : Header) (real : Bool) (h : P s) : P (handOn i hd real s) := by
  cases i
  · exact K.keeps_receiveHeader _ _ _ h
  · exact K.keeps_receiveHeader _ _ _ h
  · exact h
  · exact h
  · exact K.keeps_newCtrlField h

theorem Bears.keeps_fieldHeader (i : Inbound) (p : Parity) (grade : Nat) (a : Int) (h : P s) :
    P (fieldHeader i p grade a s) :=
  K.keeps_outboundFields _ _ _ (K.keeps_handOn _ _ _ (K.keeps_setField _ _ h))

theorem Bears.keeps_substituteField (i : Inbound) (h : P s) : P (substituteField i s) :=
  K.keeps_outboundFields _ _ _ (K.keeps_handOn _ _ _ (K.keeps_setField _ _ h))

theorem Bears.keeps_reportLine (h : P s) : P (reportLine s) := K.keeps_raise _ (K.setLines _ _ h)

theorem Bears.keeps_checkCommand (tag code length check : Byte) (args : List Byte) (h : P s) :
    P (checkCommand tag code length check args s) := by
  unfold checkCommand
  split
  · exact K.keeps_takeCommand _ _ _ (K.keeps_commandOp _) h
  · exact K.keeps_raise _ h

theorem Bears.keeps_firstLine (tag code length check : Byte) (l : List Byte) (h : P s) :
    P (firstLine tag code length check l s) := by
  unfold firstLine
  split
  · exact K.keeps_checkCommand _ _ _ _ _ h
  · split
    · exact K.setLines _ _ h
    · exact K.keeps_raise _ h

theorem Bears.keeps_commandLine (tag code length check : Byte) (l : List Byte) (h : P s) :
    P (commandLine tag code length check l s) := by
  have counted : P (s.setClu { s.clu with lineCount := s.clu.lineCount + 1, pendingLine := none }) := K.setLines _ _ h
  unfold commandLine
  dsimp only
  split
  · exact K.keeps_raise _ counted
  · refine K.keeps_firstLine _ _ _ _ _ ?_
    split
    · exact K.keeps_raise _ counted
    · exact counted

theorem Bears.keeps_continuationLine (l : List Byte) (h : P s) : P (continuationLine l s) := by
  have counted : P (s.setClu { s.clu with lineCount := s.clu.lineCount + 1, pendingLine := none }) := K.setLines _ _ h
  unfold continuationLine
  dsimp only
  split
  · exact K.keeps_raise _ counted
  · split
    · exact K.keeps_raise _ counted
    · exact K.keeps_checkCommand _ _ _ _ _ counted

theorem Bears.keeps_ctrlData (l : List Byte) (h : P s) : P (ctrlData l s) := by
  unfold ctrlData
  dsimp only
  split
  · exact K.keeps_commandLine _ _ _ _ _ h
  · split
    · exact K.keeps_continuationLine _ h
    · exact K.keeps_reportLine h

theorem Bears.keeps_tunerData (x : TunerId) (line : Nat) (l : List Byte) (h : P s) : P (tunerData x line l s) := by
  unfold tunerData
  split
  · exact K.keeps_cueLineTaken _ _ _ h
  · exact h

theorem Bears.keeps_playData (line : Nat) (l : List Byte) (h : P s) : P (playData line l s) := by
  unfold playData
  split
  · split
    · exact K.keeps_fileLine _ _ _ _ h
    · exact h
  · exact h

theorem Bears.keeps_monLine (i : Inbound) (line : Nat) (p : Payload) (h : P s) : P (monLine i line p s) := by
  unfold monLine
  split
  · exact h
  · split
    · exact K.setLpt _ h
    · exact h

theorem Bears.keeps_recLine (i : Inbound) (line : Nat) (p : Payload) (h : P s) : P (recLine i line p s) := by
  unfold recLine
  split
  · exact h
  · split
    · exact K.setLpt _ h
    · exact h

theorem Bears.keeps_handLine (i : Inbound) (line : Nat) (p : Payload) (h : P s) : P (handLine i line p s) := by
  unfold handLine
  split
  · split
    · exact K.keeps_reportLine h
    · exact h
  · cases i
    · exact K.keeps_tunerData _ _ _ h
    · exact K.keeps_tunerData _ _ _ h
    · exact h
    · exact K.keeps_playData _ _ h
    · exact K.keeps_ctrlData _ h

theorem Bears.keeps_linePacket (i : Inbound) (line : Nat) (p : Payload) (h : P s) : P (linePacket i line p s) := by
  have field_set := K.keeps_setField i { s.lpt.field i with lastLine := some line } h
  unfold linePacket
  dsimp only
  split
  · unfold lineTaken
    split
    · exact K.keeps_handLine _ _ _ (K.keeps_recLine _ _ _ (K.keeps_monLine _ _ _ field_set))
    · split
      · exact K.keeps_reportLine field_set
      · exact field_set
  · split
    · exact K.keeps_reportLine h
    · exact h

/-! ### The events of the switches, sensors, pulses and motors (chapters 1 and 2) -/

theorem Bears.keeps_cassetteMoves (was pos : CassettePos) (h : P s) : P (cassetteMoves was pos s) := by
  unfold cassetteMoves
  split
  · exact K.keeps_newCassette (K.keeps_beginLoading h)
  · exact K.keeps_newCassette (K.keeps_beginLoading h)
  · exact K.keeps_enter _ _ h rfl
  · exact h
  · exact h
  · split
    · split
      · exact K.keeps_completeHeld _ _ (K.keeps_enterEjected h)
      · exact h
    · split
      · exact K.keeps_faultWith _ _ h
      · exact h

theorem Bears.keeps_threadedMoves (closed : Bool) (h : P s) : P (threadedMoves closed s) := by
  unfold threadedMoves
  split
  · split
    · exact K.keeps_threadingEnds h
    · split
      · exact K.keeps_positionUnknown (K.keeps_enter _ _ h rfl)
      · exact h
  · split
    · exact K.keeps_faultWith _ _ h
    · exact h

theorem Bears.keeps_unthreadedMoves (closed : Bool) (h : P s) : P (unthreadedMoves closed s) := by
  unfold unthreadedMoves
  split
  · split
    · exact K.keeps_beginPushOut h
    · exact K.keeps_dewUnthreaded h
    · exact h
  · exact h

theorem Bears.keeps_leaveLeader (h : P s) : P (leaveLeader s) := by
  have exact_zero := K.keeps_exactAtZero h
  unfold leaveLeader
  dsimp only
  split
  · exact K.keeps_startBlankTest (K.setTrc _ (.same rfl rfl rfl) exact_zero)
  · exact K.keeps_afterLeader exact_zero
  · exact K.keeps_leaveLeaderToWrite exact_zero
  · exact exact_zero

theorem Bears.keeps_dewActs (h : P s) : P (dewActs s) := by
  unfold dewActs
  split
  · exact K.keeps_dewStop h
  · split
    · exact K.keeps_runUnthreading _ (K.setTrc _ (.same rfl rfl rfl) h)
    · exact h

theorem Bears.keeps_takeMeasurement (e : Nat) (h : P s) : P (takeMeasurement e s) := by
  refine K.keeps_evalNearEnd (K.keeps_estimateUpdate (K.keeps_evalNearEnd (K.setTcb _ ⟨id, fun _ => ?_, rfl⟩ h)))
  show (appendHistory s.tcb.history e).length ≤ 8
  unfold appendHistory
  split
  · rw [List.length_append, List.length_singleton]
    assumption
  · rw [List.length_append, List.length_singleton, List.length_drop]
    omega

omit K in
theorem takeUpPulse_kept (t : Tcb) (ms : Nat) : TcbKept t (t.takeUpPulse ms) := by
  unfold Tcb.takeUpPulse
  split
  · exact .same rfl rfl rfl rfl rfl
  · exact .same rfl rfl rfl rfl rfl

omit K in
theorem supplyPulse_kept (t : Tcb) (ms : Nat) : TcbKept t (t.supplyPulse ms) := by
  unfold Tcb.supplyPulse
  split
  · exact .same rfl rfl rfl rfl rfl
  · exact .same rfl rfl rfl rfl rfl

theorem Bears.keeps_takeUpPulse (ms : Nat) (h : P s) : P (takeUpPulse ms s) := by
  have timed : P ((s.setTrc { s.trc with takeUpWatch := restartWatch s.trc.takeUpWatch }).setTcb (s.tcb.takeUpPulse ms)) :=
    K.setTcb _ (takeUpPulse_kept s.tcb ms) (K.setTrc _ (.same rfl rfl rfl) h)
  unfold takeUpPulse
  dsimp only
  split
  · split
    · exact K.keeps_takeMeasurement _ timed
    · exact timed
  · exact timed

theorem Bears.keeps_servoLocks (h : P s) : P (servoLocks s) := by
  have locked : P (s.setTrc { s.trc with servoLocked := true }) := K.setTrc _ (.same rfl rfl rfl) h
  unfold servoLocks
  dsimp only
  split
  case h_1 =>
    split
    · split
      · exact K.keeps_completeHeld _ _ (K.setTrc _ (.same rfl rfl rfl) locked)
      · exact K.setTrc _ (.same rfl rfl rfl) locked
    · exact locked
  case h_2 => exact K.setTrc _ (.same rfl rfl rfl) locked
  case h_3 =>
    rename_i hs
    split
    · exact K.setTrc _ (.same rfl rfl rfl) (K.keeps_enterRecord (by show s.trc.state.isSession = true; rw [hs]; rfl) locked)
    · exact locked
  all_goals exact locked

theorem Bears.keeps_motionSteady (h : P s) : P (motionSteady s) := by
  have reached : P (s.setTrc { s.trc with steadyAwaited := false }) := K.setTrc _ (.same rfl rfl rfl) h
  have completed : ∀ t, P t → P (if t.holds (steadyCodes s.trc.state) then completeHeld .done .none t else t) :=
    fun t ht => by
      split
      · exact K.keeps_completeHeld _ _ ht
      · exact ht
  unfold motionSteady
  split
  · refine completed _ ?_
    split
    · exact K.keeps_openWindow reached
    · exact reached
  · exact h

/-! ### The limits and counts (chapters 1 to 7, 10) -/

theorem Bears.keeps_pauseExpires (h : P s) : P (pauseExpires s) := by
  have stopped := K.keeps_stopTape h
  have cleared : P ((stopTape s).setTrc { (stopTape s).trc with pausePoint := none }) := K.setTrc _ (.same rfl rfl rfl) stopped
  unfold pauseExpires
  dsimp only
  split
  · split
    · exact K.closes _ cleared
    · exact cleared
  · exact stopped

theorem Bears.keeps_lockupFails (h : P s) : P (lockupFails s) :=
  K.closes _ (K.keeps_completeHeld _ _ (K.keeps_stopTape h))

theorem Bears.keeps_locateReached (h : P s) : P (locateReached s) := by
  unfold locateReached
  split
  · split
    · exact K.keeps_targetReached _ h
    · exact h
  · exact h

theorem Bears.keeps_settleExpires (x : TunerId) (h : P s) : P (settleExpires x s).1 := K.keeps_setSettling x .none h

theorem Bears.keeps_settleRunsOut (x : TunerId) (h : P s) : P (settleRunsOut x s) := by
  unfold settleRunsOut
  split
  · dsimp only
    split
    · exact K.keeps_sourceReady (K.keeps_settleExpires x h)
    · exact K.keeps_settleExpires x h
  · exact h

theorem Bears.keeps_irKeyComplete (h : P s) : P (irKeyComplete s) := by
  unfold irKeyComplete
  split
  · exact K.keeps_irDone (K.keeps_keyEnds h)
  · exact K.keeps_keyEnds h

omit K in
theorem running_of_limitDue {ph : SearchPhase} (h : s.searchLimitDue ph = true) : s.tun.search.state = .running := by
  exact (of_decide_eq_true h).1

theorem Bears.keeps_lossExpires (h : P s) : P (lossExpires s) := K.keeps_evalCueLoss (K.keeps_modSession _ h (fun _ => id))

/-! ### A step -/

omit K in
/-- An event acts only while the part is awake. -/
theorem keeps_awake {f : State → State} (hf : P s → P (f s)) (h : P s) : P (awake f s) := by
  unfold awake
  split
  · exact h
  · exact hf h

omit K in
/-- A row that acts under a condition, as a timer's while the timer runs or a count's at its end (log 2). -/
theorem keeps_when {c : Prop} [Decidable c] {t : State} (ht : c → P s → P t) (h : P s) : P (if c then t else s) := by
  split
  · exact ht ‹c› h
  · exact h

theorem Bears.keeps_resetInputAssert (h : P s) {t : State} (ht : execResetInputAssert s = .next t) : P t := by
  obtain rfl := Host.Outcome.next.inj ht
  split
  · exact h
  · exact K.keeps_resetAsserts h

theorem Bears.keeps_mainsFailure (mv : Nat) (h : P s) {t : State} (ht : execMainsFailure mv s = .next t) : P t := by
  obtain rfl := Host.Outcome.next.inj ht
  exact keeps_when (fun _ => K.keeps_mainsFails) (K.setPins _ h)

theorem Bears.keeps_mainsReturn (mv : Nat) (h : P s) {t : State} (ht : execMainsReturn mv s = .next t) : P t := by
  obtain rfl := Host.Outcome.next.inj ht
  exact keeps_when (fun hc => K.keeps_mainsReturns hc.2) (K.setPins _ h)

theorem Bears.keeps_storeReadDone (l : Option (List Byte)) (h : P s) {t : State} (ht : execStoreReadDone l s = .next t) :
    P t := by
  obtain rfl := Host.Outcome.next.inj ht
  refine keeps_awake (fun h => ?_) h
  split
  · exact h
  · exact K.keeps_readDone _ l h

/-- What a row of the table does keeps the predicate. -/
theorem Bears.keeps_exec (i : Instr) (h : P s) {t : State} (ht : exec i s = .next t) : P t := by
  have command : ∀ (tag : Byte) (args : List Byte) (code : Nat),
      P (takeCommand tag code args (commandOp code) s) := fun tag args code =>
    K.keeps_takeCommand tag code args (K.keeps_commandOp code) h
  cases i
  case mainsFailure mv => exact K.keeps_mainsFailure mv h ht
  case mainsReturn mv => exact K.keeps_mainsReturn mv h ht
  case storeReadDone l => exact K.keeps_storeReadDone l h ht
  case resetInputAssert => exact K.keeps_resetInputAssert h ht
  all_goals obtain rfl := Host.Outcome.next.inj ht
  case play tag args => exact command tag args 1
  case record tag args => exact command tag args 2
  case pause tag args => exact command tag args 3
  case stop tag args => exact command tag args 4
  case windForward tag args => exact command tag args 5
  case windBack tag args => exact command tag args 6
  case pictureSearch tag args => exact command tag args 7
  case locate tag args => exact command tag args 8
  case seekIndex tag args => exact command tag args 9
  case seekEntry tag args => exact command tag args 10
  case eject tag args => exact command tag args 11
  case setSpeed tag args => exact command tag args 12
  case zeroCounter tag args => exact command tag args 13
  case stageProfile tag args => exact command tag args 14
  case commitProfile tag args => exact command tag args 15
  case readProfile tag args => exact command tag args 16
  case setProfile tag args => exact command tag args 17
  case readEntry tag args => exact command tag args 18
  case deleteEntry tag args => exact command tag args 19
  case view tag args => exact command tag args 20
  case stageChannel tag args => exact command tag args 21
  case commitChannel tag args => exact command tag args 22
  case clearChannel tag args => exact command tag args 23
  case readChannel tag args => exact command tag args 24
  case loadIrProfile tag args => exact command tag args 25
  case startSearch tag args => exact command tag args 26
  case endSearch tag args => exact command tag args 27
  case readSearch tag args => exact command tag args 28
  case readCue tag args => exact command tag args 29
  case releaseCue tag args => exact command tag args 30
  case setClock tag args => exact command tag args 31
  case readClock tag args => exact command tag args 32
  case stageTimer tag args => exact command tag args 33
  case commitTimer tag args => exact command tag args 34
  case readTimer tag args => exact command tag args 35
  case clearTimer tag args => exact command tag args 36
  case setOption tag args => exact command tag args 37
  case power tag args => exact command tag args 38
  case acknowledge tag args => exact command tag args 39
  case resetUnit tag args => exact command tag args 40
  case unknownCommand tag code args => exact command tag args code.toNat
  case fieldHeader i p g a => exact keeps_awake (K.keeps_fieldHeader i p g.val a.toInt) h
  case linePacket i n p => exact keeps_awake (K.keeps_linePacket i n.toNat p) h
  case streamSilenceTimeout i => exact keeps_awake (keeps_when fun _ => K.keeps_setField i _) h
  case substituteField i => exact keeps_awake (keeps_when fun _ => K.keeps_substituteField i) h
  case generatedBlankField out => exact keeps_awake (K.keeps_generateBlank out) h
  case cassetteInSwitch pos => exact keeps_awake (K.keeps_cassetteMoves _ pos) (K.setPins _ h)
  case threadedSwitch closed => exact keeps_awake (K.keeps_threadedMoves closed) (K.setPins _ h)
  case unthreadedSwitch closed => exact keeps_awake (K.keeps_unthreadedMoves closed) (K.setPins _ h)
  case writeProtectTab tab => exact K.setPins _ h
  case startSensorActive => exact keeps_awake (keeps_when fun _ => K.keeps_tapeStart) (K.setPins _ h)
  case startSensorInactive => exact keeps_awake (keeps_when fun _ => K.keeps_leaveLeader) (K.setPins _ h)
  case endSensorActive active => exact keeps_awake (keeps_when fun _ => K.keeps_tapeEnd) (K.setPins _ h)
  case dewSensorActive => exact keeps_awake K.keeps_dewActs (K.setPins _ h)
  case dewSensorClear => exact keeps_awake (keeps_when fun _ => K.keeps_beginRethread) (K.setPins _ h)
  case supplyReelPulse ms =>
    exact keeps_awake (fun h => K.setTcb _ (supplyPulse_kept _ ms) (K.setTrc _ (.same rfl rfl rfl) h)) h
  case takeUpReelPulse ms => exact keeps_awake (K.keeps_takeUpPulse ms) h
  case controlPulse d marked => exact keeps_awake (K.keeps_controlPulse d marked) h
  case servoLocked => exact keeps_awake K.keeps_servoLocks h
  case servoUnlocked => exact keeps_awake (fun h => K.setTrc _ (.same rfl rfl rfl) h) h
  case motionSteady => exact keeps_awake K.keeps_motionSteady h
  case atRest => exact keeps_awake (keeps_when fun _ => K.keeps_atRest) h
  case threadingLimit => exact keeps_awake (keeps_when fun _ => K.keeps_faultWith _ _) h
  case unthreadingLimit => exact keeps_awake (keeps_when fun _ => K.keeps_faultWith _ _) h
  case pushOutLimit => exact keeps_awake (keeps_when fun _ => K.keeps_faultWith _ _) h
  case pauseTimerExpiry => exact keeps_awake (keeps_when fun _ => K.keeps_pauseExpires) h
  case playLockLimit =>
    exact keeps_awake (keeps_when fun _ h => K.keeps_completeHeld .failed .lock (K.keeps_stopTape h)) h
  case lockupLockLimit => exact keeps_awake (keeps_when fun _ => K.keeps_lockupFails) h
  case dirReadNoLock => exact keeps_awake (keeps_when fun _ => K.keeps_finishRead .cut) h
  case reelStall reel => exact keeps_awake (keeps_when fun _ => K.keeps_faultWith _ _) h
  case blankTestExpiry => exact keeps_awake (keeps_when fun _ => keeps_when fun _ => K.keeps_finishRead .blank) h
  case blankFlagTimeout =>
    exact keeps_awake (keeps_when fun _ => keeps_when fun _ => K.setTcb _ (.same rfl rfl rfl rfl rfl)) h
  case reserveComplete => exact keeps_awake (keeps_when fun _ => K.keeps_beginLockPhase) h
  case backspaceComplete => exact keeps_awake (keeps_when fun hc => K.keeps_beginForwardRun (by rw [hc.1]; rfl)) h
  case seamWriteFrame => exact keeps_awake (keeps_when fun hc => K.keeps_seam (by rw [hc.1]; rfl)) h
  case regionPassed => exact keeps_awake (keeps_when fun _ => K.keeps_finishRead .passed) h
  case dirWriteComplete => exact keeps_awake K.keeps_endDirWrite h
  case locateTargetReached => exact keeps_awake K.keeps_locateReached h
  case singleUpset => exact keeps_awake (K.keeps_raise _) h
  case doubleUpset => exact keeps_awake (fun h => K.keeps_faultWith .aborted .fault (K.keeps_raise .stateAbort h)) h
  case resetInputRelease => exact keeps_when (fun hc => K.keeps_resetReleases hc) h
  case coldStart => exact K.cold h
  case writeDone => exact keeps_awake (keeps_when fun _ => K.ends .pass) h
  case writeFail => exact keeps_awake (keeps_when fun _ h => K.keeps_raise .storeFail (K.ends .fail h)) h
  case secondEvent => exact K.keeps_secondEvent h
  case cueAgeExpiry x => exact keeps_awake (keeps_when fun _ => K.keeps_ageExpires x) h
  case settleCountExpiry x => exact keeps_awake (K.keeps_settleRunsOut x) h
  case irKeyComplete => exact keeps_awake K.keeps_irKeyComplete h
  case irWaitExpiry => exact keeps_awake (keeps_when fun _ => K.keeps_sourceReady) h
  case stepObservationLimit =>
    exact keeps_awake (keeps_when fun hc => K.keeps_passOver (running_of_limitDue hc)) h
  case confirmLimit => exact keeps_awake (keeps_when fun hc => K.keeps_passOver (running_of_limitDue hc)) h
  case trimLimit => exact keeps_awake (keeps_when fun hc => K.keeps_foldTrim (running_of_limitDue hc)) h
  case nameLimit => exact keeps_awake (keeps_when fun hc => K.keeps_searchAddition (running_of_limitDue hc)) h
  case cueLossTimerExpiry => exact keeps_awake (keeps_when fun _ => K.keeps_lossExpires) h
  case backupSupplyLost => exact keeps_when (fun _ => K.lost) h

/-- A step keeps what bears every change that a step is made of. -/
theorem Bears.keeps_step (h : P s) {t : State} (ht : step s = .next t) : P t := by
  unfold step at ht
  split at ht
  · obtain rfl := Host.Outcome.next.inj ht
    exact h
  · exact K.keeps_exec _ (K.queue _ h) ht

end Sys2Proof.Proofs.Invariant
end

section
/-! PROOFS. The invariants that every step keeps, of the control path, the counters and tables, the tuners, the store and the
clock: each bears every change that a step is made of. -/

namespace Sys2Proof.Proofs.Invariant
open Sys2Proof.Machine

variable {s t : State}

/-! ### A session ends and closes (R155 to R158) -/

/-- The end of a close keeps what bears the removal of the session at a transport that stands as it does (R156). -/
theorem Kept.keeps_finishClose {P : State → Prop} (K : Kept P)
    (hr : ∀ t, t.trc = s.trc → P t → P (t.setSch { t.sch with session := none })) (h : P s) : P (finishClose s) := by
  unfold finishClose
  split
  · exact h
  · rename_i x _
    have released := fun l : Lpt =>
      K.keeps_reassessWatch (K.setLpt l (K.keeps_releaseRecord x.source (K.keeps_closeNotice (x.closeReason.getD .done) h)))
    have released_trc : ∀ l : Lpt, (reassessWatch (State.setLpt (releaseRecord x.source
        (closeNotice (x.closeReason.getD .done) s).1) l)).trc = s.trc := fun l =>
      (reassessWatch_trc _).trans ((step_releaseRecord _ _).trc.trans (closeNotice_trc _ _))
    refine K.keeps_autoRewind (K.keeps_takeAllDeferred (K.keeps_evalNearEnd (K.keeps_completeWaiting (hr _ ?_ (K.keeps_raise _ ?_)))))
    · split
      · exact released_trc _
      · exact (closeEntryOf_trc _ _ _ _).trans (released_trc _)
    · split
      · exact released _
      · exact K.keeps_closeEntryOf _ _ _ (released _)

/-- The close at a mains failure, likewise (R158). -/
theorem Kept.keeps_closeByMains {P : State → Prop} (K : Kept P)
    (hr : ∀ t, t.trc = s.trc → P t → P (t.setSch { t.sch with session := none })) (h : P s) : P (closeByMains s) := by
  unfold closeByMains
  split
  · exact h
  · rename_i x _
    have removed : ∀ t, t.trc = s.trc → P t → P (t.setSch { t.sch with session := none, clears := [] }) := fun t e ht =>
      K.setSch (s := t.setSch { t.sch with session := none }) _ rfl (.inr rfl) (hr t e ht) (.refl _)
    refine K.keeps_takeAllDeferred (K.keeps_evalNearEnd (removed _ ?_ (K.keeps_raise _ ?_)))
    · split
      · exact closeNotice_trc _ _
      · exact (closeEntryOf_trc _ _ _ _).trans (closeNotice_trc _ _)
    · split
      · exact K.keeps_closeNotice _ h
      · exact K.keeps_closeEntryOf _ _ _ (K.keeps_closeNotice _ h)

/-- What says nothing of what the transport does for a session bears every change of a step. -/
theorem Free.bears {P : State → Prop} (K : Free P) : Bears P where
  toKept := K.toKept
  setTrcLive x held _ h := K.freeTrc x held h
  finishes _ h := K.keeps_finishClose (fun _ _ => K.freeSession none) h
  closesByMains _ _ h := K.keeps_closeByMains (fun _ _ => K.freeSession none) h
  closes {s} r h := by
    have finished : ∀ t, P t → P (finishClose t) := fun _ => K.keeps_finishClose fun _ _ => K.freeSession none
    unfold beginClose
    split
    · exact h
    · split
      · exact h
      · rename_i x _ _
        have withdrawn := K.keeps_withdrawOrders
          (K.freeSession (some { x with state := .closing, closeReason := some r }) h)
        dsimp only
        split
        · split
          · exact K.keeps_orderStop withdrawn
          · exact finished _ (K.keeps_orderStop withdrawn)
        · exact finished _ withdrawn

/-- A step keeps what says nothing of what the transport does for a session. -/
theorem Free.keeps_step {P : State → Prop} (K : Free P) (h : P s) (ht : step s = .next t) : P t := K.bears.keeps_step h ht

/-! ### Right after reset (R195) -/

theorem reset_controlPath : State.reset.ControlPathSound := by decide
theorem reset_counters : State.reset.CountersSound := by decide
theorem reset_sizes : State.reset.SizesSound := by decide
theorem reset_tuning : State.reset.TuningSound := by
  refine ⟨wordSound_cleared _, wordSound_cleared _, fun e => ?_, fun v hv => ?_, fun _ => rfl⟩
  · exact absurd e (by decide)
  · cases hv
theorem reset_sessionHoldsTransport : State.reset.SessionHoldsTransport := by
  refine ⟨fun e => absurd e (by decide), fun e => absurd e (by decide), fun x hx => ?_⟩
  cases hx
theorem reset_store : State.reset.StoreSound := ⟨List.nodup_nil, fun _ hw => nomatch hw⟩
theorem reset_calendar : State.reset.CalendarSound := by decide

/-- Settles O2, invariant by invariant. -/
theorem resetMeetsTheInvariants : Obligations.ResetMeetsTheInvariants :=
  ⟨reset_controlPath, reset_counters, reset_sizes, reset_tuning, reset_sessionHoldsTransport, reset_store, reset_calendar⟩

/-! ### What completing and writing change -/

/-- A completion changes the control line unit alone. -/
theorem complete_setClu (n : Nat) (o : ReplyOutcome) (r : Reason) (s : State) : ∃ c, complete n o r s = s.setClu c := by
  unfold complete
  split
  · exact ⟨s.clu, rfl⟩
  · exact ⟨_, rfl⟩

/-- From `s` to `t` only what the store holds to write changed. -/
def WritesOnly (s t : State) : Prop := ∃ x : Sto, t = s.setSto x ∧ t.asleep = s.asleep

theorem writesOnly_startWrite (s : State) : WritesOnly s (startWrite s) := by
  unfold startWrite
  split
  · exact ⟨s.sto, rfl, rfl⟩
  · split
    · exact ⟨s.sto, rfl, rfl⟩
    · exact ⟨_, rfl, rfl⟩

theorem writesOnly_setSto (x : Sto) (h : WritesOnly (s.setSto x) t) (ha : (s.setSto x).asleep = s.asleep) :
    WritesOnly s t := by
  obtain ⟨y, rfl, hy⟩ := h
  exact ⟨y, rfl, hy.trans ha⟩

theorem writesOnly_markRecord (n : RecordName) (s : State) : WritesOnly s (markRecord n s) := by
  unfold markRecord
  split
  · exact writesOnly_startWrite s
  · exact writesOnly_setSto _ (writesOnly_startWrite _) rfl

theorem writesOnly_writeEnds (r : StoreResult) (s : State) : WritesOnly s (writeEnds r s) :=
  writesOnly_setSto _ (writesOnly_startWrite _) rfl

theorem writesOnly_abandonWrite (s : State) : WritesOnly s (abandonWrite s) := by
  unfold abandonWrite
  split
  · exact ⟨s.sto, rfl, rfl⟩
  · exact ⟨_, rfl, rfl⟩

/-! ### The control path (R176 to R180) -/

theorem nodup_append_fresh {l : List Nat} {n : Nat} (hl : l.Nodup) (hn : ∀ m ∈ l, m < n) : (l ++ [n]).Nodup :=
  List.nodup_append.mpr ⟨hl, List.nodup_singleton n, fun a ha b hb => by
    rw [List.mem_singleton.mp hb]
    exact Nat.ne_of_lt (hn a ha)⟩

/-- Reserved places that become ready leave the number of places. -/
theorem answer_controlPath {c : Clu} {n : Nat} {r : Reply} (hp : c.ready.length + c.reserved.length ≤ 6)
    (hd : c.reserved.Nodup) (hr : ∀ m ∈ c.reserved, m < c.nextId) :
    (c.answer n r).ready.length + (c.answer n r).reserved.length ≤ 6 ∧ (c.answer n r).reserved.Nodup ∧
      (∀ m ∈ (c.answer n r).reserved, m < (c.answer n r).nextId) ∧ (c.answer n r).inFlight = c.inFlight ∧
      (c.answer n r).nextId = c.nextId := by
  unfold Clu.answer
  split
  · rename_i hm
    refine ⟨?_, hd.erase n, fun m hmem => hr m (List.mem_of_mem_erase hmem), rfl, rfl⟩
    have hpos := List.length_pos_of_mem hm
    simp only [List.length_append, List.length_singleton, List.length_erase_of_mem hm]
    omega
  · exact ⟨hp, hd, hr, rfl, rfl⟩

theorem controlPath_setTrc (x : Trc) (hx : x.held = s.trc.held ∨ x.held = none) (h : s.ControlPathSound) :
    (s.setTrc x).ControlPathSound := by
  obtain ⟨h1, h2, h3, h4, h5, h6, h7⟩ := h
  refine ⟨h1, h2, h3, h4, h5, ?_, h7⟩
  rcases hx with hx | hx
  · simpa only [State.setTrc_trc, State.setTrc_clu, hx] using h6
  · simp [hx]

theorem free_controlPath : Free State.ControlPathSound where
  setTrc x hx h := controlPath_setTrc x hx.held h
  freeTrc x hx h := controlPath_setTrc x hx h
  hold x hx h := by
    obtain ⟨h1, h2, h3, h4, h5, h6, h7⟩ := h
    exact ⟨h1, h2, h3, h4, h5, fun y hy => by cases hy; exact hx, h7⟩
  sources hst _ h := by
    obtain ⟨h1, h2, h3, h4, h5, h6, h7⟩ := h
    rw [State.ControlPathSound, hst.trc, hst.sch, hst.clu]
    exact ⟨h1, h2, h3, h4, h5, h6, h7⟩
  setSch x _ hx h _ := by
    obtain ⟨h1, h2, h3, h4, h5, h6, h7⟩ := h
    refine ⟨h1, h2, h3, h4, h5, h6, ?_⟩
    rcases hx with hx | hx
    · simpa only [State.setSch_sch, State.setSch_clu, hx] using h7
    · simp [hx]
  addClear n hn h := by
    obtain ⟨h1, h2, h3, h4, h5, h6, h7⟩ := h
    refine ⟨h1, h2, h3, h4, h5, h6, fun m hm => ?_⟩
    rcases List.mem_append.mp hm with hm | hm
    · exact h7 m hm
    · rw [List.mem_singleton.mp hm]; exact hn
  dropReady n h := by
    obtain ⟨h1, hrest⟩ := h
    refine ⟨?_, hrest⟩
    simp only [State.setClu_clu, List.length_drop]
    omega
  giveId h := by
    obtain ⟨h1, h2, h3, h4, h5, h6, h7⟩ := h
    exact ⟨h1, h2, h3, fun m hm => Nat.lt_succ_of_lt (h4 m hm), fun f hf => Nat.lt_succ_of_lt (h5 f hf), fun x hx => Nat.lt_succ_of_lt (h6 x hx),
      fun m hm => Nat.lt_succ_of_lt (h7 m hm)⟩
  reserve {s} hf h := by
    obtain ⟨h1, h2, h3, h4, h5, h6, h7⟩ := h
    refine ⟨?_, h2, nodup_append_fresh h3 h4, fun m hm => ?_, fun f hf => Nat.lt_succ_of_lt (h5 f hf), fun x hx => Nat.lt_succ_of_lt (h6 x hx),
      fun m hm => Nat.lt_succ_of_lt (h7 m hm)⟩
    · simp only [State.setClu_clu, List.length_append, List.length_singleton, Clu.freePlaces] at hf ⊢
      omega
    · rcases List.mem_append.mp hm with hm | hm
      · exact Nat.lt_succ_of_lt (h4 m hm)
      · rw [List.mem_singleton.mp hm]; exact Nat.lt_succ_self _
  answers c o r l h := by
    obtain ⟨h1, h2, h3, h4, h5, h6, h7⟩ := h
    obtain ⟨g1, g3, g4, gf, gn⟩ := answer_controlPath (n := c.id)
      (r := { tag := c.tag, code := c.code, outcome := o, reason := r, result := l }) h1 h3 h4
    refine ⟨g1, ?_, g3, g4, ?_, ?_, ?_⟩ <;> simp only [reply, State.setClu_clu, gf, gn]
    · exact h2
    · exact h5
    · exact h6
    · exact h7
  completes {s} n o r h := by
    obtain ⟨h1, h2, h3, h4, h5, h6, h7⟩ := h
    unfold complete
    split
    · exact ⟨h1, h2, h3, h4, h5, h6, h7⟩
    · rename_i f _
      obtain ⟨g1, g3, g4, gf, gn⟩ := answer_controlPath (n := n)
        (r := { tag := f.tag, code := f.code, outcome := o, reason := r, result := [] })
        (c := { s.clu with inFlight := s.clu.inFlight.filter fun g => g.id ≠ n }) h1 h3 h4
      refine ⟨g1, ?_, g3, g4, ?_, ?_, ?_⟩ <;> simp only [State.setClu_clu, gf, gn]
      · exact (List.length_filter_le ..).trans h2
      · exact fun x hx => h5 x (List.mem_of_mem_filter hx)
      · exact h6
      · exact h7
  enlists c o hid hl h := by
    obtain ⟨h1, h2, h3, h4, h5, h6, h7⟩ := h
    refine ⟨h1, ?_, h3, h4, fun f hf => ?_, h6, h7⟩
    · simp only [enlist, State.setClu_clu, List.length_append, List.length_singleton]
      exact hl
    · rcases List.mem_append.mp hf with hf | hf
      · exact h5 f hf
      · rw [List.mem_singleton.mp hf]; exact hid
  emptied c hid h := by
    obtain ⟨h1, h2, h3, h4, h5, h6, h7⟩ := h
    refine ⟨?_, Nat.zero_le _, ?_, ?_, fun f hf => (nomatch hf), h6, h7⟩ <;> simp only [cluReset, State.setClu_clu]
    · split
      · simp
      · simp
    · split
      · exact List.nodup_nil
      · exact List.nodup_singleton _
    · split
      · exact fun m hm => (nomatch hm)
      · exact fun m hm => by rw [List.mem_singleton.mp hm]; exact hid
  dropped h := by
    obtain ⟨-, -, -, -, -, h6, h7⟩ := h
    exact ⟨Nat.zero_le _, Nat.zero_le _, List.nodup_nil, fun m hm => (nomatch hm), fun f hf => (nomatch hf), h6, h7⟩
  mark {s} n h := by obtain ⟨x, e, -⟩ := writesOnly_markRecord n s; rw [e]; exact h
  start {s} h := by obtain ⟨x, e, -⟩ := writesOnly_startWrite s; rw [e]; exact h
  ends {s} r h := by obtain ⟨x, e, -⟩ := writesOnly_writeEnds r s; rw [e]; exact h
  abandon {s} h := by obtain ⟨x, e, -⟩ := writesOnly_abandonWrite s; rw [e]; exact h
  cold _ := reset_controlPath
  lost _ := reset_controlPath

/-- Settles O3: every change that a step is made of bears the six reply places, the two in-flight places and the serial
numbers. -/
theorem everyStepKeepsTheControlPath : Obligations.EveryStepKeepsTheControlPath :=
  fun _ _ h ht => free_controlPath.keeps_step h ht

/-! ### The counters and the tables (sections 2.1, 3.1, 5.1, 7.1 and 9.1) -/

theorem free_counters : Free State.CountersSound where
  setTcb _ hx h := hx.counters h
  sources hst _ h := by rw [State.CountersSound, hst.tcb]; exact h
  completes {s} n o r h := by obtain ⟨c, e⟩ := complete_setClu n o r s; rw [e]; exact h
  mark {s} n h := by obtain ⟨x, e, -⟩ := writesOnly_markRecord n s; rw [e]; exact h
  start {s} h := by obtain ⟨x, e, -⟩ := writesOnly_startWrite s; rw [e]; exact h
  ends {s} r h := by obtain ⟨x, e, -⟩ := writesOnly_writeEnds r s; rw [e]; exact h
  abandon {s} h := by obtain ⟨x, e, -⟩ := writesOnly_abandonWrite s; rw [e]; exact h
  cold _ := reset_counters
  lost _ := reset_counters

theorem free_sizes : Free State.SizesSound where
  setTcb _ hx h := by
    obtain ⟨h1, h2, hrest⟩ := h
    exact ⟨hx.history h1, hx.profiles.trans h2, hrest⟩
  setDir _ hx h := by
    obtain ⟨h1, h2, h3, hrest⟩ := h
    exact ⟨h1, h2, hx h3, hrest⟩
  sources hst _ h := by
    obtain ⟨h1, h2, h3, h4, h5, h6, h7, h8⟩ := h
    rw [State.SizesSound, hst.tcb, hst.dir, hst.channels, hst.sch, hst.ring]
    exact ⟨h1, h2, h3, h4, h5, h6, hst.ageA.elim (fun e => e ▸ h7) (fun e => e ▸ Nat.zero_le _),
      hst.ageB.elim (fun e => e ▸ h8) (fun e => e ▸ Nat.zero_le _)⟩
  setChannels _ hx h := by
    obtain ⟨h1, h2, h3, h4, hrest⟩ := h
    exact ⟨h1, h2, h3, hx.trans h4, hrest⟩
  setCue _ hr ha hb h := by
    obtain ⟨h1, h2, h3, h4, h5, h6, h7, h8⟩ := h
    exact ⟨h1, h2, h3, h4, h5, hr h6, ha h7, hb h8⟩
  setSch _ hx _ h _ := by
    obtain ⟨h1, h2, h3, h4, h5, hrest⟩ := h
    exact ⟨h1, h2, h3, h4, hx.trans h5, hrest⟩
  completes {s} n o r h := by obtain ⟨c, e⟩ := complete_setClu n o r s; rw [e]; exact h
  mark {s} n h := by obtain ⟨x, e, -⟩ := writesOnly_markRecord n s; rw [e]; exact h
  start {s} h := by obtain ⟨x, e, -⟩ := writesOnly_startWrite s; rw [e]; exact h
  ends {s} r h := by obtain ⟨x, e, -⟩ := writesOnly_writeEnds r s; rw [e]; exact h
  abandon {s} h := by obtain ⟨x, e, -⟩ := writesOnly_abandonWrite s; rw [e]; exact h
  cold _ := reset_sizes
  lost _ := reset_sizes

/-- Settles O4: every change that a step is made of bears the counters' ranges, and the sizes of the tables, lists and ring. -/
theorem everyStepKeepsTheCountersAndSizes : Obligations.EveryStepKeepsTheCountersAndSizes :=
  ⟨fun _ _ h ht => free_counters.keeps_step h ht, fun _ _ h ht => free_sizes.keeps_step h ht⟩

/-! ### The tuners, the search and the view (R84 to R111) -/

theorem tuning_writesOnly (h : s.TuningSound) (hw : WritesOnly s t) : t.TuningSound := by
  obtain ⟨x, rfl, ha⟩ := hw
  obtain ⟨h1, h2, h3, h4, h5⟩ := h
  exact ⟨h1, h2, h3, h4, fun e => h5 (ha.symm.trans e)⟩

theorem free_tuning : Free State.TuningSound where
  sources _ ht h := ht h
  completes {s} n o r h := by obtain ⟨c, e⟩ := complete_setClu n o r s; rw [e]; exact h
  setSto x _ _ hx h := by
    obtain ⟨h1, h2, h3, h4, h5⟩ := h
    exact ⟨h1, h2, h3, h4, fun e => (hx e).elim h5 id⟩
  mark n h := tuning_writesOnly h (writesOnly_markRecord n _)
  start h := tuning_writesOnly h (writesOnly_startWrite _)
  ends r h := tuning_writesOnly h (writesOnly_writeEnds r _)
  abandon h := tuning_writesOnly h (writesOnly_abandonWrite _)
  cold _ := reset_tuning
  lost _ := by
    obtain ⟨h1, h2, h3, h4, -⟩ := reset_tuning
    exact ⟨h1, h2, h3, h4, fun _ => rfl⟩

/-- Settles O5: every change that a step is made of bears the tuners' words, the search's hold on tuner B and the view's source. -/
theorem everyStepKeepsTheTuning : Obligations.EveryStepKeepsTheTuning :=
  fun _ _ h ht => free_tuning.keeps_step h ht

/-! ### The store (R189, R198) -/

theorem take_frameRecord (n : RecordName) (l : List Byte) :
    (frameRecord n l).take 2 = [Byte.ofNat n.kind, Byte.ofNat n.index] := rfl

theorem store_startWrite (h : s.StoreSound) : (startWrite s).StoreSound := by
  obtain ⟨hd, hw⟩ := h
  unfold startWrite
  split
  · exact ⟨hd, hw⟩
  · split
    · exact ⟨hd, hw⟩
    · rename_i n rest hp
      rw [hp] at hd
      refine ⟨(List.nodup_cons.mp hd).2, fun w hm => ?_⟩
      cases hm
      exact ⟨sumBytes_check _, take_frameRecord _ _⟩

theorem free_store : Free State.StoreSound where
  sources hst _ h := by rw [State.StoreSound, hst.sto]; exact h
  completes {s} n o r h := by obtain ⟨c, e⟩ := complete_setClu n o r s; rw [e]; exact h
  setSto x hp hw _ h := by
    rw [State.StoreSound, State.setSto_sto, hp, hw]
    exact h
  mark {s} n h := by
    refine store_startWrite ?_
    split
    · exact h
    · rename_i hn
      obtain ⟨hd, hw⟩ := h
      exact ⟨List.nodup_append.mpr ⟨hd, List.nodup_singleton n, fun a ha b hb e => hn (by
        rwa [← List.mem_singleton.mp hb, ← e])⟩, hw⟩
  start h := store_startWrite h
  ends r h := store_startWrite ⟨h.1, fun w hw => nomatch hw⟩
  abandon {s} h := by
    unfold abandonWrite
    split
    · exact h
    · rename_i n l _
      refine ⟨List.nodup_cons.mpr ⟨fun hm => ?_, h.1.filter _⟩, fun w hw => nomatch hw⟩
      simp at hm
  cold _ := ⟨List.nodup_nil, fun w hw => nomatch hw⟩
  lost _ := ⟨List.nodup_nil, fun w hw => nomatch hw⟩

/-- Settles O7: every change that a step is made of bears the pending-write set and the sum of the written bytes. -/
theorem everyStepKeepsTheStore : Obligations.EveryStepKeepsTheStore :=
  fun _ _ h ht => free_store.keeps_step h ht

/-! ### The clock (R125 to R127) -/

theorem free_calendar : Free State.CalendarSound where
  sources hst _ h := by rw [State.CalendarSound, hst.clk]; exact h
  setClk _ hx h := hx h
  completes {s} n o r h := by obtain ⟨c, e⟩ := complete_setClu n o r s; rw [e]; exact h
  mark {s} n h := by obtain ⟨x, e, -⟩ := writesOnly_markRecord n s; rw [e]; exact h
  start {s} h := by obtain ⟨x, e, -⟩ := writesOnly_startWrite s; rw [e]; exact h
  ends {s} r h := by obtain ⟨x, e, -⟩ := writesOnly_writeEnds r s; rw [e]; exact h
  abandon {s} h := by obtain ⟨x, e, -⟩ := writesOnly_abandonWrite s; rw [e]; exact h
  cold _ := reset_calendar
  lost _ := reset_calendar

/-- Settles O8: every change that a step is made of bears the calendar. -/
theorem everyStepKeepsTheCalendar : Obligations.EveryStepKeepsTheCalendar :=
  fun _ _ h ht => free_calendar.keeps_step h ht

/-! ### The transport and the session (R13, R156) -/

/-- A transport that is in no session's hands, and holds no start order, needs no session. -/
theorem sessionHolds_of_rest (hs : s.trc.state.isSession = false) (hh : s.trc.heldStart = none) : s.SessionHoldsTransport :=
  ⟨fun e => absurd (hs.symm.trans e) (by decide), fun e => by simp [hh] at e, fun _ _ _ => ⟨hh, hs⟩⟩

theorem kept_session : Kept State.SessionHoldsTransport where
  setTrc x hx h := by
    obtain ⟨_, hstate, hstart⟩ := hx
    obtain ⟨h1, h2, h3⟩ := h
    refine ⟨fun e => ?_, fun e => ?_, fun y hy hc => ⟨?_, ?_⟩⟩
    · rcases hstate with hs | hs
      · exact h1 (hs ▸ e)
      · exact absurd (hs.symm.trans e) (by decide)
    · rcases hstart with hs | hs
      · exact h2 (hs ▸ e)
      · simp [hs] at e
    · exact hstart.elim (fun hs => hs.trans (h3 y hy hc).1) id
    · exact hstate.elim (fun hs => (congrArg TState.isSession hs).trans (h3 y hy hc).2) id
  sources hst _ h := by rw [State.SessionHoldsTransport, hst.trc, hst.sch]; exact h
  setSch x _ _ h hsession := by
    obtain ⟨h1, h2, h3⟩ := h
    obtain ⟨hsome, hclosing⟩ := hsession
    refine ⟨fun e => hsome (h1 e), fun e => hsome (h2 e), fun y hy hc => ?_⟩
    obtain ⟨z, hz, hzc⟩ := hclosing y hy hc
    exact h3 z hz hzc
  completes {s} n o r h := by obtain ⟨c, e⟩ := complete_setClu n o r s; rw [e]; exact h
  mark {s} n h := by obtain ⟨x, e, -⟩ := writesOnly_markRecord n s; rw [e]; exact h
  start {s} h := by obtain ⟨x, e, -⟩ := writesOnly_startWrite s; rw [e]; exact h
  ends {s} r h := by obtain ⟨x, e, -⟩ := writesOnly_writeEnds r s; rw [e]; exact h
  abandon {s} h := by obtain ⟨x, e, -⟩ := writesOnly_abandonWrite s; rw [e]; exact h
  cold {s} _ := sessionHolds_of_rest (startState_rests s.pins) rfl
  lost {s} _ := sessionHolds_of_rest (startState_rests s.pins) rfl

/-- At a transport at rest the session can be removed. -/
theorem session_removed (hs : s.trc.state.isSession = false) (hh : s.trc.heldStart = none) :
    ∀ t : State, t.trc = s.trc → t.SessionHoldsTransport →
      (t.setSch { t.sch with session := none }).SessionHoldsTransport := by
  intro t e _
  rw [← e] at hs hh
  exact sessionHolds_of_rest hs hh

theorem completeHeld_heldStart (o : ReplyOutcome) (r : Reason) (s : State) :
    (completeHeld o r s).trc.heldStart = s.trc.heldStart := by
  unfold completeHeld
  split
  · rfl
  · rw [complete_trc]; rfl

/-- The stop order takes the tape out of a session's hands (R13). -/
theorem orderStop_rests (hh : s.trc.heldStart = none) :
    (orderStop s).trc.state.isSession = false ∧ (orderStop s).trc.heldStart = none := by
  have let_go : (if s.holds [codeRecord, codePause] then completeHeld .aborted .state s else s).trc.heldStart = none := by
    split
    · rw [completeHeld_heldStart, hh]
    · exact hh
  unfold orderStop
  generalize (if s.holds [codeRecord, codePause] then completeHeld .aborted .state s else s) = t at let_go
  dsimp only
  split
  · exact ⟨rfl, let_go⟩
  · rename_i hs
    exact ⟨Bool.eq_false_iff.mpr hs, let_go⟩

theorem bears_session : Bears State.SessionHoldsTransport where
  toKept := kept_session
  setTrcLive x _ hl h := by
    obtain ⟨y, hy, ho⟩ := hl h
    refine ⟨fun _ => by rw [State.setTrc_sch, hy]; rfl, fun _ => by rw [State.setTrc_sch, hy]; rfl, fun z hz hc => ?_⟩
    rw [State.setTrc_sch, hy] at hz
    cases hz
    exact absurd hc ho
  finishes {s} hc h := by
    obtain ⟨x, hx, hxc⟩ := (Option.any_eq_true ..).mp hc
    obtain ⟨hh, hs⟩ := h.2.2 x hx (of_decide_eq_true hxc)
    exact kept_session.keeps_finishClose (session_removed hs hh) h
  closesByMains hs hh h := kept_session.keeps_closeByMains (session_removed hs hh) h
  closes {s} r h := by
    have finished : ∀ t : State, t.trc.state.isSession = false → t.trc.heldStart = none →
        (finishClose t).SessionHoldsTransport := fun _ hs hh =>
      kept_session.keeps_finishClose (session_removed hs hh) (sessionHolds_of_rest hs hh)
    unfold beginClose
    split
    · exact h
    · split
      · exact h
      · rename_i x _ _
        have rests := orderStop_rests (s := withdrawOrders
          (s.setSch { s.sch with session := some { x with state := .closing, closeReason := some r } })) rfl
        dsimp only
        split
        · split
          · exact sessionHolds_of_rest rests.1 rests.2
          · exact finished _ rests.1 rests.2
        · rename_i hstop
          rw [TState.takesStop, Bool.or_eq_true, not_or] at hstop
          exact finished _ (Bool.eq_false_iff.mpr hstop.1) rfl

/-- Settles O6: a session's hold on the transport begins and ends with the session, in every change that a step is made of. -/
theorem everyStepKeepsTheSessionOnTheTransport : Obligations.EveryStepKeepsTheSessionOnTheTransport :=
  fun _ _ h ht => bears_session.keeps_step h ht

end Sys2Proof.Proofs.Invariant
end

section
/-! PROOFS. The queue, the drives, the status line and the cold start: what each shows, in every state. -/

namespace Sys2Proof.Proofs.Outputs
open Sys2Proof.Machine

/-- Settles O1: both parts are the two branches of `step`. -/
theorem stepRunsTheFrontCommand : Obligations.StepRunsTheFrontCommand :=
  ⟨fun _ _ _ => rfl, fun s h => by simp [Machine.step, h]⟩

/-! ### The drives (section 1.1) -/

/-- The states, with their phases and the direction of a locate, in which the tape runs forward. -/
def RunsForward (t : Trc) : Prop :=
  t.state = .play ∨ t.state = .record ∨ t.state = .windFwd ∨ t.state = .searchFwd ∨ t.state = .dirRead ∨
  (t.state = .lockup ∧ t.phase ≠ .backspace) ∨ (t.state = .dirWrite ∧ t.phase ≠ .writeRewind) ∨
  (t.state = .locate ∧ ∃ l, t.locate = some l ∧ l.direction = .forward)

/-- Those in which it runs back. -/
def RunsBack (t : Trc) : Prop :=
  t.state = .windBack ∨ t.state = .searchBack ∨ (t.state = .lockup ∧ t.phase = .backspace) ∨
  (t.state = .dirWrite ∧ t.phase = .writeRewind) ∨
  (t.state = .locate ∧ ¬ ∃ l, t.locate = some l ∧ l.direction = .forward)

/-- Those in which it winds. -/
def Winds (t : Trc) : Prop :=
  t.state = .windFwd ∨ t.state = .windBack ∨ t.state = .locate ∨ (t.state = .lockup ∧ t.phase = .backspace) ∨
  (t.state = .dirWrite ∧ t.phase = .writeRewind)

theorem locateForward_iff (t : Trc) : t.locateForward = true ↔ ∃ l, t.locate = some l ∧ l.direction = .forward := by
  unfold Trc.locateForward
  cases t.locate with
  | none => simp
  | some l => simp

theorem forwardMotion_iff (t : Trc) : t.forwardMotion = true ↔ RunsForward t := by
  unfold Trc.forwardMotion RunsForward
  cases t.state
  case locate => simpa using locateForward_iff t
  all_goals simp

theorem reverseMotion_iff (t : Trc) : t.reverseMotion = true ↔ RunsBack t := by
  unfold Trc.reverseMotion Trc.forwardMotion RunsBack
  cases hst : t.state
  case locate => simp [TState.isMotion, ← locateForward_iff]
  all_goals simp [TState.isMotion]

theorem not_back_of_forward {t : Trc} (h : RunsForward t) : ¬ RunsBack t := by
  rw [← forwardMotion_iff] at h
  simp [← reverseMotion_iff, Trc.reverseMotion, h]

theorem reels_forward_iff (t : Trc) : t.reelMotors = some .forward ↔ RunsForward t := by
  rw [← forwardMotion_iff]
  unfold Trc.reelMotors
  split
  · simp [*]
  · split <;> simp [*]

theorem reels_reverse_iff (t : Trc) : t.reelMotors = some .reverse ↔ RunsBack t := by
  unfold Trc.reelMotors
  split
  · next h => simpa using not_back_of_forward ((forwardMotion_iff t).1 h)
  · rw [← reverseMotion_iff]
    split <;> simp [*]

theorem threading_forward_iff (t : Trc) : t.threadingMotor = some .forward ↔
    (t.state = .loading ∧ t.atRestMark = false) ∨ (t.state = .dewHold ∧ t.phase = .dewRethread) := by
  unfold Trc.threadingMotor
  split <;> simp_all

theorem threading_reverse_iff (t : Trc) : t.threadingMotor = some .reverse ↔
    (t.state = .unloading ∧ t.phase = .unthread) ∨ (t.state = .dewHold ∧ t.phase = .dewUnthread) := by
  unfold Trc.threadingMotor
  split <;> simp_all

theorem writing_iff (t : Trc) : t.writing = true ↔
    t.state = .record ∨ (t.state = .lockup ∧ t.phase = .reserve) ∨ (t.state = .dirWrite ∧ t.phase = .writing) := by
  unfold Trc.writing
  cases t.state <;> simp

/-- The capstan drives the tape wherever the tape moves and does not wind. -/
theorem capstan_on_iff (t : Trc) : t.capstan ≠ .off ↔ (RunsForward t ∨ RunsBack t) ∧ ¬ Winds t := by
  unfold Trc.capstan RunsForward RunsBack Winds
  cases t.state
  case lockup => cases t.phase <;> simp
  case dirWrite => by_cases h : t.phase = .writeRewind <;> simp [h]
  all_goals simp

theorem capstan_off_iff (t : Trc) : t.capstan = .off ↔ ¬ (RunsForward t ∨ RunsBack t) ∨ Winds t := by
  rw [← not_iff_not, ← ne_eq, capstan_on_iff]
  tauto

theorem drumTurns_iff (t : Trc) : t.drumTurns = true ↔
    t.state = .playPause ∨ t.state = .recordPause ∨ ((RunsForward t ∨ RunsBack t) ∧ ¬ Winds t) := by
  rw [← capstan_on_iff]
  simp [Trc.drumTurns, Trc.heldStill, or_assoc]

/-- Settles O25, drive by drive. -/
theorem theDrivesFollowTheTransport : Obligations.TheDrivesFollowTheTransport := by
  intro s
  refine ⟨fun h => if_pos h, fun h => ?_⟩
  have awake : s.drives = _ := if_neg (by simp [h])
  rw [awake]
  refine ⟨writing_iff _, by simp, reels_forward_iff _, reels_reverse_iff _, threading_forward_iff _,
    threading_reverse_iff _, capstan_off_iff _, drumTurns_iff _, ?_⟩
  refine ⟨fun e => ?_, fun e p => ?_, fun e p => ?_, fun e p => ?_, fun e => ?_, fun e => ?_, fun e => ?_, fun e => ?_⟩ <;>
    simp [Trc.capstan, *]

/-! ### The status line (section 13.3) -/

/-- A byte of flags is the sum of the powers of two at its set bits. -/
theorem flagBits_eq (l : List Bool) :
    flagBits l = Byte.ofNat (((List.range l.length).map fun i => if l.getD i false then 2 ^ i else 0).sum) := by
  unfold flagBits
  congr 1
  induction l with
  | nil => rfl
  | cons b l ih =>
    have shifted : ((List.range l.length).map fun i => if l.getD i false then 2 ^ (i + 1) else 0) =
        (List.range l.length).map fun i => 2 * if l.getD i false then 2 ^ i else 0 :=
      List.map_congr_left fun i _ => by split <;> simp [Nat.pow_succ, Nat.mul_comm]
    rw [List.foldr_cons, ih, List.length_cons, List.range_succ_eq_map]
    simp only [List.map_cons, List.map_map, Function.comp_def, List.sum_cons, List.getD_cons_zero, List.getD_cons_succ,
      Nat.succ_eq_add_one, pow_zero]
    rw [shifted, List.sum_map_mul_left]
    exact Nat.add_comm _ _

theorem powerCode_eq (p : PowerState) : p.code = [PowerState.on, .standby, .backup].idxOf p := by cases p <;> rfl

theorem stateCode_eq (st : TState) : st.code =
    [TState.empty, .loading, .dirRead, .stopped, .play, .playPause, .record, .recordPause, .lockup, .windFwd, .windBack,
      .searchFwd, .searchBack, .locate, .dirWrite, .unloading, .ejected, .dewHold, .fault].idxOf st := by
  cases st <;> rfl

theorem dirCode_eq (d : DirState) : d.code = [DirState.unknown, .blank, .valid, .damaged].idxOf d := by cases d <;> rfl

theorem ownerCode_eq (o : Owner) : o.code = [Owner.none, .record, .watch, .view, .search].idxOf o := by cases o <;> rfl

theorem clockCode_eq (c : ClockStatus) : c.code = [ClockStatus.unset, .setManual, .setBroadcast].idxOf c := by
  cases c <;> rfl

theorem resultCode_eq (r : StoreResult) : r.code = [StoreResult.none, .pass, .fail].idxOf r := by cases r <;> rfl

theorem sessionStateCode_eq (x : SessionState) :
    x.code = [SessionState.starting, .active, .paused, .closing].idxOf x := by cases x <;> rfl

theorem currentSpeed_eq (s : State) : s.currentSpeed = s.speedInForce := by
  unfold State.currentSpeed State.speedInForce
  cases s.sch.session <;> rfl

/-- The remaining frames at the speed in force (R42, R43). -/
theorem remaining_eq (s : State) : s.remaining = match s.tcb.history with
    | [] => 0
    | e :: rest => (match s.speedInForce with | .one => 1 | .two => 2) * ((e :: rest).sum / (e :: rest).length) := by
  unfold State.remaining framesAt estimateOf
  rw [currentSpeed_eq]
  cases s.tcb.history with
  | nil => cases s.speedInForce <;> rfl
  | cons e rest => cases s.speedInForce <;> simp

theorem estimateCode_eq (h : List Nat) :
    Byte.ofNat (estimateStatus h).code = if h.length = 0 then 0 else if h.length < 8 then 1 else 2 := by
  unfold estimateStatus
  split
  · rfl
  · split <;> rfl

theorem notReady_eq (t : Trc) :
    t.notReady = decide (t.state ∈ [TState.loading, .lockup, .dirWrite, .unloading, .dewHold, .fault]) := by
  unfold Trc.notReady
  cases t.state <;> rfl

theorem sessionByte_eq (o : Option Session) : Byte.ofNat (sessionCode o) = match o with
    | none => 0
    | some x => Byte.ofNat (1 + [SessionState.starting, .active, .paused, .closing].idxOf x.state) := by
  cases o with
  | none => rfl
  | some x => rw [sessionCode, sessionStateCode_eq, Nat.add_comm]

theorem originByte_eq (o : Option Session) : Byte.ofNat (sessionOriginCode o) = match o with
    | none => 255
    | some x => Byte.ofNat (x.origin.getD 16) := by
  cases o with
  | none => rfl
  | some x => cases h : x.origin <;> simp [sessionOriginCode, originCode, h]

theorem channelByte_eq (o : Option Nat) : Byte.ofNat (channelCode o) = match o with
    | none => 255
    | some c => Byte.ofNat c := by
  cases o <;> rfl

theorem speedByte_eq (v : Speed) : Byte.ofNat v.toNat = match v with | .one => 1 | .two => 2 := by cases v <;> rfl

theorem starting_eq (s : State) : s.starting = decide (s.sto.reading ≠ none) := by
  unfold State.starting
  cases s.sto.reading <;> rfl

theorem stoBusy_eq (s : State) : s.stoBusy = (s.starting || s.sto.writing.isSome) := Bool.or_comm ..

/-- Settles O36, line by line. -/
theorem theStatusLineShowsTheState : Obligations.TheStatusLineShowsTheState := by
  intro s bits three frames channel owner result tuner states notReady reading part1 part2 part3 part4
  have line1 : statusLine 1 (statusPart1 s) = [6, 1, 0, 0, 0] ++ part1 := by
    simp only [statusLine, statusPart1, powerCode_eq, stateCode_eq, flagBits_eq, remaining_eq, estimateCode_eq,
      dirCode_eq, sessionByte_eq]
    rfl
  have line2 : statusLine 2 (statusPart2 s) = [6, 2, 0, 0, 0] ++ part2 := by
    simp only [statusLine, statusPart2, originByte_eq, currentSpeed_eq, speedByte_eq, ownerCode_eq, channelByte_eq,
      Tuner.flags, flagBits_eq]
    rfl
  have line3 : statusLine 3 (statusPart3 s) = [6, 3, 0, 0, 0] ++ part3 := by
    simp only [statusLine, statusPart3, clockCode_eq]
    rfl
  have line4 : statusLine 4 (statusPart4 s) = [6, 4, 0, 0, 0] ++ part4 := by
    simp only [statusLine, statusPart4, flagBits_eq, notReady_eq, State.schNotReady, stoBusy_eq, starting_eq, resultCode_eq]
    rfl
  rw [statusLines, line1, line2, line3, line4]

/-! ### The cold start (section 12.6) -/

/-- Settles O57: a cold start leaves the values of reset, but for the read of the store. -/
theorem aColdStartLeavesTheseValues : Obligations.AColdStartLeavesTheseValues := by
  intro s t h
  cases h
  refine ⟨rfl, rfl, rfl, rfl, rfl, rfl, rfl, rfl, rfl, rfl, rfl, rfl, rfl, rfl, rfl, rfl, rfl, rfl, rfl, rfl, rfl, rfl,
    rfl, rfl, rfl, rfl, rfl, rfl, rfl, rfl, rfl, rfl, rfl⟩

end Sys2Proof.Proofs.Outputs
end

section
/-! PROOFS. Orders of motion: PLAY, the winds, PICTURE SEARCH, LOCATE, SEEK INDEX and SEEK ENTRY, on a free tape and in place of
another command (R5, R6, R9 to R11). -/

namespace Sys2Proof.Proofs.MotionOrders
open Sys2Proof.Machine

/-! ### Taking an order -/

/-- The state in which the effect of a held command runs: the command holds the tape, `c` being the control line unit without
it. -/
def begun (s : State) (tag : Byte) (c : Clu) (code : Nat) : State :=
  { s with clu := c.holding tag code .trc, trc := { s.trc with held := some { id := s.clu.nextId, code := code } } }

/-- The state after the order of a held command: its motion has begun and a directory read is cut. -/
def replaced (s : State) (tag : Byte) (c : Clu) (code : Nat) (t : Trc) : State :=
  { s.readCut.transportTo { t with held := some { id := s.clu.nextId, code := code } } with clu := c.holding tag code .trc }

/-- A transport command reaches its own rule in a state that takes orders, and if it is held it stands in flight alone, `c`
being the control line unit without it. -/
structure Accepts (s : State) (tag : Byte) (c : Clu) : Prop where
  reaches : ∀ (code : Nat) (args : List Byte) (op : Cmd → State → State),
    takeCommand tag code args (trcCommand op) s = op (s.clu.cmd tag code args) { s with clu := s.clu.taken tag }
  holds : ∀ (code : Nat) (args : List Byte) (effect : State → State),
    holdTransport (s.clu.cmd tag code args) effect { s with clu := s.clu.taken tag } = effect (begun s tag c code)
  motion : s.trc.takesMotion = true

theorem accepts_free {s : State} {tag : Byte} (hs : s.serves tag) (hf : s.tapeFree) (ht : s.trc.takesOrder) :
    Accepts s tag s.clu :=
  ⟨transport_free hs hf ht, holdTransport_free hf.2.2.1 hf.2.2.2, ht.takesMotion⟩

theorem trcCheck_order {s : State} (hp : s.sto.power = .on) (hn : s.sch.session = none) (ht : s.trc.takesOrder) (c : Clu)
    (code : Nat) : trcCheck code { s with clu := c } = none := by
  rcases ht with h | h | h | h | h | h | h | h | h <;> simp [trcCheck, hp, h, State.hasSession, hn]

theorem accepts_superseding {s : State} {tag : Byte} {c : Clu} (hs : s.serves tag) (hp : s.sto.power = .on)
    (hn : s.sch.session = none) (ht : s.trc.takesOrder) (hh : s.trc.held ≠ none) (hl : s.letsGo .superseded .none c) :
    Accepts s tag c :=
  ⟨fun code => transport_reached hs code (trcCheck_order hp hn ht _ code), holdTransport_supersedes hs.1.1 hh hl,
    ht.takesMotion⟩

/-! ### Effects on a held command -/

section
variable (s : State) (tag : Byte) (c : Clu) (code : Nat)

theorem play_begun : beginPlay (cutRead (begun s tag c code)) = replaced s tag c code s.trc.plays := by
  rw [cutRead_eq, begun, State.readCut_withHeld, beginPlay_eq]
  simp [State.transportTo, replaced, Trc.plays, Trc.movesInto, Trc.noLimits]

theorem clearLatchFor_eq (d : Direction) (t : State) :
    clearLatchFor d t = { t with trc := { t.trc with endLatch := t.trc.latchAfter d } } := by
  cases d <;> rfl

theorem motion_begun {st : TState} (hm : st.isMotion = true) (hw : st ≠ .dirWrite) (d : Direction) (ph : Phase) :
    beginMotion st ph (clearLatchFor d (cutRead (begun s tag c code))) =
      replaced s tag c code { s.trc.movesInto st ph with endLatch := s.trc.latchAfter d } := by
  rw [cutRead_eq, begun, State.readCut_withHeld, clearLatchFor_eq, beginMotion_eq hm hw]
  cases d <;> simp [State.transportTo, replaced, Trc.movesInto, Trc.noLimits, Trc.latchAfter]

theorem locate_begun (d : Direction) (l : LocateTarget) :
    beginLocate l (clearLatchFor d (cutRead (begun s tag c code))) =
      replaced s tag c code
        { s.trc.movesInto .locate .wind with endLatch := s.trc.latchAfter d, locate := some l } := by
  unfold beginLocate
  rw [motion_begun s tag c code rfl (by decide)]
  rfl

end

/-! ### The commands -/

section
variable {s : State} {tag : Byte} {c : Clu}

theorem exec_play_begins (a : Accepts s tag c) (he : s.pins.endSensor = false) (h1 : s.trc.state ≠ .play)
    (h2 : s.trc.state ≠ .playPause) :
    Machine.exec (.play tag []) s = .next (replaced s tag c 1 s.trc.plays) := by
  refine congrArg Host.Outcome.next ?_
  rw [a.reaches, noArgs_nil, playOp, if_neg (by simp [he, a.motion]), if_neg h2, if_neg h1, a.holds, play_begun]

theorem windOp_begins (a : Accepts s tag c) {st : TState} (hm : st.isMotion = true) (hw : st ≠ .dirWrite) (d : Direction)
    (hd : s.atLeader d = false) (code : Nat) (args : List Byte) :
    windOp st d (s.clu.cmd tag code args) { s with clu := s.clu.taken tag } =
      replaced s tag c code { s.trc.movesInto st .idle with endLatch := s.trc.latchAfter d } := by
  have ahead : State.leaderAhead { s with clu := s.clu.taken tag } d = false := by cases d <;> exact hd
  rw [windOp, if_neg (by simp [ahead, a.motion]), a.holds, motion_begun s tag c code hm hw]

theorem exec_windForward_begins (a : Accepts s tag c) (he : s.pins.endSensor = false) :
    Machine.exec (.windForward tag []) s = .next (replaced s tag c 5 (s.trc.movesInto .windFwd .idle)) := by
  refine congrArg Host.Outcome.next ?_
  rw [a.reaches, noArgs_nil, windOp_begins a rfl (by decide) .forward he]
  rfl

theorem exec_windBack_begins (a : Accepts s tag c) (hs : s.pins.startSensor = false) :
    Machine.exec (.windBack tag []) s =
      .next (replaced s tag c 6 { s.trc.movesInto .windBack .idle with endLatch := false }) := by
  refine congrArg Host.Outcome.next ?_
  rw [a.reaches, noArgs_nil, windOp_begins a rfl (by decide) .reverse hs]
  rfl

theorem exec_searchForward_begins (a : Accepts s tag c) (he : s.pins.endSensor = false) :
    Machine.exec (.pictureSearch tag [0]) s = .next (replaced s tag c 7 (s.trc.movesInto .searchFwd .idle)) := by
  refine congrArg Host.Outcome.next ?_
  rw [a.reaches]
  exact windOp_begins a rfl (by decide) .forward he 7 [0]

theorem exec_searchBack_begins (a : Accepts s tag c) (hs : s.pins.startSensor = false) :
    Machine.exec (.pictureSearch tag [1]) s =
      .next (replaced s tag c 7 { s.trc.movesInto .searchBack .idle with endLatch := false }) := by
  refine congrArg Host.Outcome.next ?_
  rw [a.reaches]
  exact windOp_begins a rfl (by decide) .reverse hs 7 [1]

end

/-! ### O9 -/

theorem exec_play_playing {s : State} {tag : Byte} (hs : s.serves tag) (hf : s.tapeFree) (ht : s.trc.takesOrder)
    (he : s.pins.endSensor = false) (hp : s.trc.state = .play) :
    Machine.exec (.play tag []) s = .next { s with clu := s.clu.answered tag 1 .done .none [] } := by
  refine congrArg Host.Outcome.next ?_
  rw [transport_free hs hf ht, noArgs_nil, playOp, if_neg (by simp [he, ht.takesMotion]), if_neg (by simp [hp]),
    if_pos hp, atOnce_free hs.1.1 hf.2.2.1 (hc := rfl)]
  rfl

theorem exec_play_resumes {s : State} {tag : Byte} (hs : s.serves tag) (hf : s.tapeFree) (ht : s.trc.takesOrder)
    (he : s.pins.endSensor = false) (hp : s.trc.state = .playPause) :
    Machine.exec (.play tag []) s =
      .next (s.completedAtOnce tag 1 .done .none (s.trc.movesInto .play .idle)) := by
  refine congrArg Host.Outcome.next ?_
  rw [transport_free hs hf ht, noArgs_nil, playOp, if_neg (by simp [he, ht.takesMotion]), if_pos hp]
  rw [atOnce_free hs.1.1 hf.2.2.1 (hc := rfl), resumePlay, beginMotion_eq rfl (by decide)]
  rfl

theorem windOp_refused {s : State} {tag : Byte} (hs : s.serves tag) {st : TState} (d : Direction) (hd : s.atLeader d = true)
    (code : Nat) (args : List Byte) :
    windOp st d (s.clu.cmd tag code args) { s with clu := s.clu.taken tag } =
      { s with clu := s.clu.answered tag code .refused .state [] } := by
  have ahead : State.leaderAhead { s with clu := s.clu.taken tag } d = true := by cases d <;> exact hd
  rw [windOp, if_pos (.inl ahead), refuse_taken hs.1.1]

/-- Settles O9. -/
theorem motionCommandsOrderTheirMotion : Obligations.MotionCommandsOrderTheirMotion := by
  have cut : ∀ (s : State) (tag : Byte) (code : Nat) (t : Trc),
      replaced s tag s.clu code t = s.readCut.ordered tag code t := fun s tag code t => by
    simp [replaced, State.ordered]
  refine ⟨fun tag s hs hf ht => ?_, fun tag s hs hf ht => ?_⟩
  · have a := accepts_free hs hf ht
    simp only [← cut]
    exact ⟨exec_play_begins a, fun he => ⟨exec_windForward_begins a he, exec_searchForward_begins a he⟩,
      fun h => ⟨exec_windBack_begins a h, exec_searchBack_begins a h⟩⟩
  · have reached := transport_free hs hf ht
    refine ⟨exec_play_playing hs hf ht, exec_play_resumes hs hf ht, fun he => ⟨?_, ?_, ?_⟩, fun h => ⟨?_, ?_⟩⟩ <;>
      refine congrArg Host.Outcome.next ?_ <;> rw [reached]
    · rw [noArgs_nil, playOp, if_pos (.inl he), refuse_taken hs.1.1]
    · rw [noArgs_nil, windOp_refused hs .forward he]
    · exact windOp_refused hs .forward he 7 [0]
    · rw [noArgs_nil, windOp_refused hs .reverse h]
    · exact windOp_refused hs .reverse h 7 [1]

/-! ### Locate and seek -/

theorem endActionOf_byte (e : EndAction) : endActionOf e.byte = some e := by cases e <;> rfl

theorem parseLocate_counter {target : Int} (e : EndAction) (h1 : -899999 ≤ target) (h2 : target ≤ 899999) :
    parseLocate (locateArgs 0 target e) = some (.counter, target, e) := by
  simp only [locateArgs, parseLocate, endActionOf_byte, int3_bytes target h1 h2]
  rw [if_pos ⟨rfl, h1, h2⟩]

theorem parseLocate_absolute {target : Int} (e : EndAction) (h1 : 0 ≤ target) (h2 : target ≤ 899999) :
    parseLocate (locateArgs 1 target e) = some (.absolute, target, e) := by
  simp only [locateArgs, parseLocate, endActionOf_byte, int3_bytes target (by omega) h2]
  rw [if_neg (fun h => absurd h.1 (by decide)), if_pos ⟨rfl, h1, h2⟩]

theorem parseSeekIndex_bytes {marks : Int} (e : EndAction) (h1 : -99 ≤ marks) (h2 : marks ≤ 99) (h0 : marks ≠ 0) :
    parseSeekIndex [Byte.ofInt marks, e.byte] = some (marks, e) := by
  have back : (Byte.ofInt marks).toInt = marks := by
    rw [Byte.ofInt, BitVec.toInt_ofInt, Int.bmod_def]
    split <;> omega
  simp only [parseSeekIndex, endActionOf_byte, back]
  rw [if_pos ⟨h0, h1, h2⟩]

/-- The present value that a target of a kind is compared with (R10). -/
def present (s : State) (kind : LocateKind) : Int := if kind = .counter then s.tcb.relCounter else s.tcb.absPos

/-- The transport after a wind to a target was ordered (R10). -/
def windsTo (s : State) (d : Direction) (kind : LocateKind) (target : Option Int) (marks : Nat) (e : EndAction) : Trc :=
  { s.trc.movesInto .locate .wind with
    endLatch := s.trc.latchAfter d
    locate := some { kind := kind, target := target, remaining := marks, direction := d, endAction := e } }

section
variable {s : State} {tag : Byte} {c : Clu}

theorem leaderAhead_eq (s : State) (d : Direction) : s.leaderAhead d = s.atLeader d := by cases d <;> rfl

/-- An accepted locate: there already, at the leader ahead, or on its way (R10). -/
theorem locateOp_eq (hm : s.trc.takesMotion = true) {kind : LocateKind} (hk : kind = .absolute → s.tcb.exact = true)
    (target : Int) (e : EndAction) (cmd : Cmd) (u : Clu) :
    locateOp kind target e cmd { s with clu := u } =
      let d := directionTo (present s kind) target
      if present s kind = target then
        atOnce cmd (fun t => takeEndAction e (cutRead t)) .done .none { s with clu := u }
      else if s.atLeader d then
        atOnce cmd (fun t => stopTape (clearLatchFor d (cutRead t))) .failed .notReached { s with clu := u }
      else
        holdTransport cmd (fun t => beginLocate
          { kind := kind, target := some target, remaining := 0, direction := d, endAction := e }
          (clearLatchFor d (cutRead t))) { s with clu := u } := by
  have accepted : ¬ (¬ s.trc.takesMotion ∨ (kind = .absolute ∧ ¬ s.tcb.exact)) := by
    rintro (h | ⟨h1, h2⟩)
    · exact h hm
    · exact h2 (hk h1)
  unfold locateOp
  dsimp only
  rw [if_neg accepted, leaderAhead_eq]
  rfl

theorem locateOp_begins (a : Accepts s tag c) {kind : LocateKind} (hk : kind = .absolute → s.tcb.exact = true)
    {target : Int} (e : EndAction) (hne : present s kind ≠ target)
    (hl : s.atLeader (directionTo (present s kind) target) = false) (code : Nat) (args : List Byte) :
    locateOp kind target e (s.clu.cmd tag code args) { s with clu := s.clu.taken tag } =
      replaced s tag c code (windsTo s (directionTo (present s kind) target) kind (some target) 0 e) := by
  rw [locateOp_eq a.motion hk]
  dsimp only
  rw [if_neg hne, if_neg (Bool.eq_false_iff.1 hl), a.holds]
  exact locate_begun ..

theorem seekIndexOp_begins (a : Accepts s tag c) {marks : Int} (e : EndAction) (h1 : -99 ≤ marks) (h2 : marks ≤ 99)
    (h0 : marks ≠ 0) (hl : s.atLeader (if 0 < marks then .forward else .reverse) = false) :
    Machine.exec (.seekIndex tag [Byte.ofInt marks, e.byte]) s =
      .next (replaced s tag c 9 (windsTo s (if 0 < marks then .forward else .reverse) .index none marks.natAbs e)) := by
  refine congrArg Host.Outcome.next ?_
  rw [a.reaches, seekIndexOp]
  simp only [Clu.cmd_args, parseSeekIndex_bytes e h1 h2 h0]
  rw [if_neg (by simp [a.motion]), if_neg (by rw [leaderAhead_eq]; exact Bool.eq_false_iff.1 hl), a.holds]
  exact locate_begun ..

theorem exec_locate_counter (a : Accepts s tag c) {target : Int} (e : EndAction) (h1 : -899999 ≤ target)
    (h2 : target ≤ 899999) :
    Machine.exec (.locate tag (locateArgs 0 target e)) s =
      .next (locateOp .counter target e (s.clu.cmd tag 8 (locateArgs 0 target e)) { s with clu := s.clu.taken tag }) := by
  refine congrArg Host.Outcome.next ?_
  rw [a.reaches, locateCommand]
  simp only [Clu.cmd_args, parseLocate_counter e h1 h2]

theorem exec_locate_absolute (a : Accepts s tag c) {target : Int} (e : EndAction) (h1 : 0 ≤ target) (h2 : target ≤ 899999) :
    Machine.exec (.locate tag (locateArgs 1 target e)) s =
      .next (locateOp .absolute target e (s.clu.cmd tag 8 (locateArgs 1 target e)) { s with clu := s.clu.taken tag }) := by
  refine congrArg Host.Outcome.next ?_
  rw [a.reaches, locateCommand]
  simp only [Clu.cmd_args, parseLocate_absolute e h1 h2]

end

/-- Settles O11: every motion command begins as on a free tape, the control line unit having let the old one go. -/
theorem aNewOrderSupersedesTheOld : Obligations.ANewOrderSupersedesTheOld := by
  intro tag c s hs hp hn ht hh hl
  have a := accepts_superseding hs hp hn ht hh hl
  refine ⟨fun he => ⟨exec_play_begins a he, exec_windForward_begins a he, exec_searchForward_begins a he⟩,
    fun h => ⟨exec_windBack_begins a h, exec_searchBack_begins a h⟩, ?_, ?_, ?_⟩
  · intro target e h1 h2 hne d hd
    rw [exec_locate_counter a e h1 h2, locateOp_begins a (kind := .counter) (fun h => absurd h (by decide)) e hne.symm hd]
    rfl
  · intro target e h1 h2 hne hx d hd
    rw [exec_locate_absolute a e h1 h2, locateOp_begins a (kind := .absolute) (fun _ => hx) e hne.symm hd]
    rfl
  · intro marks e h1 h2 h0 d hd
    exact seekIndexOp_begins a e h1 h2 h0 hd

/-! ### On a free tape: O12 and O13 -/

section
variable {s : State} {tag : Byte}

/-- A motion that its leader stops at once: the tape stands, the command FAILED NOT_REACHED (R10). -/
theorem stopsAtLeader (hs : s.serves tag) (hf : s.tapeFree) (d : Direction) (code : Nat) (args : List Byte) :
    atOnce (s.clu.cmd tag code args) (fun t => stopTape (clearLatchFor d (cutRead t))) .failed .notReached
        { s with clu := s.clu.taken tag } =
      s.readCut.completedAtOnce tag code .failed .notReached { s.trc.stops with endLatch := s.trc.latchAfter d } := by
  have stopped : ∀ c : Clu, stopTape (clearLatchFor d (cutRead { s with clu := c })) =
      { s.readCut.transportTo { s.trc.stops with endLatch := s.trc.latchAfter d } with clu := c } := fun c => by
    rw [cutRead_eq, State.readCut_withClu, clearLatchFor_eq, stopTape_eq]
    simp [State.transportTo, Trc.stops, Trc.noLimits]
  rw [atOnce_free hs.1.1 hf.2.2.1 (hc := by rw [stopped]), stopped]
  simp [State.completedAtOnce]

/-- The end action does not look at the control line unit. -/
theorem endAction_withClu (s : State) (c : Clu) (e : EndAction) :
    State.endAction { s with clu := c } e = { s.endAction e with clu := c } := by
  cases e with
  | stop => rfl
  | play =>
    unfold State.endAction
    dsimp only
    split
    · rfl
    · split <;> rfl

/-- The end action taken at once, the target being where the tape is (R10). -/
theorem endsAtOnce (hs : s.serves tag) (hf : s.tapeFree) (e : EndAction) (code : Nat) (args : List Byte) :
    atOnce (s.clu.cmd tag code args) (fun t => takeEndAction e (cutRead t)) .done .none { s with clu := s.clu.taken tag } =
      { s.readCut.endAction e with clu := s.clu.answered tag code .done .none [] } := by
  have ended : ∀ c : Clu, takeEndAction e (cutRead { s with clu := c }) = { s.readCut.endAction e with clu := c } :=
    fun c => by rw [takeEndAction_eq, cutRead_eq, State.readCut_withClu, endAction_withClu]
  rw [atOnce_free hs.1.1 hf.2.2.1 (hc := by rw [ended]), ended]

/-- A locate on a free tape is `State.located`. -/
theorem locateOp_located (hs : s.serves tag) (hf : s.tapeFree) (ht : s.trc.takesOrder) {kind : LocateKind}
    (hk : kind = .absolute → s.tcb.exact = true) (target : Int) (e : EndAction) (code : Nat) (args : List Byte) :
    locateOp kind target e (s.clu.cmd tag code args) { s with clu := s.clu.taken tag } =
      s.located tag code kind (present s kind) target e := by
  have a := accepts_free hs hf ht
  rw [locateOp_eq a.motion hk, State.located]
  dsimp only
  by_cases hne : present s kind = target
  · rw [if_pos hne, if_pos hne, endsAtOnce hs hf]
  · rw [if_neg hne, if_neg hne]
    cases hl : s.atLeader (directionTo (present s kind) target) with
    | true =>
      rw [if_pos rfl]
      exact (stopsAtLeader hs hf _ code args).trans (if_pos hl).symm
    | false =>
      rw [if_neg (by simp), a.holds, locate_begun]
      refine Eq.trans ?_ (if_neg (Bool.eq_false_iff.1 hl)).symm
      simp [replaced, State.ordered, directionTo]

theorem exec_locate_inexact (hs : s.serves tag) (hf : s.tapeFree) (ht : s.trc.takesOrder) {target : Int} (e : EndAction)
    (h1 : 0 ≤ target) (h2 : target ≤ 899999) (hx : s.tcb.exact = false) :
    Machine.exec (.locate tag (locateArgs 1 target e)) s =
      .next { s with clu := s.clu.answered tag 8 .refused .state [] } := by
  rw [exec_locate_absolute (accepts_free hs hf ht) e h1 h2]
  refine congrArg Host.Outcome.next ?_
  unfold locateOp
  dsimp only
  rw [if_pos (.inr ⟨rfl, by simp [hx]⟩), refuse_taken hs.1.1]

end

/-- Settles O12. -/
theorem locateAndSeekIndexGoToTheirTarget : Obligations.LocateAndSeekIndexGoToTheirTarget := by
  intro tag e s hs hf ht
  have a := accepts_free hs hf ht
  refine ⟨fun target h1 h2 => ?_, fun target h1 h2 hx => ?_, fun target h1 h2 hx => ?_, fun marks h1 h2 h0 => ?_⟩
  · rw [exec_locate_counter a e h1 h2, locateOp_located hs hf ht (fun h => absurd h (by decide))]
    rfl
  · rw [exec_locate_absolute a e h1 h2, locateOp_located hs hf ht (fun _ => hx)]
    rfl
  · exact exec_locate_inexact hs hf ht e h1 h2 hx
  · intro d
    cases hl : s.atLeader d with
    | false =>
      rw [seekIndexOp_begins a e h1 h2 h0 hl]
      simp [replaced, State.ordered, windsTo, d]
    | true =>
      refine congrArg Host.Outcome.next ?_
      rw [a.reaches, seekIndexOp]
      simp only [Clu.cmd_args, parseSeekIndex_bytes e h1 h2 h0]
      rw [if_neg (by simp [a.motion]), if_pos (by rw [leaderAhead_eq]; exact hl), if_true]
      exact stopsAtLeader hs hf _ 9 _

/-! ### O13 -/

section
variable {s : State} {tag : Byte}

theorem parseSeekEntry_bytes (k : Byte) (e : EndAction) : parseSeekEntry [k, e.byte] = some (k.toNat, e) := by
  simp [parseSeekEntry, endActionOf_byte]

theorem entry_zero (s : State) (k : Byte) : k = 0 ∨ s.dir.image[k.toNat - 1]? = none → s.entry k.toNat = none := by
  rintro (rfl | h)
  · rfl
  · unfold State.entry
    split <;> [rfl; exact h]

theorem entry_found {k : Byte} {x : DirEntry} (hk : k ≠ 0) (hx : s.dir.image[k.toNat - 1]? = some x) :
    s.entry k.toNat = some x := by
  have nonzero : k.toNat ≠ 0 := fun h => hk (BitVec.eq_of_toNat_eq h)
  rw [State.entry, if_neg nonzero, hx]

/-- SEEK ENTRY reaches its rule with its two arguments read (R11). -/
theorem exec_seekEntry (hs : s.serves tag) (hf : s.tapeFree) (ht : s.trc.takesOrder) (k : Byte) (e : EndAction) :
    Machine.exec (.seekEntry tag [k, e.byte]) s = .next (
      let cmd := s.clu.cmd tag 10 [k, e.byte]
      let t : State := { s with clu := s.clu.taken tag }
      if s.dir.state ≠ .unknown ∧ s.tcb.exact then
        match s.entry k.toNat with
        | none => refuse cmd .range t
        | some x => locateOp .absolute x.start e cmd t
      else holdTransport cmd (beginSeek k.toNat e) t) := by
  have a := accepts_free hs hf ht
  refine congrArg Host.Outcome.next ?_
  rw [a.reaches, seekEntryOp]
  simp only [Clu.cmd_args, parseSeekEntry_bytes]
  rw [if_neg (by simp [a.motion])]
  rfl

/-- The wind back to the leader before the directory is read (R11; log 15). -/
theorem beginSeek_winds (c : Clu) (code k : Nat) (e : EndAction) (hp : s.pins.startSensor = false) :
    beginSeek k e (begun s tag c code) = replaced s tag c code
      { s.trc.movesInto .locate .seekRewind with
        endLatch := false
        seek := some { entry := k, endAction := e }
        locate := some { kind := .absolute, target := none, remaining := 0, direction := .reverse, endAction := e } } := by
  have wound := motion_begun s tag c code (st := .locate) rfl (by decide) .reverse .seekRewind
  unfold beginSeek
  rw [if_neg (by simp [begun, hp])]
  rw [show clearLatch (cutRead (begun s tag c code)) = clearLatchFor .reverse (cutRead (begun s tag c code)) from rfl, wound]
  rfl

/-- On the leader already, the read begins at once (R11, R28; logs 15 and 77). -/
theorem beginSeek_reads (c : Clu) (code k : Nat) (e : EndAction) (hp : s.pins.startSensor = true) :
    (beginSeek k e (begun s tag c code)).trc.state = .dirRead ∧
    (beginSeek k e (begun s tag c code)).trc.seek = some { entry := k, endAction := e } ∧
    (beginSeek k e (begun s tag c code)).trc.endLatch = false ∧
    (beginSeek k e (begun s tag c code)).tcb.exact = true ∧ (beginSeek k e (begun s tag c code)).tcb.absPos = 0 ∧
    (beginSeek k e (begun s tag c code)).clu = c.holding tag code .trc := by
  have wound := motion_begun s tag c code (st := .locate) rfl (by decide) .reverse .seekRewind
  unfold beginSeek
  rw [if_pos (by simp [begun, hp])]
  rw [show clearLatch (cutRead (begun s tag c code)) = clearLatchFor .reverse (cutRead (begun s tag c code)) from rfl, wound]
  refine ⟨rfl, rfl, rfl, rfl, rfl, rfl⟩

end

/-- Settles O13. -/
theorem seekEntryFindsItsEntry : Obligations.SeekEntryFindsItsEntry := by
  intro tag k e s hs hf ht
  have a := accepts_free hs hf ht
  rw [exec_seekEntry hs hf ht]
  refine ⟨fun hd hx => ?_, fun h => ?_⟩
  · dsimp only
    rw [if_pos ⟨hd, hx⟩]
    refine ⟨fun x hk hi => ?_, fun hk => ?_⟩
    · rw [entry_found hk hi]
      exact congrArg Host.Outcome.next (locateOp_located hs hf ht (fun _ => hx) x.start e 10 [k, e.byte])
    · rw [entry_zero s k hk]
      exact congrArg Host.Outcome.next (refuse_taken hs.1.1 10 [k, e.byte] .range)
  · dsimp only
    rw [if_neg (by rintro ⟨h1, h2⟩; exact h.elim h1 fun h => by simp [h] at h2), a.holds]
    refine ⟨fun hp => ?_, fun hp => ⟨_, rfl, beginSeek_reads s.clu 10 k.toNat e hp⟩⟩
    rw [beginSeek_winds s.clu 10 k.toNat e hp]
    simp [replaced, State.ordered]

end Sys2Proof.Proofs.MotionOrders
end

section
/-! PROOFS. The checks of R5, and STOP, PAUSE and EJECT (R7, R8, R16 to R20, R24). -/

namespace Sys2Proof.Proofs.TapeOrders
open Sys2Proof.Machine Sys2Proof.Proofs.MotionOrders

/-! ### The checks of R5: O10 -/

theorem commandOp_transport {n : Nat} (h1 : 1 ≤ n) (h2 : n ≤ 11) : ∃ op, commandOp n = trcCommand op := by
  interval_cases n <;> exact ⟨_, rfl⟩

theorem exec_row_refused {code tag : Byte} {s : State} {r : Reason} (h1 : 1 ≤ code.toNat) (h2 : code.toNat ≤ 11)
    (hs : s.serves tag) (args : List Byte) (hk : trcCheck code.toNat { s with clu := s.clu.taken tag } = some r) :
    Machine.exec (rowOfCode code tag args) s = .next { s with clu := s.clu.answered tag code.toNat .refused r [] } := by
  obtain ⟨op, hop⟩ := commandOp_transport h1 h2
  rw [exec_rowOfCode, hop, transport_refused hs hk]

/-- Settles O10: each check, with those before it passed. -/
theorem transportChecksComeInTheirOrder : Obligations.TransportChecksComeInTheirOrder := by
  intro code tag args s h1 h2 hs refusedWith stop eject
  have refused : ∀ r, trcCheck code.toNat { s with clu := s.clu.taken tag } = some r → refusedWith r :=
    fun r => exec_row_refused h1 h2 hs args
  refine ⟨fun h => refused _ (if_pos h), fun h => ⟨fun hst => ?_, fun hst => ?_, fun hst => ?_, fun hst => ?_, fun hst => ?_,
    fun hst hx h4 h3 h2' => ?_⟩⟩ <;> refine refused _ ((if_neg h).trans ?_)
  · exact if_pos hst
  · rw [if_neg (by simp [hst.1]), if_pos hst]
  · rw [if_neg (by simp [hst.1]), if_neg (by simp [hst.1]), if_pos hst]
  · rcases hst with e | e | e <;> simp [e]
  · rw [if_neg (by simp [hst.1]), if_neg (by simp [hst.1]), if_neg (by simp [hst.1]), if_neg (by simp [hst.1]), if_pos hst]
  · have hx' : State.hasSession { s with clu := s.clu.taken tag } = true := hx
    have h4' : code.toNat ≠ codeStop := h4
    rcases hst with (e | e | e | e | e | e | e | e | e) | e | e <;> simp [e, hx', h4', h3, h2', codePause, codeRecord]

/-! ### STOP: O14 -/

section
variable {s : State} {tag : Byte}

theorem stop_begun (c : Clu) (code : Nat) :
    stopTape (cutRead (begun s tag c code)) = replaced s tag c code s.trc.stops := by
  rw [cutRead_eq, begun, State.readCut_withHeld, stopTape_eq]
  simp [State.transportTo, replaced, Trc.stops, Trc.noLimits]

theorem exec_stop_free (hs : s.serves tag) (hf : s.tapeFree) (ht : s.trc.takesOrder ∨ s.trc.state = .fault) :
    Machine.exec (.stop tag []) s = .next (stopOp (s.clu.cmd tag 4 []) { s with clu := s.clu.taken tag }) := by
  refine congrArg Host.Outcome.next ?_
  have passed : trcCheck 4 { s with clu := s.clu.taken tag } = none := by
    rcases ht with ht | h
    · exact trcCheck_free hf ht _ 4
    · simp [trcCheck, hf.1, h, State.hasSession, hf.2.1]
  rw [transport_reached hs 4 passed, noArgs_nil]

theorem stop_stopped (hs : s.serves tag) (hf : s.tapeFree) (h : s.trc.state = .stopped) :
    Machine.exec (.stop tag []) s = .next { s with clu := s.clu.answered tag 4 .done .none [] } := by
  rw [exec_stop_free hs hf (.inl (.inl h))]
  refine congrArg Host.Outcome.next ?_
  simp only [stopOp, h, hf.2.1, reduceCtorEq, if_false, if_true]
  rw [atOnce_free hs.1.1 hf.2.2.1 (hc := rfl)]
  rfl

theorem stop_playPause (hs : s.serves tag) (hf : s.tapeFree) (h : s.trc.state = .playPause) :
    Machine.exec (.stop tag []) s = .next (s.completedAtOnce tag 4 .done .none s.trc.stops) := by
  rw [exec_stop_free hs hf (.inl (.inr (.inr (.inl h))))]
  refine congrArg Host.Outcome.next ?_
  simp only [stopOp, h, hf.2.1, reduceCtorEq, if_false, if_true]
  rw [atOnce_free hs.1.1 hf.2.2.1 (hc := rfl), stopTape_eq]
  rfl

theorem stop_moving (hs : s.serves tag) (hf : s.tapeFree) (ht : s.trc.takesOrder) (h1 : s.trc.state ≠ .stopped)
    (h2 : s.trc.state ≠ .playPause) :
    Machine.exec (.stop tag []) s = .next (s.readCut.ordered tag 4 s.trc.stops) := by
  rw [exec_stop_free hs hf (.inl ht)]
  refine congrArg Host.Outcome.next ?_
  have h3 : s.trc.state ≠ .fault := by rcases ht with h | h | h | h | h | h | h | h | h <;> simp [h]
  simp only [stopOp, h1, h2, h3, hf.2.1, if_false]
  rw [(accepts_free hs hf ht).holds, stop_begun]
  simp [replaced, State.ordered]

/-- What leaving FAULT for the state of the switches gives (R24; log 65). -/
structure LeavesFault (s t : State) : Prop where
  state : t.trc.state =
    (match s.pins.cassette with
     | .slotOpen => .empty
     | .partway => .ejected
     | .home => if s.pins.threaded then (if s.pins.dew then .dewHold else .stopped) else .loading)
  loading : t.trc.state = .loading →
    t.trc.atRestMark = s.trc.atRestMark ∧ t.trc.threadingLimit = if s.trc.atRestMark then none else some 8000
  dew : t.trc.state = .dewHold →
    t.trc.atRestMark = s.trc.atRestMark ∧ t.trc.phase = (if s.trc.atRestMark then .dewBrake else .dewUnthread) ∧
    t.trc.unthreadingLimit = if s.trc.atRestMark then none else some 8000
  stopped : t.trc.state = .stopped → t.trc = s.trc.stops ∧ t.dir = { s.dir with writeImage := none }
  ejected : t.trc.state = .ejected → t.trc.endLatch = false ∧ t.dir.state = .unknown ∧
    t.tcb = { s.tcb.closeWindow with history := [], nearEnd := false } ∧ t.sch = { s.sch with settledFigure := none }
  others : t.trc.state ≠ .ejected → t.trc.endLatch = s.trc.endLatch ∧ t.tcb = s.tcb.closeWindow ∧ t.sch = s.sch
  rest : t.clu = s.clu ∧ t.tun = s.tun ∧ t.cue = s.cue ∧ t.clk = s.clk ∧ t.sto = s.sto ∧ t.lpt = s.lpt ∧ t.pins = s.pins

theorem leaveFault_leaves (h : s.trc.state = .fault) : LeavesFault s (leaveFault s) := by
  have still : s.trc.state.isMotion = false := by rw [h]; rfl
  cases hc : s.pins.cassette with
  | slotOpen =>
    have left : leaveFault s = dirUnknown (s.transportTo (s.trc.restsIn .empty .idle)) := by
      unfold leaveFault stateBySwitches
      simp only [hc]
      rw [enter_rest_eq rfl (by decide), if_neg]
      simp [dirUnknown, State.transportTo, Trc.restsIn]
    rw [left]
    constructor <;> simp [hc, dirUnknown, State.transportTo, Trc.restsIn, Trc.noLimits]
  | partway =>
    have left : leaveFault s = clearHistory (clearLatch (foundEjected s)) := by
      unfold leaveFault stateBySwitches
      simp only [hc]
      exact if_pos rfl
    rw [left]
    unfold foundEjected
    rw [enter_rest_eq rfl (by decide)]
    constructor <;> simp [hc, clearHistory, clearLatch, dirEjected, Dir.toUnknown, State.transportTo, Trc.restsIn,
      Trc.noLimits]
  | home =>
    cases ht : s.pins.threaded with
    | false =>
      have left : leaveFault s = beginLoading s := by
        unfold leaveFault stateBySwitches
        simp only [hc, ht, Bool.false_eq_true, if_false]
        refine if_neg fun e => ?_
        unfold beginLoading at e
        dsimp only at e
        split at e <;> simp [runThreading, enter, Trc.enter] at e
      rw [left, beginLoading, enter_rest_eq rfl (by decide)]
      cases hm : s.trc.atRestMark <;> constructor <;>
        simp [hc, ht, hm, still, Trc.brakingNow, runThreading, State.transportTo, Trc.restsIn, Trc.noLimits]
    | true =>
      cases hd : s.pins.dew with
      | true =>
        have left : leaveFault s = beginDewHold s := by
          unfold leaveFault stateBySwitches
          simp only [hc, ht, hd, if_true]
          refine if_neg fun e => ?_
          unfold beginDewHold at e
          dsimp only at e
          split at e <;> simp [runUnthreading, enter, Trc.enter] at e
        rw [left, beginDewHold, enter_rest_eq rfl (by decide)]
        cases hm : s.trc.atRestMark <;> constructor <;>
          simp [hc, ht, hd, hm, still, Trc.brakingNow, runUnthreading, State.transportTo, Trc.restsIn, Trc.noLimits]
      | false =>
        have left : leaveFault s = s.transportTo s.trc.stops := by
          unfold leaveFault stateBySwitches
          simp only [hc, ht, hd, Bool.false_eq_true, if_false, if_true]
          rw [if_neg]
          · exact stopTape_eq s
          · simp [stopTape, enter, Trc.enter]
        rw [left]
        constructor <;> simp [hc, ht, hd, State.transportTo, Trc.stops, Trc.noLimits]

theorem exec_stop_fault (hs : s.serves tag) (hf : s.tapeFree) (h : s.trc.state = .fault) :
    Machine.exec (.stop tag []) s =
      .next { leaveFault { s with clu := s.clu.taken tag } with clu := s.clu.answered tag 4 .done .none [] } := by
  rw [exec_stop_free hs hf (.inr h)]
  refine congrArg Host.Outcome.next ?_
  have left := leaveFault_leaves (s := { s with clu := s.clu.taken tag }) h
  simp only [stopOp, h, if_true]
  rw [atOnce_free hs.1.1 hf.2.2.1 (hc := left.rest.1)]

/-- A session that records or pauses is closed USER_STOP, the tape braking (R8, R13, R156). -/
theorem beginClose_recording {t : State} {x : Session} {h : Held} (hx : t.sch.session = some x)
    (hst : x.state = .active ∨ x.state = .paused) (hr : t.trc.state = .record ∨ t.trc.state = .recordPause)
    (hh : t.trc.held = some h) (h4 : h.code = 4) (r : EndReason) :
    beginClose r t = { t.transportTo
        { t.trc.stops with
          atRestMark := true, pausePoint := none, markDue := false, heldHalt := false, heldStart := none,
          heldPause := false, heldResume := none } with
      sch := { t.sch with session := some { x with state := .closing, closeReason := some r } } } := by
  have open_ : x.state ≠ .closing := by rcases hst with e | e <;> simp [e]
  have stops : t.trc.state.takesStop = true := by rcases hr with e | e <;> rw [e] <;> rfl
  have own : t.trc.state.isSession = true := by rcases hr with e | e <;> rw [e] <;> rfl
  have mine : (4 : Nat) ∉ [codeRecord, codePause] := by decide
  unfold beginClose
  simp only [hx, open_, if_false]
  simp only [withdrawOrders, State.setTrc, State.setSch, stops, if_true, orderStop, State.holds, hh, h4, mine,
    decide_false, Bool.false_eq_true, if_false, own, stopTape_eq]
  simp [State.transportTo, Trc.stops, Trc.noLimits, hh]

theorem exec_stop_session (hs : s.serves tag) {x : Session} (hp : s.sto.power = .on) (hh : s.trc.held = none)
    (hi : s.clu.inFlight.length < 2) (hx : s.sch.session = some x) (hst : x.state = .active ∨ x.state = .paused)
    (hr : s.trc.state = .record ∨ s.trc.state = .recordPause) :
    Machine.exec (.stop tag []) s =
      .next { s.ordered tag 4
          { s.trc.stops with
            atRestMark := true, pausePoint := none, markDue := false, heldHalt := false, heldStart := none,
            heldPause := false, heldResume := none } with
        sch := { s.sch with session := some { x with state := .closing, closeReason := some .userStop } } } := by
  refine congrArg Host.Outcome.next ?_
  have passed : trcCheck 4 { s with clu := s.clu.taken tag } = none := by
    rcases hr with e | e <;> simp [trcCheck, hp, e]
  have running : stopReason { s with clu := s.clu.taken tag } x = .userStop := by
    have h1 : x.state ≠ .starting := by rcases hst with e | e <;> simp [e]
    have h2 : s.trc.inFirstLockup = false := by rcases hr with e | e <;> simp [Trc.inFirstLockup, e]
    simp [stopReason, h1, h2]
  have h3 : s.trc.state ≠ .fault := by rcases hr with e | e <;> simp [e]
  rw [transport_reached hs 4 passed, noArgs_nil]
  simp only [stopOp, h3, if_false, hx, running]
  rw [holdTransport_free hh hi, beginClose_recording (by exact hx) hst (by exact hr) rfl rfl]
  simp [State.ordered, State.transportTo, Trc.stops, Trc.noLimits]

end

/-- Settles O14. -/
theorem stopStopsTheTapeAndTheSession : Obligations.StopStopsTheTapeAndTheSession := by
  refine ⟨fun tag s hs hf => ⟨stop_stopped hs hf, stop_playPause hs hf, stop_moving hs hf⟩, fun tag s hs hf h => ?_,
    fun tag x s hs hp hh hi hx => exec_stop_session hs hp hh hi hx⟩
  have left := leaveFault_leaves (s := { s with clu := s.clu.taken tag }) h
  obtain ⟨_, htun, hcue, hclk, hsto, hlpt, hpins⟩ := left.rest
  exact ⟨_, exec_stop_fault hs hf h, left.state, left.loading, left.dew, left.stopped, left.ejected, left.others, rfl, htun,
    hcue, hclk, hsto, hlpt, hpins⟩

/-! ### PAUSE, and the resume by RECORD: O15 -/

section
variable {s : State} {tag : Byte}

theorem pause_free (hs : s.serves tag) (hf : s.tapeFree) (ht : s.trc.takesOrder) :
    Machine.exec (.pause tag []) s = .next (pauseOp (s.clu.cmd tag 3 []) { s with clu := s.clu.taken tag }) := by
  refine congrArg Host.Outcome.next ?_
  rw [transport_free hs hf ht, noArgs_nil]

theorem enterPlayPause_eq (t : State) : enterPlayPause t = t.transportTo
    { t.trc.restsIn .playPause .idle with locate := none, seek := none, pauseTimer := some 300000 } := by
  unfold enterPlayPause beginMotion
  rw [enter_rest_eq rfl (by decide)]
  rfl

theorem pause_play (hs : s.serves tag) (hf : s.tapeFree) (h : s.trc.state = .play) :
    Machine.exec (.pause tag []) s = .next (s.completedAtOnce tag 3 .done .none
      { s.trc.restsIn .playPause .idle with locate := none, seek := none, pauseTimer := some 300000 }) := by
  rw [pause_free hs hf (.inr (.inl h))]
  simp only [pauseOp, hf.2.1, h, if_true]
  rw [atOnce_free hs.1.1 hf.2.2.1 (hc := rfl), enterPlayPause_eq]
  rfl

theorem pause_playPause (hs : s.serves tag) (hf : s.tapeFree) (h : s.trc.state = .playPause) :
    Machine.exec (.pause tag []) s = .next (s.ordered tag 3 (s.trc.movesInto .play .idle)) := by
  rw [pause_free hs hf (.inr (.inr (.inl h)))]
  simp only [pauseOp, hf.2.1, h, if_true, reduceCtorEq, if_false]
  rw [holdTransport_free hf.2.2.1 hf.2.2.2, resumePlay, beginMotion_eq rfl (by decide)]
  rfl

theorem pause_elsewhere (hs : s.serves tag) (hf : s.tapeFree) (ht : s.trc.takesOrder) (h1 : s.trc.state ≠ .play)
    (h2 : s.trc.state ≠ .playPause) :
    Machine.exec (.pause tag []) s = .next { s with clu := s.clu.answered tag 3 .refused .state [] } := by
  rw [pause_free hs hf ht]
  simp only [pauseOp, hf.2.1, h1, h2, if_false]
  rw [refuse_taken hs.1.1]

/-- RECORD and PAUSE reach their rules while a session stands (R5). -/
theorem session_reached (hs : s.serves tag) (hp : s.sto.power = .on)
    (ht : s.trc.state = .record ∨ s.trc.state = .recordPause ∨ s.trc.state = .stopped) {code : Nat}
    (hc : code = 2 ∨ code = 3) (op : Cmd → State → State) :
    takeCommand tag code [] (trcCommand (noArgs op)) s =
      op (s.clu.cmd tag code []) { s with clu := s.clu.taken tag } := by
  have passed : trcCheck code { s with clu := s.clu.taken tag } = none := by
    rcases ht with e | e | e <;> rcases hc with rfl | rfl <;> simp [trcCheck, hp, e]
  rw [transport_reached hs code passed, noArgs_nil]

/-- The origin's entry takes a state that no watch follows; a manual session has none. -/
theorem originEntry_follows {t : State} {x : Session} (st : EntryState) (hst : st ≠ .waiting) (hx : t.sch.session = some x)
    (hw : ∀ k, x.origin = some k → (t.timer k).state ≠ .waiting) :
    (match t.runningEntry with
      | none => t
      | some k => setEntryState k st t) =
    { t with sch := { t.sch with timers := match x.origin with
      | none => t.sch.timers
      | some k => t.sch.timers.modify k fun e => { e with state := st } } } := by
  have run : t.runningEntry = x.origin := by simp [State.runningEntry, hx]
  rw [run]
  cases ho : x.origin with
  | none => rfl
  | some k =>
    dsimp only
    rw [setEntryState_quiet (hw k ho) hst]
    rfl

theorem manualPause_eq {t : State} {x : Session} (hx : t.sch.session = some x)
    (hw : ∀ k, x.origin = some k → (t.timer k).state ≠ .waiting) :
    manualPause t = { t.transportTo
        { t.trc.restsIn .recordPause .idle with
          pausePoint := some t.tcb.relCounter, pauseTimer := some 300000, heldPause := false, heldResume := none } with
      sch := { t.sch with
        session := some { x with state := .paused, pauseCause := some .manual }
        timers := match x.origin with
          | none => t.sch.timers
          | some k => t.sch.timers.modify k fun e => { e with state := .paused } } } := by
  have entered : enterRecordPause t = t.transportTo
      { t.trc.restsIn .recordPause .idle with
        pausePoint := some t.tcb.relCounter, pauseTimer := some 300000, heldPause := false, heldResume := none } := by
    unfold enterRecordPause
    rw [enter_rest_eq rfl (by decide)]
    rfl
  unfold manualPause
  rw [entered, modSession_some (s := t.transportTo _) (x := x) hx]
  exact originEntry_follows (x := { x with state := .paused, pauseCause := some .manual }) .paused (by decide) rfl hw

theorem manualResume_eq {t : State} {x : Session} (hx : t.sch.session = some x)
    (hw : ∀ k, x.origin = some k → (t.timer k).state ≠ .waiting) :
    manualResume t = { t.transportTo
        { t.trc.movesInto .lockup .backspace with
          orderedSpeed := x.currentSpeed, orderedIndex := false, backspaceCount := 0 } with
      sch := { t.sch with
        session := some { x with state := .active, pauseCause := none }
        timers := match x.origin with
          | none => t.sch.timers
          | some k => t.sch.timers.modify k fun e => { e with state := .recording } } } := by
  have speed : t.currentSpeed = x.currentSpeed := by simp [State.currentSpeed, hx]
  have followed := originEntry_follows (t := t.setSch { t.sch with session := some { x with state := .active, pauseCause := none } })
    (x := { x with state := .active, pauseCause := none }) .recording (by decide) rfl hw
  unfold manualResume
  rw [modSession_some (x := x) hx, speed]
  dsimp only
  refine (congrArg (beginBackspace x.currentSpeed) followed).trans ?_
  unfold beginBackspace
  rw [beginMotion_eq rfl (by decide)]
  rfl

end

/-- Settles O15. -/
theorem pauseHoldsAndResumes : Obligations.PauseHoldsAndResumes := by
  refine ⟨fun tag s hs hf => ⟨pause_play hs hf, pause_playPause hs hf, pause_elsewhere hs hf⟩, ?_, ?_, ?_⟩
  · intro tag x s hs hp hh hx hst hr hw
    refine congrArg Host.Outcome.next ?_
    have paused := manualPause_eq (t := { s with clu := s.clu.taken tag }) hx hw
    rw [session_reached hs hp (.inl hr) (.inr rfl)]
    simp only [pauseOp, hx, hr]
    rw [if_pos ⟨trivial, hst⟩, atOnce_free hs.1.1 hh (hc := by rw [paused]; rfl), paused]
    rfl
  · intro tag x s hs hp hh hi hx hst hc hr hw resumed
    have byHost : x.pausedManual = true := by simp [Session.pausedManual, hst, hc]
    have resumes : ∀ code, holdTransport (s.clu.cmd tag code []) manualResume { s with clu := s.clu.taken tag } =
        resumed code := fun code => by
      rw [holdTransport_free hh hi]
      exact manualResume_eq (t := begun s tag s.clu code) hx hw
    refine ⟨congrArg Host.Outcome.next ?_, congrArg Host.Outcome.next ?_⟩
    · rw [session_reached hs hp (.inr (.inl hr)) (.inl rfl)]
      simp only [recordOp, hx, hr]
      rw [if_pos ⟨trivial, byHost⟩, resumes]
    · rw [session_reached hs hp (.inr (.inl hr)) (.inr rfl)]
      simp only [pauseOp, hx, hr]
      rw [if_neg (by simp), if_pos ⟨trivial, byHost⟩, resumes]
  · intro tag x s hs hp hx hst hc hr
    have byLabel : ¬ x.pausedManual := by simp [Session.pausedManual, hc]
    refine ⟨congrArg Host.Outcome.next ?_, congrArg Host.Outcome.next ?_⟩
    · rw [session_reached hs hp hr (.inr rfl)]
      simp only [pauseOp, hx]
      rw [if_neg (fun h => h.2 hst), if_neg (fun h => byLabel h.2), refuse_taken hs.1.1]
    · rw [session_reached hs hp hr (.inl rfl)]
      simp only [recordOp, hx]
      rw [if_neg (fun h => byLabel h.2), if_pos ⟨hst, hc⟩, refuse_taken hs.1.1]

/-! ### EJECT: O16 -/

section
variable {s : State} {tag : Byte}

/-- EJECT's effect on a tape that takes orders: the directory is written first, or the unthreading begins (R18, R19). -/
def ejectEffect (t : State) : State :=
  if t.writesBeforeEject then beginDirWrite t else beginUnloading (t.setTrc { t.trc with locate := none, seek := none })

theorem exec_eject_free (hs : s.serves tag) (hn : s.sch.session = none) (hh : s.trc.held = none)
    (hi : s.clu.inFlight.length < 2) (ht : s.trc.takesOrder) :
    Machine.exec (.eject tag []) s = .next (ejectEffect (cutRead (begun s tag s.clu 11))) := by
  refine congrArg Host.Outcome.next ?_
  have h1 : s.trc.state ≠ .dewHold := by rcases ht with h | h | h | h | h | h | h | h | h <;> simp [h]
  rw [transport_reached hs 11 (trcCheck_eject hs hn (.inl ht)), noArgs_nil, ejectOp, if_neg h1, holdTransport_free hh hi]
  rfl

theorem cutRead_begun (c : Clu) (code : Nat) :
    cutRead (begun s tag c code) = { s.readCut with
      clu := c.holding tag code .trc, trc := { s.trc with held := some { id := s.clu.nextId, code := code } } } := by
  rw [cutRead_eq, begun, State.readCut_withHeld]

theorem writes_begun (c : Clu) (code : Nat) : (cutRead (begun s tag c code)).writesBeforeEject = true ↔
    s.readCut.dir.dirty = true ∧ s.pins.tab = .tabIn ∧ s.readCut.dir.state ≠ .unknown := by
  rw [cutRead_begun, State.writesBeforeEject_iff]
  simp

theorem unloading_begun (c : Clu) (code : Nat) :
    beginUnloading ((cutRead (begun s tag c code)).setTrc
        { (cutRead (begun s tag c code)).trc with locate := none, seek := none }) =
      replaced s tag c code (
        if s.trc.atRestMark || s.trc.state.isMotion then
          { s.trc.restsIn .unloading .unthreadWait with atRestMark := true, locate := none, seek := none }
        else { s.trc.restsIn .unloading .unthread with unthreadingLimit := some 8000, locate := none, seek := none }) := by
  rw [cutRead_begun, beginUnloading, enter_rest_eq rfl (by decide)]
  by_cases hb : (s.trc.atRestMark || s.trc.state.isMotion) = true
  · refine (if_pos hb).trans ?_
    rw [if_pos hb]
    simp [State.setTrc, State.transportTo, replaced, Trc.restsIn, Trc.noLimits]
  · refine (if_neg hb).trans ?_
    rw [if_neg hb]
    simp [State.setTrc, State.transportTo, replaced, Trc.restsIn, Trc.noLimits, runUnthreading]

theorem dirWrite_begun (c : Clu) (code : Nat) :
    beginDirWrite (cutRead (begun s tag c code)) = { replaced s tag c code
        (s.trc.movesInto .dirWrite (if s.pins.startSensor then .writeLead else .writeRewind)) with
      dir := s.readCut.dir
      tcb := if s.pins.startSensor then s.tcb.closeWindow.atZero else s.tcb.closeWindow } := by
  have moves : TState.dirWrite.isMotion = true := rfl
  rw [cutRead_begun, beginDirWrite]
  cases hp : s.pins.startSensor <;> cases hm : s.trc.state.isMotion <;>
    simp [hp, hm, moves, beginMotion, enter, Trc.enter, watchOnEntry, State.setTrc, State.setTcb, State.setDir,
      replaced, State.transportTo, Trc.movesInto, Trc.noLimits, setPhase, exactAtZero, Tcb.atZero]

end

/-- Settles O16. -/
theorem ejectWritesTheDirectoryOrUnthreads : Obligations.EjectWritesTheDirectoryOrUnthreads := by
  intro tag s hs hn hh hi
  refine ⟨fun ht => ?_, fun hst hph => congrArg Host.Outcome.next ?_⟩
  · intro writes
    rw [exec_eject_free hs hn hh hi ht, ejectEffect]
    refine ⟨fun hw hm => ?_, fun hw hm => ?_, fun hw hp => ?_, fun hw hp => ?_⟩
    · rw [if_neg (fun h => hw ((writes_begun ..).1 h)), unloading_begun, if_pos hm]
      simp [replaced, State.ordered]
    · rw [if_neg (fun h => hw ((writes_begun ..).1 h)), unloading_begun, if_neg (Bool.eq_false_iff.1 hm)]
      simp [replaced, State.ordered]
    · rw [if_pos ((writes_begun ..).2 hw), dirWrite_begun]
      simp [hp, replaced, State.ordered, State.transportTo]
    · rw [if_pos ((writes_begun ..).2 hw), dirWrite_begun]
      simp [hp, replaced, State.ordered, State.transportTo]
  · rw [transport_reached hs 11 (trcCheck_eject hs hn (.inr hst)), noArgs_nil, ejectOp, if_pos hst,
      holdTransport_free hh hi]
    simp only [ejectFromDew, hph]
    rfl

end Sys2Proof.Proofs.TapeOrders
end

section
/-! PROOFS. RECORD without a session, SET SPEED and ZERO COUNTER (R14, R32, R44, R94, R149, R151). -/

namespace Sys2Proof.Proofs.RecordOrders
open Sys2Proof.Machine Sys2Proof.Proofs.MotionOrders

/-! ### A manual session opens: O17 -/

/-- What the halt order that opens a session leaves of the state with the session's record: the tape stands, RECORD is still
held, and beside the near-end test only the transport and the directory have changed (R13, R149). -/
structure Halted (v w : State) : Prop where
  state : w.trc.state = .stopped
  held : w.trc.held = v.trc.held
  inFlight : w.clu.inFlight = v.clu.inFlight
  counters : w.tcb.relCounter = v.tcb.relCounter ∧ w.tcb.absPos = v.tcb.absPos ∧ w.tcb.exact = v.tcb.exact
  nearEnd : w.tcb.nearEnd = nearEndAt v.tcb.history v.speedInForce
  sources : w.tun = v.tun ∧ w.lpt = v.lpt ∧ w.cue = v.cue
  rest : w.sch = v.sch ∧ w.clk = v.clk ∧ w.sto = v.sto ∧ w.pins = v.pins

theorem isUserMode_of_takesOrder {t : Trc} (h : t.takesOrder) (hs : t.state ≠ .stopped) : t.state.isUserMode = true := by
  rcases h with e | e | e | e | e | e | e | e | e
  · exact absurd e hs
  all_goals rw [e]; rfl

theorem orderHalt_halts {v : State} (ht : v.trc.takesOrder) {h : Held} (hh : v.trc.held = some h) (h2 : h.code = 2) :
    Halted v (orderHalt (evalNearEnd v)) := by
  have recording : ∀ t : State, t.trc.held = some h → t.holds [codeRecord] = true := fun t e => by
    simp [State.holds, e, h2, codeRecord]
  have clu_tested : v.nearEndTested.clu.inFlight = v.clu.inFlight := by
    simp only [State.nearEndTested]
    split <;> rfl
  rw [evalNearEnd_eq]
  by_cases hs : v.trc.state = .stopped
  · have halted : orderHalt v.nearEndTested =
        { v.nearEndTested with trc := { v.trc with rewindDue := false } } := by
      simp [orderHalt, State.nearEndTested, hs, TState.isUserMode, State.setTrc]
    rw [halted]
    exact ⟨hs, rfl, clu_tested, ⟨rfl, rfl, rfl⟩, rfl, ⟨rfl, rfl, rfl⟩, ⟨rfl, rfl, rfl, rfl⟩⟩
  · have halted : orderHalt v.nearEndTested = v.nearEndTested.readCut.transportTo v.trc.stops := by
      have user : v.nearEndTested.trc.state.isUserMode = true := isUserMode_of_takesOrder ht hs
      unfold orderHalt
      rw [if_pos user, cutRead_eq, stopTape_eq]
      dsimp only
      rw [if_pos]
      · rw [State.readCut_trc]
        rfl
      · exact recording _ (by simp [State.transportTo, Trc.stops, Trc.noLimits, State.nearEndTested, hh])
    rw [halted]
    refine ⟨rfl, rfl, ?_, ⟨?_, ?_, ?_⟩, ?_, ⟨?_, ?_, ?_⟩, ⟨?_, ?_, ?_, ?_⟩⟩ <;>
      simp [State.transportTo, clu_tested, Tcb.closeWindow] <;> rfl

/-- RECORD takes tuner A: a view on it moves to tuner B (R94). -/
theorem grantRecord_displaces {w : State} {n : Nat} {ch : Channel} {f : Nat} {fine : Int}
    (hv : w.tun.view = some (n, .tunerA)) (hc : w.channel n = some ch) (ht : ch.tuning = .air f fine)
    (hb : w.tun.tunerB.owner = .none) (hr : w.tun.search.state ≠ .running) :
    grantRecord .air n w = ((w.tuned .b .view (some n) f fine (w.lineOf ch)).viewing (some (n, .tunerB))).tuned
      .a .record (some n) f fine (w.lineOf ch) := by
  have displaced : displaceViewFromA w = (w.tuned .b .view (some n) f fine (w.lineOf ch)).viewing (some (n, .tunerB)) := by
    unfold displaceViewFromA
    simp only [hv, hb, reduceCtorEq, if_false, suspendSearch, hr]
    rw [tuneChannel_air hc ht, setView_eq]
  rw [grantRecord, displaced]
  exact tuneChannel_air (s := (w.tuned .b .view (some n) f fine (w.lineOf ch)).viewing (some (n, .tunerB))) hc ht .a .record

/-- Two states with equal sources and options are tuned to equal sources. -/
theorem tuned_sources {v w : State} (h : w.tun = v.tun ∧ w.lpt = v.lpt ∧ w.cue = v.cue) (hs : w.sto = v.sto) (ch : Channel)
    (n f : Nat) (fine : Int) :
    let moved (s : State) : State := ((s.tuned .b .view (some n) f fine (s.lineOf ch)).viewing (some (n, .tunerB))).tuned
      .a .record (some n) f fine (s.lineOf ch)
    (moved w).tun = (moved v).tun ∧ (moved w).lpt = (moved v).lpt ∧ (moved w).cue = (moved v).cue := by
  obtain ⟨h1, h2, h3⟩ := h
  simp only [State.tuned, State.viewing, State.lineOf, h1, h2, h3, hs, and_self]

theorem exec_record_opens {s : State} {tag : Byte} {n : Nat} {ch : Channel} {f : Nat} {fine : Int} (hs : s.serves tag)
    (hf : s.tapeFree) (ht : s.trc.takesOrder) (hw : s.watchesNothing) (htab : s.pins.tab = .tabIn)
    (he : s.pins.endSensor = false) (hv : s.tun.view = some (n, .tunerA)) (hc : s.channel n = some ch)
    (ha : ch.tuning = .air f fine) (hb : s.tun.tunerB.owner = .none) (hr : s.tun.search.state ≠ .running) :
    let x := newSession none n .air none .manual none s.trc.speedSetting
    let v := (begun s tag s.clu 2).setSch { s.sch with session := some x }
    ∃ w, Halted v w ∧ Machine.exec (.record tag []) s =
      .next (((w.tuned .b .view (some n) f fine (w.lineOf ch)).viewing (some (n, .tunerB))).tuned
        .a .record (some n) f fine (w.lineOf ch)) := by
  intro x v
  have halted : Halted v (orderHalt (evalNearEnd v)) := orderHalt_halts (h := { id := s.clu.nextId, code := 2 }) ht rfl rfl
  refine ⟨_, halted, congrArg Host.Outcome.next ?_⟩
  obtain ⟨htun, hlpt, hcue⟩ := halted.sources
  have fresh : recordFresh (s.clu.cmd tag 2 []) { s with clu := s.clu.taken tag } = openManual n (begun s tag s.clu 2) := by
    have chosen : State.manualChannel { s with clu := s.clu.taken tag } = some n := by simp [State.manualChannel, hv]
    unfold recordFresh
    rw [if_neg (by simp [htab]), if_neg (by simp [he, ht.takesMotion]), chosen]
    exact holdTransport_free hf.2.2.1 hf.2.2.2 ..
  have source : (begun s tag s.clu 2).manualSource n = .air := by
    have hc' : (begun s tag s.clu 2).channel n = some ch := hc
    simp [State.manualSource, hc', Channel.isExt, ha]
  have granted := grantRecord_displaces (w := orderHalt (evalNearEnd v)) (n := n) (ch := ch) (f := f) (fine := fine)
    (by rw [htun]; exact hv) (by rw [State.channel, htun]; exact hc) ha (by rw [htun]; exact hb) (by rw [htun]; exact hr)
  rw [transport_free hs hf ht, noArgs_nil, recordOp]
  simp only [hf.2.1]
  rw [fresh, openManual, source]
  show reassessWatch (grantRecord .air n (orderHalt (evalNearEnd v))) = _
  rw [granted]
  refine reassessWatch_nothing ?_
  have watched : (orderHalt (evalNearEnd v)).sch = v.sch := halted.rest.1
  refine ⟨?_, ?_⟩ <;> simp only [State.tuned, State.viewing, watched]
  · exact hw.1
  · exact hw.2

/-- RECORD reaches its rule without a session, and with one (R5, R14). -/
theorem record_reached {s : State} {tag : Byte} (hs : s.serves tag) (hp : s.sto.power = .on)
    (ht : s.trc.takesOrder ∨ s.trc.state = .record) :
    takeCommand tag 2 [] (trcCommand (noArgs recordOp)) s =
      recordOp (s.clu.cmd tag 2 []) { s with clu := s.clu.taken tag } := by
  have passed : trcCheck 2 { s with clu := s.clu.taken tag } = none := by
    rcases ht with (e | e | e | e | e | e | e | e | e) | e <;> simp [trcCheck, hp, e]
  rw [transport_reached hs 2 passed, noArgs_nil]

/-- Settles O17. -/
theorem recordOpensAManualSessionOrIsRefused : Obligations.RecordOpensAManualSessionOrIsRefused := by
  refine ⟨fun tag n ch f fine s hs hf ht hw htab he hv hc ha hb hr => ?_, fun tag s hs hp => ⟨fun hn ht => ⟨fun htab => ?_,
    fun htab h => ?_⟩, fun x hx hst ht => ?_⟩⟩
  · obtain ⟨w, halted, h⟩ := exec_record_opens hs hf ht hw htab he hv hc ha hb hr
    obtain ⟨hsch, hclk, hsto, hpins⟩ := halted.rest
    obtain ⟨hrel, habs, hexact⟩ := halted.counters
    have moved := tuned_sources halted.sources hsto ch n f fine
    exact ⟨_, h, ⟨_, hsch, rfl, rfl, rfl, rfl, rfl, rfl, rfl, rfl, rfl, rfl⟩, halted.state, halted.held, halted.inFlight,
      moved, hrel, habs, hexact, halted.nearEnd, hclk, hsto, hpins⟩
  · refine congrArg Host.Outcome.next ?_
    rw [record_reached hs hp (.inl ht)]
    simp only [recordOp, hn, recordFresh]
    rw [if_pos htab, refuse_taken hs.1.1]
  · refine congrArg Host.Outcome.next ?_
    rw [record_reached hs hp (.inl ht)]
    simp only [recordOp, hn, recordFresh]
    rw [if_neg (by simp [htab])]
    rcases h with he | ⟨hv, hc⟩
    · rw [if_pos (.inl he), refuse_taken hs.1.1]
    · have nothing : State.manualChannel { s with clu := s.clu.taken tag } = none := by simp [State.manualChannel, hv, hc]
      split
      · rw [refuse_taken hs.1.1]
      · rw [nothing]
        exact refuse_taken hs.1.1 ..
  · refine congrArg Host.Outcome.next ?_
    rw [record_reached hs hp ht]
    simp only [recordOp, hx]
    rw [if_neg (fun h => by simp [Session.pausedManual, hst] at h), if_neg (fun h => hst h.1), refuse_taken hs.1.1]

/-! ### SET SPEED and ZERO COUNTER: O18 -/

/-- A DONE after the near-end test of a state whose command has just been taken (R44). -/
theorem done_nearEndTested {s : State} {tag : Byte} (hs : s.ControlPathSound) {t : State} (hc : t.clu = s.clu) (code : Nat)
    (args : List Byte) :
    done (s.clu.cmd tag code args) (State.nearEndTested { t with clu := s.clu.taken tag }) =
      { t.nearEndTested with clu := t.nearEndTested.clu.answered tag code .done .none [] } := by
  have tested : State.nearEndTested { t with clu := s.clu.taken tag } = { t.nearEndTested with
      clu := if nearEndAt t.tcb.history t.speedInForce && !t.tcb.nearEnd then
        { s.clu.taken tag with sticky := s.clu.sticky ||| Sticky.nearEnd.mask } else s.clu.taken tag } := rfl
  have told : t.nearEndTested.clu = if nearEndAt t.tcb.history t.speedInForce && !t.tcb.nearEnd then
      { t.clu with sticky := t.clu.sticky ||| Sticky.nearEnd.mask } else t.clu := rfl
  rw [tested, told, hc]
  split
  · exact (reply_taken_sticky hs rfl code args .done .none []).trans rfl
  · exact (reply_taken hs rfl code args .done .none []).trans rfl

theorem comparesCounter_iff (t : Trc) : t.comparesCounter = true ↔ t.state = .lockup ∨ t.state = .recordPause ∨
    (t.state = .locate ∧ ∃ l, t.locate = some l ∧ l.kind = .counter) := by
  unfold Trc.comparesCounter
  cases t.locate <;> simp [or_assoc]

/-- Settles O18. -/
theorem speedAndCounterCommands : Obligations.SpeedAndCounterCommands := by
  intro tag s hs
  refine ⟨fun b speed hb => congrArg Host.Outcome.next ?_, fun args h1 h2 => congrArg Host.Outcome.next ?_,
    fun hb => congrArg Host.Outcome.next ?_, fun hb => congrArg Host.Outcome.next ?_⟩
  · rw [takeCommand_serves hs]
    rcases hb with ⟨rfl, rfl⟩ | ⟨rfl, rfl⟩
    · simp only [setSpeedOp, Clu.cmd_args, if_true, evalNearEnd_eq]
      exact done_nearEndTested hs.1.1 (t := { s with trc := { s.trc with speedSetting := .one } }) rfl 12 [1]
    · rw [setSpeedOp, if_neg (by simp), Clu.cmd_args, if_pos rfl, evalNearEnd_eq]
      exact done_nearEndTested hs.1.1 (t := { s with trc := { s.trc with speedSetting := .two } }) rfl 12 [2]
  · rw [takeCommand_serves hs, setSpeedOp, if_neg (by exact h1), if_neg (by exact h2), refuse_taken hs.1.1]
  · rw [takeCommand_serves hs, noArgs_nil, zeroCounterOp, if_pos ((comparesCounter_iff _).2 hb), refuse_taken hs.1.1]
  · rw [takeCommand_serves hs, noArgs_nil, zeroCounterOp, if_neg (fun h => hb ((comparesCounter_iff _).1 h)),
      reply_taken hs.1.1 rfl]
    rfl

end Sys2Proof.Proofs.RecordOrders
end

section
/-! PROOFS. Marking a record looks at the records and at the store alone, and changes the store alone (R188, R189). -/

namespace Sys2Proof.Proofs.Marking
open Sys2Proof.Machine

/-- Two states hold the same records, and the same store. -/
structure SameRecords (s t : State) : Prop where
  sto : t.sto = s.sto
  channels : t.tun.channels = s.tun.channels
  irProfile : t.tun.irProfile = s.tun.irProfile
  profiles : t.tcb.profiles = s.tcb.profiles
  timers : ∀ k, (t.timer k).defn = (s.timer k).defn

variable {s t : State}

theorem recordContent_same (h : SameRecords s t) (m : RecordName) : recordContent t m = recordContent s m := by
  cases m with
  | channel i => simp only [recordContent, State.channel, h.channels]
  | timer i => simp only [recordContent, h.timers]
  | profile i => simp only [recordContent, State.profile, h.profiles]
  | irProfile => simp only [recordContent, h.irProfile]
  | options => simp only [recordContent, h.sto]

theorem SameRecords.setSto (h : SameRecords s t) (x : Sto) : SameRecords (s.setSto x) (t.setSto x) :=
  ⟨rfl, h.channels, h.irProfile, h.profiles, h.timers⟩

theorem startWrite_same (h : SameRecords s t) : startWrite t = t.setSto (startWrite s).sto := by
  have off : t.asleep = s.asleep ∧ t.starting = s.starting := by simp [State.asleep, State.starting, h.sto]
  have same : t.setSto s.sto = t := by rw [← h.sto]; rfl
  unfold startWrite
  rw [off.1, off.2, h.sto]
  split
  · exact same.symm
  · cases s.sto.pendingWrites with
    | nil => exact same.symm
    | cons name rest =>
      dsimp only
      rw [recordContent_same h]
      rfl

theorem markRecord_same (h : SameRecords s t) (name : RecordName) : markRecord name t = t.setSto (markRecord name s).sto := by
  unfold markRecord
  rw [h.sto]
  by_cases hn : name ∈ s.sto.pendingWrites
  · rw [if_pos hn, if_pos hn]
    exact startWrite_same h
  · rw [if_neg hn, if_neg hn]
    exact startWrite_same (h.setSto _)

/-- A marked record changes the store alone. -/
theorem markRecord_frame (name : RecordName) (s : State) : markRecord name s = s.setSto (markRecord name s).sto :=
  markRecord_same ⟨rfl, rfl, rfl, rfl, fun _ => rfl⟩ name

end Sys2Proof.Proofs.Marking
end

section
/-! PROOFS. The cassette profiles: STAGE, COMMIT, READ and SET PROFILE (R34 to R37). -/

namespace Sys2Proof.Proofs.Profiles
open Sys2Proof.Machine Sys2Proof.Proofs.Marking

section
variable {s : State} {tag : Byte}

/-! ### STAGE PROFILE -/

theorem stageProfile_header (hs : s.serves tag) {index : Byte} (code : Byte) (hi : index.toNat ≤ 7) :
    Machine.exec (.stageProfile tag [0, index, code]) s = .next { s with
      tcb := { s.tcb with staging := { header := some (index.toNat, code.toNat), slots := List.replicate 33 none } }
      clu := s.clu.answered tag 14 .done .none [] } := by
  refine congrArg Host.Outcome.next ?_
  rw [takeCommand_serves hs]
  simp only [stageProfileOp, Clu.cmd_args, stageProfilePart]
  rw [if_neg (by decide), if_pos (show (0 : Byte).toNat = 0 from rfl), if_neg (by omega)]
  exact done_taken hs.1.1 rfl 14 _

/-- A part of 1 to 8 with as many points as it holds is filed in its slots (R34). -/
theorem stageProfile_part (hs : s.serves tag) {part : Byte} {points : List Nat} (hh : s.tcb.staging.header.isSome)
    (h1 : 1 ≤ part.toNat) (h8 : part.toNat ≤ 8) (hl : points.length = (partSlots part.toNat).2)
    (hp : ∀ x ∈ points, x < 16777216) :
    Machine.exec (.stageProfile tag (part :: (points.map bytes3).flatten)) s = .next { s with
      tcb := { s.tcb with staging := stagePoints part.toNat points s.tcb.staging }
      clu := s.clu.answered tag 14 .done .none [] } := by
  have header : s.tcb.staging.header.isNone = false := Option.isNone_eq_false_iff.2 hh
  refine congrArg Host.Outcome.next ?_
  rw [takeCommand_serves hs]
  simp only [stageProfileOp, Clu.cmd_args, stageProfilePart]
  rw [if_neg (by omega), if_neg (by omega), if_neg (by rw [pointBytes_length, hl]; simp), if_neg (by simp [header]),
    parsePoints_bytes3 points hp]
  exact done_taken hs.1.1 rfl 14 _

theorem partSlots_of_byte {part : Byte} :
    partSlots part.toNat = if part = 1 then (0, 5) else (4 * part.toNat - 3, 4) := by
  have one : part.toNat = 1 ↔ part = 1 := ⟨fun h => BitVec.eq_of_toNat_eq h, fun h => by rw [h]; rfl⟩
  simp only [partSlots, one]

theorem partSlots_fit {p : Nat} (h1 : 1 ≤ p) (h8 : p ≤ 8) : (partSlots p).1 + (partSlots p).2 ≤ 33 := by
  unfold partSlots
  split <;> simp only <;> omega

/-- The staging slots after a part was filed. -/
theorem stagePoints_get {p : Nat} {points : List Nat} {x : ProfileStaging} (hx : x.slots.length = 33)
    (hf : (partSlots p).1 + points.length ≤ 33) (j : Nat) :
    (stagePoints p points x).slots[j]? =
      if (partSlots p).1 ≤ j ∧ j < (partSlots p).1 + points.length then some (points[j - (partSlots p).1]?)
      else x.slots[j]? := by
  generalize hk : (partSlots p).1 = first at *
  have taken : (x.slots.take first).length = first := by rw [List.length_take]; omega
  simp only [stagePoints, hk, List.append_assoc]
  by_cases h1 : j < first
  · rw [List.getElem?_append_left (by omega), List.getElem?_take, if_pos h1, if_neg (by omega)]
  · rw [List.getElem?_append_right (by omega), taken]
    by_cases h2 : j < first + points.length
    · rw [List.getElem?_append_left (by simp; omega), if_pos ⟨by omega, h2⟩, List.getElem?_map,
        List.getElem?_eq_getElem (by omega)]
      rfl
    · rw [List.getElem?_append_right (by simp; omega), if_neg (by omega), List.getElem?_drop, List.length_map]
      congr 1
      omega

/-! ### COMMIT PROFILE -/

theorem pointsInRange_of {points : List Nat} (hl : points.length = 33) (h0 : points.getD 0 0 ≤ 450000)
    (hm : ∀ k, k < 32 → points.getD (k + 1) 0 ≤ points.getD k 0) : pointsInRange points = true := by
  simp only [pointsInRange, Bool.and_eq_true, decide_eq_true_eq, List.all_eq_true, List.mem_range, hl]
  exact ⟨h0, fun k hk => hm k hk⟩

/-- The state after COMMIT PROFILE, but for its reply: the profile written, the staging record empty, and for the selected
profile the history cleared; then the record is marked. -/
def profileCommitted (s : State) (index code : Nat) (points : List Nat) : State :=
  markRecord (.profile index) { s with
    tcb := { s.tcb with
      profiles := s.tcb.profiles.set index { valid := true, code := code, points := points }
      staging := { header := none, slots := List.replicate 33 none }
      history := if s.tcb.selected = index then [] else s.tcb.history
      nearEnd := if s.tcb.selected = index then false else s.tcb.nearEnd }
    sch := { s.sch with settledFigure := if s.tcb.selected = index then none else s.sch.settledFigure } }

/-- The history may be cleared before the record is marked. -/
theorem clearHistory_marked (s : State) (index code : Nat) (points : List Nat) (c : Clu) :
    (let u := setProfileEntry index { valid := true, code := code, points := points } { s with clu := c }
     let v := markRecord (.profile index) (u.setTcb { u.tcb with staging := ProfileStaging.empty })
     if s.tcb.selected = index then clearHistory v else v) =
      { profileCommitted s index code points with clu := c } := by
  dsimp only
  unfold profileCommitted
  let w : State := { s with
    tcb := { s.tcb with
      profiles := s.tcb.profiles.set index { valid := true, code := code, points := points }
      staging := { header := none, slots := List.replicate 33 none } } }
  have here := markRecord_same (s := w) (t := { w with clu := c }) ⟨rfl, rfl, rfl, rfl, fun _ => rfl⟩ (.profile index)
  by_cases h : s.tcb.selected = index
  · have there := markRecord_same (s := w) (t := clearHistory w) ⟨rfl, rfl, rfl, rfl, fun _ => rfl⟩ (.profile index)
    simp only [if_pos h]
    refine (congrArg clearHistory here).trans (Eq.trans ?_ (congrArg (fun x : State => { x with clu := c }) there.symm))
    rfl
  · have there := markRecord_same (s := w) (t := w) ⟨rfl, rfl, rfl, rfl, fun _ => rfl⟩ (.profile index)
    simp only [if_neg h]
    exact here.trans (congrArg (fun x : State => { x with clu := c }) there.symm)

theorem commitProfile_done (hs : s.serves tag) {index code : Nat} {points : List Nat}
    (hh : s.tcb.staging.header = some (index, code)) (hsl : s.tcb.staging.slots = points.map some)
    (hr : pointsInRange points = true) :
    Machine.exec (.commitProfile tag []) s =
      .next { profileCommitted s index code points with clu := s.clu.answered tag 15 .done .none [] } := by
  have filled : ¬ s.tcb.staging.slots.any Option.isNone = true := by simp [hsl]
  have read : s.tcb.staging.slots.map (fun x => x.getD 0) = points := by simp [hsl]
  have committed := clearHistory_marked s index code points (s.clu.taken tag)
  refine congrArg Host.Outcome.next ?_
  rw [takeCommand_serves hs, noArgs_nil, commitProfileOp]
  simp only [hh]
  rw [if_neg filled, read, if_neg (by simp [hr])]
  refine (congrArg (done _) committed).trans ?_
  exact done_taken hs.1.1 rfl 15 []

theorem commitProfile_incomplete (hs : s.serves tag) (h : s.tcb.staging.header = none ∨ none ∈ s.tcb.staging.slots) :
    Machine.exec (.commitProfile tag []) s = .next { s with clu := s.clu.answered tag 15 .refused .incomplete [] } := by
  refine congrArg Host.Outcome.next ?_
  rw [takeCommand_serves hs, noArgs_nil, commitProfileOp]
  cases hh : s.tcb.staging.header with
  | none => exact refuse_taken hs.1.1 ..
  | some p =>
    have missing : s.tcb.staging.slots.any Option.isNone = true :=
      List.any_eq_true.2 ⟨none, h.resolve_left (by simp [hh]), rfl⟩
    dsimp only
    rw [if_pos missing]
    exact refuse_taken hs.1.1 ..

/-! ### READ PROFILE and SET PROFILE -/

theorem readProfile_head (hs : s.serves tag) {index : Byte} (hi : index.toNat ≤ 7) {x : Profile}
    (hx : s.tcb.profiles[index.toNat]? = some x) :
    Machine.exec (.readProfile tag [index, 0]) s = .next { s with clu := s.clu.answered tag 16 .done .none <|
      [index, if x.valid then 1 else 0, Byte.ofNat x.code, if s.tcb.selected = index.toNat then 1 else 0] } := by
  have entry : State.profile { s with clu := s.clu.taken tag } index.toNat = x := by simp [State.profile, List.getD, hx]
  refine congrArg Host.Outcome.next ?_
  rw [takeCommand_serves hs]
  simp only [readProfileOp, Clu.cmd_args]
  rw [if_neg (by simp; omega), if_pos trivial, entry, reply_taken hs.1.1 rfl]
  simp [flagByte]

theorem readProfile_part (hs : s.serves tag) {index part : Byte} (hi : index.toNat ≤ 7) {x : Profile}
    (hx : s.tcb.profiles[index.toNat]? = some x) (h1 : 1 ≤ part.toNat) (h8 : part.toNat ≤ 8) :
    Machine.exec (.readProfile tag [index, part]) s = .next { s with clu := s.clu.answered tag 16 .done .none <|
      ((if part = 1 then x.points.take 5 else (x.points.drop (4 * part.toNat - 3)).take 4).map bytes3).flatten } := by
  have entry : State.profile { s with clu := s.clu.taken tag } index.toNat = x := by simp [State.profile, List.getD, hx]
  have nonzero : part ≠ 0 := by rintro rfl; exact absurd h1 (by decide)
  refine congrArg Host.Outcome.next ?_
  rw [takeCommand_serves hs]
  simp only [readProfileOp, Clu.cmd_args]
  rw [if_neg (by omega), if_neg nonzero, entry, reply_taken hs.1.1 rfl, Profile.part, partSlots_of_byte, pointBytes]
  by_cases hp : part = 1
  · rw [if_pos hp, if_pos hp, List.drop_zero]
  · rw [if_neg hp, if_neg hp]

theorem setProfile_selects (hs : s.serves tag) {index : Byte} (hi : index.toNat ≤ 7) :
    let t : State :=
      if s.tcb.selected = index.toNat then s
      else { s with
        tcb := { s.tcb with selected := index.toNat, history := [], nearEnd := false }
        sch := { s.sch with settledFigure := none } }
    Machine.exec (.setProfile tag [index]) s = .next { t with
      dir := if s.trc.state.isThreaded ∧ s.dir.state ≠ .unknown ∧ s.dir.headerProfile ≠ index.toNat then
               { s.dir with headerProfile := index.toNat, dirty := true, changed := true }
             else s.dir
      clu := s.clu.answered tag 17 .done .none [] } := by
  intro t
  have selected : selectProfile index.toNat { s with clu := s.clu.taken tag } = { t with clu := s.clu.taken tag } := by
    unfold selectProfile
    by_cases h : s.tcb.selected = index.toNat
    · rw [if_pos h]
      simp [t, h]
    · rw [if_neg h]
      simp [t, h, clearHistory, State.setTcb, State.setSch]
  have same : t.trc = s.trc ∧ t.dir = s.dir := by
    by_cases h : s.tcb.selected = index.toNat <;> simp [t, h]
  refine congrArg Host.Outcome.next ?_
  rw [takeCommand_serves hs]
  simp only [setProfileOp, Clu.cmd_args, oneByte]
  rw [if_neg (by omega), selected]
  by_cases ht : s.trc.state.isThreaded = true
  · rw [if_pos (by exact ht), headerFollows]
    by_cases hd : s.dir.state ≠ .unknown ∧ s.dir.headerProfile ≠ index.toNat
    · rw [if_pos (by rw [same.2]; exact hd), if_pos ⟨ht, hd⟩]
      refine (done_taken hs.1.1 rfl 17 _).trans ?_
      simp [State.setDir, same.2]
    · rw [if_neg (by rw [same.2]; exact hd), if_neg (fun h => hd h.2)]
      refine (done_taken hs.1.1 rfl 17 _).trans ?_
      simp [same.2]
  · rw [if_neg (by exact ht), if_neg (fun h => ht h.1)]
    refine (done_taken hs.1.1 rfl 17 _).trans ?_
    simp [same.2]

end

/-- Settles O19. -/
theorem profilesAreStagedReadAndSelected : Obligations.ProfilesAreStagedReadAndSelected := by
  refine ⟨fun tag s hs => ⟨fun index code hi => stageProfile_header hs code hi,
    fun part points hh h1 h8 hl hp hsl => ?_, fun index code points hh hsl hl h0 hm => ?_,
    commitProfile_incomplete hs⟩, fun tag index s hs hi _ => ⟨fun x hx => ⟨readProfile_head hs hi hx,
      fun part h1 h8 => readProfile_part hs hi hx h1 h8⟩, setProfile_selects hs hi⟩⟩
  · have slots : partSlots part.toNat = _ := partSlots_of_byte
    have count : points.length = (partSlots part.toNat).2 := by rw [slots, hl]; split <;> rfl
    have first : (partSlots part.toNat).1 = if part = 1 then 0 else 4 * part.toNat - 3 := by rw [slots]; split <;> rfl
    refine ⟨_, stageProfile_part hs hh h1 h8 count hp, rfl, rfl, ?_⟩
    rw [← first]
    exact stagePoints_get hsl (by rw [count]; exact partSlots_fit h1 h8)
  · exact commitProfile_done hs hh hsl (pointsInRange_of hl h0 hm)

end Sys2Proof.Proofs.Profiles
end

section
/-! PROOFS. READ ENTRY and DELETE ENTRY (R60). -/

namespace Sys2Proof.Proofs.Entries
open Sys2Proof.Machine

section
variable {s : State} {tag k : Byte}

/-- A read command whose rule refuses is refused with that reason; it is not served while the store is read. -/
theorem readEntry_refused (ht : s.takes tag) {r : Reason}
    (h : owned readEntryOp (s.clu.cmd tag 18 [k]) { s with clu := s.clu.taken tag } =
      refuse (s.clu.cmd tag 18 [k]) r { s with clu := s.clu.taken tag }) :
    Machine.exec (.readEntry tag [k]) s = .next { s with clu := s.clu.answered tag 18 .refused r [] } := by
  refine congrArg Host.Outcome.next ?_
  rw [takeCommand_takes ht, h, refuse_taken ht.1]

theorem deleteEntry_refused (ht : s.takes tag) {r : Reason}
    (h : owned deleteEntryOp (s.clu.cmd tag 19 [k]) { s with clu := s.clu.taken tag } =
      refuse (s.clu.cmd tag 19 [k]) r { s with clu := s.clu.taken tag }) :
    Machine.exec (.deleteEntry tag [k]) s = .next { s with clu := s.clu.answered tag 19 .refused r [] } := by
  refine congrArg Host.Outcome.next ?_
  rw [takeCommand_takes ht, h, refuse_taken ht.1]

theorem owned_starting (h : s.starting = true) (op : Cmd → State → State) (c : Cmd) :
    owned op c s = refuse c .starting s := if_pos h

/-! ### The checks -/

theorem readEntryOp_above {c : Cmd} (hc : c.args = [k]) (h : 24 < k.toNat) : readEntryOp c s = refuse c .range s := by
  simp only [readEntryOp, hc, oneByte]
  exact if_pos h

theorem deleteEntryOp_above {c : Cmd} (hc : c.args = [k]) (h : 24 < k.toNat ∨ k.toNat = 0) :
    deleteEntryOp c s = refuse c .range s := by
  simp only [deleteEntryOp, hc, oneByte]
  exact if_pos h

theorem readEntryOp_unknown {c : Cmd} (hc : c.args = [k]) (h0 : k.toNat ≠ 0) (h : k.toNat ≤ 24)
    (hd : s.dir.state = .unknown) : readEntryOp c s = refuse c .state s := by
  simp only [readEntryOp, hc, oneByte]
  rw [if_neg (by omega), if_neg h0, if_pos hd]

theorem deleteEntryOp_unknown {c : Cmd} (hc : c.args = [k]) (h0 : k.toNat ≠ 0) (h : k.toNat ≤ 24)
    (hd : s.dir.state = .unknown) : deleteEntryOp c s = refuse c .state s := by
  simp only [deleteEntryOp, hc, oneByte]
  rw [if_neg (by omega), if_pos hd]

/-- READ ENTRY of a known directory: its entry, or RANGE. -/
theorem readEntryOp_known {c : Cmd} (hc : c.args = [k]) (h0 : k.toNat ≠ 0) (h : k.toNat ≤ 24)
    (hd : s.dir.state ≠ .unknown) : readEntryOp c s = match s.dir.image[k.toNat - 1]? with
      | none => refuse c .range s
      | some e => reply c .done .none (entryResult e) s := by
  simp only [readEntryOp, hc, oneByte, State.entry]
  rewrite [if_neg (by omega), if_neg h0, if_neg hd, if_neg h0]
  rfl

/-- DELETE ENTRY of a known directory: the entry removed, or the first of its checks (R60). -/
theorem deleteEntryOp_known {c : Cmd} (hc : c.args = [k]) (h0 : k.toNat ≠ 0) (h : k.toNat ≤ 24)
    (hd : s.dir.state ≠ .unknown) : deleteEntryOp c s = match s.dir.image[k.toNat - 1]? with
      | none => refuse c .range s
      | some e =>
        if s.trc.state = .dirWrite ∨ s.trc.state = .unloading then refuse c .busy s
        else if s.pins.tab = .tabOut then refuse c .writeProtected s
        else if e.length = none then refuse c .running s
        else done c (s.withImage (s.dir.image.eraseIdx (k.toNat - 1))) := by
  have opened : ∀ e : DirEntry, e.isOpen = true ↔ e.length = none := fun e => by simp [DirEntry.isOpen]
  have changed : ∀ image, setImage image s = s.withImage image := fun image => by
    unfold setImage State.withImage
    cases hx : s.sch.session <;> simp [modSession, hx, State.setSch, State.setDir, openNumber]
    rfl
  simp only [deleteEntryOp, hc, oneByte, State.entry]
  rw [if_neg (by omega), if_neg hd, if_neg h0]
  simp only [opened, changed, removeEntry] <;> rfl

/-! ### The results -/

/-- The summary of the directory (section 13.6; log 14). -/
theorem dirSummary_eq (d : Dir) : dirSummary d =
    [(match d.state with | .unknown => 0 | .blank => 1 | .valid => 2 | .damaged => 3 : Byte),
     Byte.ofNat d.image.length, Byte.ofNat (((d.image.findIdx? fun e => e.length.isNone).map (· + 1)).getD 0),
     Byte.ofNat d.headerProfile, Byte.ofNat d.generation, if d.dirty then 1 else 0] := by
  have code : Byte.ofNat d.state.code = match d.state with | .unknown => 0 | .blank => 1 | .valid => 2 | .damaged => 3 := by
    cases d.state <;> rfl
  rw [dirSummary, code]
  rfl

/-- The result of one entry (sections 13.4 and 13.6). -/
theorem entryResult_eq (e : DirEntry) : entryResult e =
    (let l := e.label.getD { day := 0, month := 0, hour := 0, minute := 0 }
     let reasons := [EndReason.done, .doneLabel, .doneOverrun, .userStop, .tapeEnd, .transport, .pauseLimit, .dew, .mains,
       .deleted, .failedStart, .clock, .overlap, .late, .noCassette, .writeProtected]
     bytes3 e.start ++ bytes3 (e.length.getD 0) ++ bytes3 (e.switchFrame.getD 0) ++
     [Byte.ofNat e.source,
      Byte.ofNat (e.origin.getD 16 + (if e.firstSpeed = .two then 32 else 0) + (if e.network.isSome then 64 else 0)),
      Byte.ofNat ((match e.endedBy with | none => 0 | some r => reasons.idxOf r + 1) + 16 * l.month)] ++
     bytes2 (e.network.getD 0) ++ bytes2 (l.day * 2048 + l.hour * 64 + l.minute) ++
     (match e.recordedAt with
      | none => [0, 0, 0, 0, 0]
      | some t => [Byte.ofNat t.date.day, Byte.ofNat t.date.month, Byte.ofNat t.date.year, Byte.ofNat t.hour,
          Byte.ofNat t.minute]) ++
     [if e.length = none then 1 else 0]) := by
  have origin : originCode e.origin = e.origin.getD 16 := by cases e.origin <;> rfl
  have open_ : flagByte e.isOpen = if e.length = none then 1 else 0 := by
    cases h : e.length <;> simp [DirEntry.isOpen, flagByte, h]
  unfold entryResult DirEntry.slot
  rw [origin, open_]
  rfl

end

/-- Settles O21, check by check. -/
theorem entriesAreReadAndDeleted : Obligations.EntriesAreReadAndDeleted := by
  intro tag k s ht read delete readRefused deleteRefused
  have zero : k = 0 ↔ k.toNat = 0 := ⟨fun h => by rw [h]; rfl, fun h => BitVec.eq_of_toNat_eq h⟩
  have refusedBoth : ∀ r : Reason,
      owned readEntryOp (s.clu.cmd tag 18 [k]) { s with clu := s.clu.taken tag } =
        refuse (s.clu.cmd tag 18 [k]) r { s with clu := s.clu.taken tag } →
      owned deleteEntryOp (s.clu.cmd tag 19 [k]) { s with clu := s.clu.taken tag } =
        refuse (s.clu.cmd tag 19 [k]) r { s with clu := s.clu.taken tag } → readRefused r ∧ deleteRefused r :=
    fun r h1 h2 => ⟨readEntry_refused ht h1, deleteEntry_refused ht h2⟩
  refine ⟨fun h => refusedBoth _ (owned_starting (s := { s with clu := s.clu.taken tag }) h ..)
    (owned_starting (s := { s with clu := s.clu.taken tag }) h ..), fun h => ?_⟩
  have served : ∀ op c, owned op c ({ s with clu := s.clu.taken tag } : State) = op c { s with clu := s.clu.taken tag } :=
    owned_serves (s := { s with clu := s.clu.taken tag }) h
  simp only [served] at refusedBoth
  refine ⟨fun hk => refusedBoth _ (readEntryOp_above rfl hk) (deleteEntryOp_above rfl (.inl hk)), fun hk => ⟨?_, ?_⟩,
    fun h0 hk hd => ?_, fun hk hd hl => ?_, fun e h0 hk hd he => ?_⟩
  · refine congrArg Host.Outcome.next ?_
    rw [takeCommand_takes ht, served]
    simp only [readEntryOp, Clu.cmd_args, oneByte]
    rewrite [if_neg (by rw [hk]; decide), if_pos (zero.1 hk), reply_taken ht.1 rfl, dirSummary_eq]
    rfl
  · exact deleteEntry_refused ht ((served ..).trans (deleteEntryOp_above rfl (.inr (zero.1 hk))))
  · have h0' := fun h => h0 (zero.2 h)
    exact refusedBoth _ (readEntryOp_unknown rfl h0' hk hd) (deleteEntryOp_unknown rfl h0' hk hd)
  · have h0' : k.toNat ≠ 0 := by omega
    have none_ : s.dir.image[k.toNat - 1]? = none := List.getElem?_eq_none (by omega)
    refine refusedBoth _ ((readEntryOp_known (s := { s with clu := s.clu.taken tag }) rfl h0' hk hd).trans ?_)
      ((deleteEntryOp_known (s := { s with clu := s.clu.taken tag }) rfl h0' hk hd).trans ?_) <;> simp only [none_]
  · have h0' := fun h => h0 (zero.2 h)
    refine ⟨congrArg Host.Outcome.next ?_, ?_⟩
    · rw [takeCommand_takes ht, served, readEntryOp_known (s := { s with clu := s.clu.taken tag }) rfl h0' hk hd]
      simp only [he]
      rewrite [reply_taken ht.1 rfl, entryResult_eq]
      rfl
    · have ruled := (served deleteEntryOp (s.clu.cmd tag 19 [k])).trans
        (deleteEntryOp_known (s := { s with clu := s.clu.taken tag }) rfl h0' hk hd)
      simp only [he] at ruled
      split
      · rename_i hb
        exact deleteEntry_refused ht (ruled.trans (if_pos hb))
      · rename_i hb
        replace ruled := ruled.trans (if_neg hb)
        split
        · rename_i hp
          exact deleteEntry_refused ht (ruled.trans (if_pos hp))
        · rename_i hp
          replace ruled := ruled.trans (if_neg hp)
          split
          · rename_i ho
            exact deleteEntry_refused ht (ruled.trans (if_pos ho))
          · rename_i ho
            replace ruled := ruled.trans (if_neg ho)
            refine congrArg Host.Outcome.next ?_
            rw [takeCommand_takes ht, ruled]
            exact done_taken ht.1 rfl 19 [k]

end Sys2Proof.Proofs.Entries
end

section
/-! PROOFS. A directory copy that is written is read back (R47, R48, R50, R61). -/

namespace Sys2Proof.Proofs.Copies
open Sys2Proof.Machine

/-! ### Bytes of numbers -/

theorem ofNat_toNat_mod (n : Nat) : (Byte.ofNat n).toNat = n % 256 := by simp [Byte.ofNat]

theorem three_bytes {n : Nat} (h : n ≤ 899999) : (n / 65536 % 256 * 256 + n / 256 % 256) * 256 + n % 256 = n := by omega

theorem two_bytes {n : Nat} (h : n < 65536) : n / 256 % 256 * 256 + n % 256 = n := by omega

/-! ### One slot (section 13.4) -/

/-- The byte of an entry's origin and its two flags. -/
def flagsOf (e : DirEntry) : Nat :=
  originCode e.origin + (if e.firstSpeed = .two then 32 else 0) + (if e.network.isSome then 64 else 0)

/-- The label of an entry, all zero for none. -/
def labelOf (e : DirEntry) : Label := e.label.getD { day := 0, month := 0, hour := 0, minute := 0 }

/-- The word of a label's day, hour and minute. -/
def dayWord (e : DirEntry) : Nat := (labelOf e).day * 2048 + (labelOf e).hour * 64 + (labelOf e).minute

/-- What the numbers read from an entry's slot are. -/
structure SlotReads (e : DirEntry) : Prop where
  start : numAt e.slot 1 3 = e.start
  length : numAt e.slot 4 3 = e.length.getD 0
  switchFrame : numAt e.slot 7 3 = e.switchFrame.getD 0
  source : byteAt e.slot 10 = e.source
  flags : byteAt e.slot 11 = flagsOf e
  reason : byteAt e.slot 12 = reasonCode e.endedBy + 16 * (labelOf e).month
  network : numAt e.slot 13 2 = e.network.getD 0
  word : numAt e.slot 15 2 = dayWord e

section
variable {e : DirEntry} (h : e.FitsSlot)
include h

theorem originCode_le : originCode e.origin ≤ 16 := by
  obtain ⟨-, -, -, -, -, -, -, horigin, -⟩ := h
  cases ho : e.origin with
  | none => exact Nat.le_refl _
  | some k => exact Nat.le_of_lt (horigin k ho)

theorem flagsOf_lt : flagsOf e < 128 := by
  have := originCode_le h
  unfold flagsOf
  split <;> split <;> omega

theorem labelOf_bounds : (labelOf e).day ≤ 31 ∧ (labelOf e).month ≤ 12 ∧ (labelOf e).hour ≤ 23 ∧ (labelOf e).minute ≤ 59 ∧
    ((labelOf e).day = 0 ↔ e.label = none) ∧ ((labelOf e).month = 0 ↔ e.label = none) := by
  obtain ⟨-, -, -, -, -, -, -, -, hlabel, -⟩ := h
  unfold labelOf
  cases hl : e.label with
  | none => simp
  | some l =>
    obtain ⟨h1, h2, h3, h4, h5, h6⟩ := hlabel l hl
    simp only [Option.getD_some, reduceCtorEq, iff_false]
    omega

theorem reasonCode_bounds : 1 ≤ reasonCode e.endedBy ∧ reasonCode e.endedBy ≤ 11 ∧
    reasonOfCode (reasonCode e.endedBy) = e.endedBy := by
  obtain ⟨-, -, -, -, -, -, -, -, -, r, hr, hm⟩ := h
  rw [hr]
  simp only [List.mem_cons, List.not_mem_nil, or_false] at hm
  rcases hm with rfl | rfl | rfl | rfl | rfl | rfl | rfl | rfl | rfl | rfl | rfl <;> decide

theorem switchFrame_bounds : e.switchFrame.getD 0 ≤ 899999 ∧ (e.switchFrame.getD 0 = 0 ↔ e.switchFrame = none) := by
  obtain ⟨hstart, -, -, hstop, hswitch, -⟩ := h
  cases hw : e.switchFrame with
  | none => simp
  | some w =>
    obtain ⟨-, h1, h2⟩ := hswitch w hw
    simp only [Option.getD_some, reduceCtorEq, iff_false]
    omega

theorem network_lt : e.network.getD 0 < 65536 := by
  obtain ⟨-, -, -, -, -, -, hnet, -⟩ := h
  cases hn : e.network with
  | none => decide
  | some n => exact hnet n hn

theorem slotReads : SlotReads e := by
  obtain ⟨hd, hm, hh, hn, -⟩ := labelOf_bounds h
  obtain ⟨-, hr, -⟩ := reasonCode_bounds h
  have hflags := flagsOf_lt h
  have hnet := network_lt h
  have hswitch := (switchFrame_bounds h).1
  obtain ⟨-, -, -, hstop, -, hsource, -⟩ := h
  have slot : e.slot = bytes3 e.start ++ bytes3 (e.length.getD 0) ++ bytes3 (e.switchFrame.getD 0) ++
      [Byte.ofNat e.source, Byte.ofNat (flagsOf e), Byte.ofNat (reasonCode e.endedBy + 16 * (labelOf e).month)] ++
      bytes2 (e.network.getD 0) ++ bytes2 (dayWord e) := rfl
  constructor <;> rw [slot] <;>
    simp only [numAt, byteAt, bytes3, bytes2, List.range_succ, List.range_zero, List.nil_append, List.cons_append,
      List.foldl_cons, List.foldl_nil, List.getD_cons_zero, List.getD_cons_succ, ofNat_toNat_mod, Nat.zero_mul,
      Nat.zero_add, Nat.add_zero, Nat.reduceAdd, Nat.reduceSub]
  · exact three_bytes (by omega)
  · exact three_bytes (by omega)
  · exact three_bytes hswitch
  · exact Nat.mod_eq_of_lt (by omega)
  · exact Nat.mod_eq_of_lt (by omega)
  · exact Nat.mod_eq_of_lt (by omega)
  · exact two_bytes hnet
  · exact two_bytes (by unfold dayWord; omega)

theorem flag_bits : (flagsOf e).testBit 5 = decide (e.firstSpeed = .two) ∧ (flagsOf e).testBit 6 = e.network.isSome ∧
    (flagsOf e).testBit 7 = false ∧ flagsOf e % 32 = originCode e.origin := by
  have := originCode_le h
  simp only [Nat.testBit_eq_decide_div_mod_eq]
  unfold flagsOf
  by_cases h2 : e.firstSpeed = .two <;> cases hn : e.network.isSome <;>
    simp only [h2, if_true, if_false, Bool.false_eq_true, decide_true, decide_false, decide_eq_true_eq,
      decide_eq_false_iff_not] <;> omega

theorem word_parts : dayWord e / 2048 = (labelOf e).day ∧ dayWord e / 64 % 32 = (labelOf e).hour ∧
    dayWord e % 64 = (labelOf e).minute := by
  obtain ⟨hd, hm, hh, hn, -⟩ := labelOf_bounds h
  unfold dayWord
  omega

/-- The slot of an entry carries the entry, but for its recording start. -/
theorem slotEntry_slot : slotEntry e.slot = { e with recordedAt := none } := by
  have r := slotReads h
  obtain ⟨bit5, bit6, -, origin⟩ := flag_bits h
  obtain ⟨day, hour, minute⟩ := word_parts h
  obtain ⟨-, -, -, -, day0, month0⟩ := labelOf_bounds h
  obtain ⟨code1, code11, reason⟩ := reasonCode_bounds h
  obtain ⟨-, switch0⟩ := switchFrame_bounds h
  have hm16 : (reasonCode e.endedBy + 16 * (labelOf e).month) / 16 = (labelOf e).month := by omega
  have hr16 : (reasonCode e.endedBy + 16 * (labelOf e).month) % 16 = reasonCode e.endedBy := by omega
  have flength : some (e.length.getD 0) = e.length := by
    obtain ⟨x, hx⟩ := Option.isSome_iff_exists.1 h.2.1
    rw [hx]; rfl
  have fspeed : (if decide (e.firstSpeed = .two) = true then Speed.two else Speed.one) = e.firstSpeed := by
    cases e.firstSpeed <;> rfl
  have fswitch : (if e.switchFrame.getD 0 = 0 then none else some (e.switchFrame.getD 0)) = e.switchFrame := by
    cases hw : e.switchFrame with
    | none => rfl
    | some w =>
      rw [hw] at switch0
      exact if_neg fun h0 => nomatch switch0.1 h0
  have fnet : (if e.network.isSome = true then some (e.network.getD 0) else none) = e.network := by
    cases e.network <;> rfl
  have flabel : (if (labelOf e).day = 0 ∧ (labelOf e).month = 0 then none else
      some { day := (labelOf e).day, month := (labelOf e).month, hour := (labelOf e).hour, minute := (labelOf e).minute }) =
      e.label := by
    cases hl : e.label with
    | none => rw [if_pos ⟨day0.2 hl, month0.2 hl⟩]
    | some l => rw [if_neg (fun h0 => by simp [day0.1 h0.1] at hl)]; simp [labelOf, hl]
  have forigin : (if originCode e.origin = 16 then none else some (originCode e.origin)) = e.origin := by
    obtain ⟨-, -, -, -, -, -, -, horigin, -⟩ := h
    cases ho : e.origin with
    | none => rfl
    | some k => exact if_neg (Nat.ne_of_lt (horigin k ho))
  unfold slotEntry
  simp only [r.start, r.length, r.switchFrame, r.source, r.flags, r.reason, r.network, r.word, bit5, bit6, origin, day, hour,
    minute, hm16, hr16, reason, flength, fspeed, fswitch, fnet, flabel, forigin]

theorem slotSound_slot : slotSound e.slot = true := by
  have r := slotReads h
  obtain ⟨-, -, bit7, origin⟩ := flag_bits h
  obtain ⟨day, -, -⟩ := word_parts h
  obtain ⟨-, hmonth, -, -, day0, month0⟩ := labelOf_bounds h
  obtain ⟨-, hr, -⟩ := reasonCode_bounds h
  have horigin := originCode_le h
  have hm16 : (reasonCode e.endedBy + 16 * (labelOf e).month) / 16 = (labelOf e).month := by omega
  have carried := slotEntry_slot h
  obtain ⟨hstart, -, hlength, hstop, hswitch, -, -, -, -, q, hq, -⟩ := h
  unfold slotSound
  rw [carried, r.word, r.reason, r.flags, hm16, day, bit7, origin]
  simp only [decide_eq_true_eq, Bool.false_eq_true, not_false_eq_true, true_and, hq, Option.isSome_some]
  exact ⟨hstart, hlength, hstop, hswitch, horigin, hmonth, day0.trans month0.symm⟩

end

/-! ### A copy (sections 3.2 and 13.4) -/

/-- The 14 bytes before the check. -/
def headOf (profile generation count : Nat) : List Byte :=
  signature ++ [1, Byte.ofNat profile, Byte.ofNat count, Byte.ofNat generation] ++ List.replicate 6 0

/-- The slots, the unused ones zero. -/
def slotsOf (entries : List DirEntry) : List Byte := padTo 384 (entries.map DirEntry.slot).flatten

theorem slots_length (entries : List DirEntry) : (entries.map DirEntry.slot).flatten.length = 16 * entries.length := by
  induction entries with
  | nil => rfl
  | cons e l ih => rw [List.map_cons, List.flatten_cons, List.length_append, ih, DirEntry.slot_length, List.length_cons]; omega

theorem slotsOf_length {entries : List DirEntry} (h : entries.length ≤ 24) : (slotsOf entries).length = 384 := by
  rw [slotsOf, padTo, List.length_append, List.length_replicate, slots_length]
  omega

/-- The check of a copy, over what stands beside it. -/
theorem copyCheck_split {head check slots : List Byte} (hh : head.length = 14) (hc : check.length = 2) :
    copyCheck (head ++ check ++ slots) = ((head ++ slots).map BitVec.toNat).sum % 65536 := by
  have taken : (head ++ check ++ slots).take 14 = head := by
    rw [List.append_assoc, ← hh, List.take_left]
  have dropped : (head ++ check ++ slots).drop 16 = slots := by
    have : (head ++ check).length = 16 := by rw [List.length_append, hh, hc]
    rw [← this, List.drop_left]
  rw [copyCheck, taken, dropped]

section
variable (profile generation : Nat) (entries : List DirEntry)

/-- The check number of a copy. -/
def checkOf : Nat := ((headOf profile generation entries.length ++ slotsOf entries).map BitVec.toNat).sum % 65536

theorem copyBytes_eq : copyBytes profile generation entries =
    headOf profile generation entries.length ++ bytes2 (checkOf profile generation entries) ++ slotsOf entries := by
  have check := copyCheck_split (head := headOf profile generation entries.length) (check := [0, 0])
    (slots := slotsOf entries) rfl rfl
  rw [checkOf, ← check]
  rfl

theorem copyBytes_length (h : entries.length ≤ 24) : (copyBytes profile generation entries).length = 400 := by
  rw [copyBytes_eq, List.length_append, slotsOf_length h]
  rfl

theorem copyCheck_copyBytes : copyCheck (copyBytes profile generation entries) = checkOf profile generation entries := by
  rw [copyBytes_eq, copyCheck_split rfl rfl, checkOf]

theorem copy_header : (copyBytes profile generation entries).take 16 =
    headOf profile generation entries.length ++ bytes2 (checkOf profile generation entries) := by
  rw [copyBytes_eq]
  exact List.take_left' rfl

/-- Slot `j + 1` of a copy is that of its entry `j`. -/
theorem copySlot_copyBytes {j : Nat} (hj : j < entries.length) :
    copySlot (copyBytes profile generation entries) (j + 1) = entries[j].slot := by
  have nth : ∀ (l : List DirEntry) (j : Nat) (hj : j < l.length) (rest : List Byte),
      (((l.map DirEntry.slot).flatten ++ rest).drop (16 * j)).take 16 = l[j].slot := by
    intro l
    induction l with
    | nil => intro j hj; exact absurd hj (Nat.not_lt_zero j)
    | cons e l ih =>
      intro j hj rest
      rw [List.map_cons, List.flatten_cons, List.append_assoc]
      cases j with
      | zero => exact List.take_left' e.slot_length
      | succ j =>
        have skip : 16 * (j + 1) = e.slot.length + 16 * j := by rw [e.slot_length]; omega
        rw [skip, ← List.drop_drop, List.drop_left]
        exact ih j (Nat.lt_of_succ_lt_succ hj) rest
  have skip : 16 * (j + 1) =
      (headOf profile generation entries.length ++ bytes2 (checkOf profile generation entries)).length + 16 * j := by
    show 16 * (j + 1) = 16 + 16 * j
    omega
  rw [copySlot, copyBytes_eq, skip, ← List.drop_drop, List.drop_left]
  exact nth entries j hj _

end

theorem inOrder_of_chain : ∀ {entries : List DirEntry},
    entries.IsChain (fun e f => e.start < f.start ∧ e.start + e.length.getD 0 ≤ f.start) →
    inOrder (entries.map fun e => { e with recordedAt := none }) = true
  | [], _ => rfl
  | [_], _ => rfl
  | e :: f :: rest, h => by
    obtain ⟨⟨h1, h2⟩, hrest⟩ := List.isChain_cons_cons.1 h
    have tail := inOrder_of_chain hrest
    simp only [List.map_cons] at tail
    simp [inOrder, h1, DirEntry.stop, h2, tail]

/-- The fragments of 400 bytes, put together again. -/
theorem fragmentsOf_flatten {copy : List Byte} (h : copy.length = 400) :
    ((fragmentsOf copy).map fun f => f.getD []).flatten = copy := by
  have joined := chunks_flatten copy 25
  rw [show 16 * 25 = copy.length from h.symm, List.take_length] at joined
  rw [fragmentsOf, List.map_map]
  exact joined

/-- Settles O23. -/
theorem aWrittenCopyIsReadBack : Obligations.AWrittenCopyIsReadBack := by
  intro profile generation entries hp hg hn hfit hchain
  have hlen := copyBytes_length profile generation entries hn
  refine ⟨hlen, ?_⟩
  have all : (fragmentsOf (copyBytes profile generation entries)).all Option.isSome = true := by
    simp [fragmentsOf]
  have slots : ((List.range entries.length).map fun j => copySlot (copyBytes profile generation entries) (j + 1)) =
      entries.map DirEntry.slot := by
    apply List.ext_getElem (by simp)
    intro j h1 h2
    rw [List.getElem_map, List.getElem_map, List.getElem_range]
    exact copySlot_copyBytes profile generation entries (by simpa using h1)
  have carried : (entries.map DirEntry.slot).map slotEntry = entries.map fun e => { e with recordedAt := none } := by
    rw [List.map_map]
    exact List.map_congr_left fun e he => slotEntry_slot (hfit e he)
  have sound : (entries.map DirEntry.slot).all slotSound = true := by
    rw [List.all_map, List.all_eq_true]
    exact fun e he => slotSound_slot (hfit e he)
  have hcheck : checkOf profile generation entries < 65536 := Nat.mod_lt _ (by decide)
  have count : byteAt (headOf profile generation entries.length ++ bytes2 (checkOf profile generation entries)) 7 =
      entries.length := (ofNat_toNat_mod _).trans (Nat.mod_eq_of_lt (by omega))
  have index : byteAt (headOf profile generation entries.length ++ bytes2 (checkOf profile generation entries)) 6 =
      profile := (ofNat_toNat_mod _).trans (Nat.mod_eq_of_lt (by omega))
  have gen : byteAt (headOf profile generation entries.length ++ bytes2 (checkOf profile generation entries)) 8 =
      generation := (ofNat_toNat_mod _).trans (Nat.mod_eq_of_lt hg)
  have check : numAt (headOf profile generation entries.length ++ bytes2 (checkOf profile generation entries)) 15 2 =
      checkOf profile generation entries := by
    have read : numAt (headOf profile generation entries.length ++ bytes2 (checkOf profile generation entries)) 15 2 =
        (0 * 256 + (Byte.ofNat (checkOf profile generation entries / 256)).toNat) * 256 +
          (Byte.ofNat (checkOf profile generation entries)).toNat := rfl
    rw [read, ofNat_toNat_mod, ofNat_toNat_mod]
    omega
  unfold judgeCopy
  rw [if_pos all, fragmentsOf_flatten hlen]
  dsimp only
  rw [copy_header, count, slots, carried, index, gen, copyCheck_copyBytes, check]
  exact if_pos ⟨by simp [headOf, signature, List.range_succ], rfl, rfl, hp, hn, sound, inOrder_of_chain hchain⟩

end Sys2Proof.Proofs.Copies
end

section
/-! PROOFS. The codings of the fields: what is sent in STAGE CHANNEL's, LOAD IR PROFILE's and STAGE TIMER's bytes is read from
them again (R79, R96, R136). -/

namespace Sys2Proof.Proofs.Codings
open Sys2Proof.Machine Sys2Proof.Proofs.Copies

/-! ### Values -/

theorem nat2_bytes {n : Nat} (h : n < 65536) : nat2 (Byte.ofNat (n / 256)) (Byte.ofNat n) = n := by
  rw [nat2, ofNat_toNat_mod, ofNat_toNat_mod]
  exact two_bytes h

theorem readFlag_flagByte (b : Bool) : readFlag (flagByte b) = b := by cases b <;> rfl

theorem toInt_ofInt {n : Int} (h1 : -128 ≤ n) (h2 : n ≤ 127) : (Byte.ofInt n).toInt = n := by
  rw [Byte.ofInt, BitVec.toInt_ofInt, Int.bmod_def]
  split <;> omega

theorem ofNat_toNat_list {l : List Nat} (h : ∀ d ∈ l, d < 256) : (l.map Byte.ofNat).map BitVec.toNat = l := by
  rw [List.map_map]
  exact (List.map_congr_left fun d hd => Byte.ofNat_toNat d (h d hd)).trans (List.map_id l)

theorem ofNat_ne_zero {n : Nat} (h1 : 1 ≤ n) (h2 : n < 256) : Byte.ofNat n ≠ 0 := fun e => by
  have := congrArg BitVec.toNat e
  rw [Byte.ofNat_toNat n h2] at this
  exact absurd this (by simp; omega)

/-! ### A channel entry (R78, R79) -/

theorem cueLineOf_byte {c : Option Nat} (h : ∀ l ∈ c, 1 ≤ l ∧ l ≤ 255) : cueLineOf (Byte.ofNat (c.getD 0)) = c := by
  cases c with
  | none => rfl
  | some l =>
    obtain ⟨h1, h2⟩ := h l rfl
    exact (if_neg (ofNat_ne_zero h1 (by omega))).trans (congrArg some (Byte.ofNat_toNat l (by omega)))

/-- The fields after the tuning data. -/
def restFields (c : Channel) : List Byte :=
  (match c.network with
   | none => [0]
   | some n => 1 :: bytes2 n) ++
  [Byte.ofNat (c.cueLine.getD 0), flagByte c.skip]

theorem parseChannelRest_none (x : ChannelTuning) (cue skip : Byte) : parseChannelRest x [0, cue, skip] =
    some { tuning := x, network := none, cueLine := cueLineOf cue, skip := readFlag skip } := rfl

theorem parseChannelRest_some (x : ChannelTuning) (h l cue skip : Byte) : parseChannelRest x [1, h, l, cue, skip] =
    some { tuning := x, network := some (nat2 h l), cueLine := cueLineOf cue, skip := readFlag skip } := rfl

theorem parseChannelRest_fields {c : Channel} (hn : ∀ n ∈ c.network, n < 65536) (hl : ∀ l ∈ c.cueLine, 1 ≤ l ∧ l ≤ 255) :
    parseChannelRest c.tuning (restFields c) = some c := by
  obtain ⟨tuning, network, cueLine, skip⟩ := c
  cases network with
  | none =>
    refine (parseChannelRest_none ..).trans ?_
    dsimp only
    rw [cueLineOf_byte hl, readFlag_flagByte]
  | some n =>
    refine (parseChannelRest_some ..).trans ?_
    dsimp only
    rw [cueLineOf_byte hl, readFlag_flagByte, nat2_bytes (hn n rfl)]

theorem parseChannel_air (a b fine : Byte) (more : List Byte) :
    parseChannel (0 :: a :: b :: fine :: more) = parseChannelRest (.air (nat2 a b) fine.toInt) more := rfl

theorem parseChannel_ext {a : Byte} {keys : List Byte} (ha : a.toNat = keys.length) (h1 : 1 ≤ keys.length)
    (h4 : keys.length ≤ 4) (more : List Byte) :
    parseChannel (1 :: a :: (keys ++ more)) = parseChannelRest (.ext keys) more := by
  refine (if_pos (by simp only [List.length_append]; omega) : parseChannel (1 :: a :: (keys ++ more)) = _).trans ?_
  rw [ha, List.take_left, List.drop_left]

/-- No bit of a channel's fields is lost. -/
theorem parseChannel_channelFields {c : Channel} (h : c.FitsFields) : parseChannel (channelFields c) = some c := by
  obtain ⟨ht, hn, hl⟩ := h
  have rest := parseChannelRest_fields hn hl
  obtain ⟨tuning, network, cueLine, skip⟩ := c
  cases tuning with
  | air f fine =>
    obtain ⟨hf, h1, h2⟩ := ht
    refine (parseChannel_air ..).trans ?_
    rw [nat2_bytes hf, toInt_ofInt h1 h2]
    exact rest
  | ext keys =>
    obtain ⟨h1, h4⟩ := ht
    have fields : channelFields ⟨.ext keys, network, cueLine, skip⟩ =
        1 :: Byte.ofNat keys.length :: (keys ++ restFields ⟨.ext keys, network, cueLine, skip⟩) := by
      cases network <;> simp [channelFields, restFields]
    rw [fields, parseChannel_ext (Byte.ofNat_toNat _ (by omega)) h1 h4]
    exact rest

/-! ### An IR profile (R96) -/

theorem parseIr_irFields {p : IrProfile} (h1 : 300 ≤ p.carrier) (h2 : p.carrier ≤ 600) (hl : p.durations.length = 8)
    (hd : ∀ d ∈ p.durations, 1 ≤ d ∧ d ≤ 255) : parseIr (irFields p) = some p := by
  have carrier := nat2_bytes (n := p.carrier) (by omega)
  have nonzero : ∀ d ∈ p.durations.map Byte.ofNat, d ≠ 0 := fun d hm => by
    obtain ⟨x, hx, rfl⟩ := List.mem_map.1 hm
    obtain ⟨h1, h2⟩ := hd x hx
    exact ofNat_ne_zero h1 (by omega)
  have flag : (flagByte p.idleHigh = 0 ∨ flagByte p.idleHigh = 1) ∧ decide (flagByte p.idleHigh = 1) = p.idleHigh := by
    cases p.idleHigh <;> decide
  refine (if_pos ⟨by simpa using hl, by omega, by omega, flag.1, nonzero⟩).trans ?_
  rw [carrier, flag.2]
  dsimp only [List.append_eq, List.nil_append]
  rw [ofNat_toNat_list fun d hm => by have := hd d hm; omega]

/-! ### A timer definition (R136) -/

theorem timerSpeedOf_byte (x : TimerSpeed) : timerSpeedOf x.byte = some x := by cases x <;> rfl

/-- The label presence byte and the label. -/
def labelFields : Option Label → List Byte
  | none => [0]
  | some l => 1 :: labelBytes (some l)

/-- The fields of a definition after its repeat. -/
def timesFields (t : TimerDef) : List Byte :=
  [Byte.ofNat t.startHour, Byte.ofNat t.startMinute, Byte.ofNat t.stopHour, Byte.ofNat t.stopMinute, t.speed.byte] ++
  labelFields t.label

theorem parseLabel_bytes {x : Option Label} (h : ∀ l ∈ x, l.day < 256 ∧ l.month < 256 ∧ l.hour < 256 ∧ l.minute < 256) :
    parseLabel (labelFields x) = some x := by
  cases x with
  | none => rfl
  | some l =>
    obtain ⟨hd, hm, hh, hmin⟩ := h l rfl
    simp [labelFields, parseLabel, labelBytes, Byte.ofNat_toNat, hd, hm, hh, hmin]

theorem parseTimerRest_of {c sh sm eh em speed : Byte} {rest : List Byte} {rep : Repeat} {x : TimerSpeed} {l : Option Label}
    (hx : timerSpeedOf speed = some x) (hl : parseLabel rest = some l) :
    parseTimerRest c rep (sh :: sm :: eh :: em :: speed :: rest) = some
      { channel := c.toNat, rep := rep, startHour := sh.toNat, startMinute := sm.toNat, stopHour := eh.toNat,
        stopMinute := em.toNat, speed := x, label := l } := by
  simp only [parseTimerRest, hx, hl]

theorem parseTimerRest_fields {t : TimerDef} (h : t.FitsFields) :
    parseTimerRest (Byte.ofNat t.channel) t.rep (timesFields t) = some t := by
  obtain ⟨hc, h1, h2, h3, h4, -, hl⟩ := h
  refine (parseTimerRest_of (timerSpeedOf_byte t.speed) (parseLabel_bytes hl)).trans ?_
  simp only [Byte.ofNat_toNat, hc, h1, h2, h3, h4]

theorem parseTimer_once (c d m y : Byte) (more : List Byte) : parseTimer (c :: 0 :: d :: m :: y :: more) =
    parseTimerRest c (.once { day := d.toNat, month := m.toNat, year := y.toNat }) more := rfl

theorem parseTimer_daily (c : Byte) (more : List Byte) : parseTimer (c :: 1 :: more) = parseTimerRest c .daily more := rfl

theorem parseTimer_weekdays (c : Byte) (more : List Byte) :
    parseTimer (c :: 2 :: more) = parseTimerRest c .weekdays more := rfl

theorem parseTimer_weekly (c w : Byte) (more : List Byte) :
    parseTimer (c :: 3 :: w :: more) = parseTimerRest c (.weekly w.toNat) more := rfl

/-- No bit of a definition's fields is lost. -/
theorem parseTimer_timerFields {t : TimerDef} (h : t.FitsFields) : parseTimer (timerFields t) = some t := by
  have rest := parseTimerRest_fields h
  have fields : timerFields t = Byte.ofNat t.channel :: (repeatFields t.rep ++ timesFields t) := by
    cases e : t.label <;> simp [timerFields, timesFields, labelFields, e]
  obtain ⟨-, -, -, -, -, hr, -⟩ := h
  rw [fields]
  cases e : t.rep with
  | once d =>
    rw [e] at rest hr
    obtain ⟨hd, hm, hy⟩ := hr
    refine (parseTimer_once ..).trans ?_
    rw [Byte.ofNat_toNat _ hd, Byte.ofNat_toNat _ hm, Byte.ofNat_toNat _ hy]
    exact rest
  | daily => rw [e] at rest; exact (parseTimer_daily ..).trans rest
  | weekdays => rw [e] at rest; exact (parseTimer_weekdays ..).trans rest
  | weekly w =>
    rw [e] at rest hr
    refine (parseTimer_weekly ..).trans ?_
    rw [Byte.ofNat_toNat w hr]
    exact rest

end Sys2Proof.Proofs.Codings
end

section
/-! PROOFS. The channel table, the IR profile, and the commands of the channel search (R79 to R81, R96, R97, R102, R109,
R110). -/

namespace Sys2Proof.Proofs.ChannelOrders
open Sys2Proof.Machine Sys2Proof.Proofs.Codings

section
variable {s : State} {tag : Byte}

/-- DONE of a command just taken whose effect ends with a marked record. -/
theorem done_marked (hs : s.ControlPathSound) (code : Nat) (args : List Byte) (name : RecordName) (t : State) :
    done (s.clu.cmd tag code args) (markRecord name { t with clu := s.clu.taken tag }) =
      { markRecord name t with clu := s.clu.answered tag code .done .none [] } := by
  rw [done_taken hs (markRecord_clu ..), markRecord_withClu]

/-! ### Channels: O26 -/

theorem exec_stageChannel (hs : s.serves tag) {c : Channel} (hc : c.FitsFields) :
    Machine.exec (.stageChannel tag (channelFields c)) s = .next { s with
      tun := { s.tun with staging := some c }, clu := s.clu.answered tag 21 .done .none [] } := by
  refine congrArg Host.Outcome.next ?_
  rw [takeCommand_serves hs]
  simp only [stageChannelOp, Clu.cmd_args, parseChannel_channelFields hc]
  exact done_taken hs.1.1 rfl 21 _

theorem commitChannel_refused (hs : s.serves tag) {n : Byte} (hn : n.toNat ≤ 99) {r : Reason}
    (h : (s.tun.staging = none ∧ r = .state) ∨ (∃ c, s.tun.staging = some c ∧ ¬ c.Commits ∧ r = .range)) :
    Machine.exec (.commitChannel tag [n]) s = .next { s with clu := s.clu.answered tag 22 .refused r [] } := by
  refine congrArg Host.Outcome.next ?_
  rw [takeCommand_serves hs]
  simp only [commitChannelOp, Clu.cmd_args, oneByte]
  rw [if_neg (by omega)]
  obtain ⟨h, rfl⟩ | ⟨c, h, hc, rfl⟩ := h
  · simp only [h]
    exact refuse_taken hs.1.1 22 _ _
  · simp only [h, mt (Channel.inRange_iff c).1 hc]
    exact refuse_taken hs.1.1 22 _ _

theorem exec_commitChannel (hs : s.serves tag) {n : Byte} (hn : n.toNat ≤ 99) {c : Channel} (h : s.tun.staging = some c)
    (hc : c.Commits) :
    Machine.exec (.commitChannel tag [n]) s = .next { markRecord (.channel n.toNat)
      { s with tun := { s.tun with channels := s.tun.channels.set n.toNat (some c), staging := none } } with
      clu := s.clu.answered tag 22 .done .none [] } := by
  refine congrArg Host.Outcome.next ?_
  rw [takeCommand_serves hs]
  simp only [commitChannelOp, Clu.cmd_args, oneByte]
  rw [if_neg (by omega)]
  simp only [h, (Channel.inRange_iff c).2 hc]
  exact done_marked hs.1.1 22 _ _
    { s with tun := { s.tun with channels := s.tun.channels.set n.toNat (some c), staging := none } }

/-- A timer entry that is not EMPTY names the channel (R81). -/
theorem channelReferenced_iff (s : State) (n : Nat) : s.channelReferenced n = true ↔
    ∃ e ∈ s.sch.timers, e.state ≠ .empty ∧ ∃ t, e.defn = some t ∧ t.channel = n := by
  simp [State.channelReferenced, Option.any_eq_true]

theorem clearChannel_empty (hs : s.serves tag) {n : Byte} (hn : n.toNat ≤ 99) (h : s.channel n.toNat = none) :
    Machine.exec (.clearChannel tag [n]) s = .next { s with clu := s.clu.answered tag 23 .done .none [] } := by
  refine congrArg Host.Outcome.next ?_
  rw [takeCommand_serves hs]
  simp only [clearChannelOp, Clu.cmd_args, oneByte]
  rw [if_neg (by omega)]
  refine (if_pos (by exact Option.isNone_iff_eq_none.2 h)).trans ?_
  exact done_taken hs.1.1 rfl 23 _

theorem clearChannel_valid (hs : s.serves tag) {n : Byte} (hn : n.toNat ≤ 99) {c : Channel} (h : s.channel n.toNat = some c) :
    Machine.exec (.clearChannel tag [n]) s = .next (if s.channelReferenced n.toNat then
      { s with clu := s.clu.answered tag 23 .refused .referenced [] }
    else { markRecord (.channel n.toNat)
      { s with tun := { s.tun with channels := s.tun.channels.set n.toNat none } } with
      clu := s.clu.answered tag 23 .done .none [] }) := by
  refine congrArg Host.Outcome.next ?_
  rw [takeCommand_serves hs]
  simp only [clearChannelOp, Clu.cmd_args, oneByte]
  rw [if_neg (by omega)]
  have valid : ¬ (s.channel n.toNat).isNone = true := by simp [h]
  refine (if_neg (by exact valid)).trans ?_
  rw [← refuse_taken hs.1.1 23 [n]]
  rw [← done_marked hs.1.1 23 [n]]
  rfl

theorem exec_readChannel (hs : s.serves tag) {n : Byte} (hn : n.toNat ≤ 99) :
    Machine.exec (.readChannel tag [n]) s = .next { s with clu := s.clu.answered tag 24 .done .none <|
      ((s.channel n.toNat).elim [0] fun c => 1 :: channelFields c) } := by
  refine congrArg Host.Outcome.next ?_
  rw [takeCommand_serves hs]
  simp only [readChannelOp, Clu.cmd_args, oneByte]
  rw [if_neg (by omega), ← reply_taken (t := { s with clu := s.clu.taken tag }) hs.1.1 rfl 24 [n]]
  show (match s.channel n.toNat with | none => _ | some x => _) = _
  cases s.channel n.toNat <;> rfl

end

/-- Settles O26: the fields are read as they were sent, and each command is its row. -/
theorem channelsAreStagedCommittedClearedAndRead : Obligations.ChannelsAreStagedCommittedClearedAndRead := by
  refine ⟨fun tag c s hs hc => exec_stageChannel hs hc, fun tag n s hs hn => ?_⟩
  intro refusedWith
  have read := exec_readChannel hs hn
  refine ⟨fun h => commitChannel_refused hs hn (.inl ⟨h, rfl⟩),
    fun c h hc => commitChannel_refused hs hn (.inr ⟨c, h, hc, rfl⟩), fun c h hc => exec_commitChannel hs hn h hc,
    fun h => ⟨clearChannel_empty hs hn h, by rw [read, h]; rfl⟩, fun c h => ?_⟩
  have clear := clearChannel_valid hs hn h
  intro named
  refine ⟨fun hx => ?_, fun hx => ?_, by rw [read, h]; rfl⟩
  · rw [if_pos ((channelReferenced_iff s _).2 hx)] at clear
    exact clear
  · rw [if_neg (mt (channelReferenced_iff s _).1 hx)] at clear
    exact clear

/-! ### The IR profile: O27 -/

theorem exec_loadIrProfile {s : State} {tag : Byte} (hs : s.serves tag) {p : IrProfile} (h1 : 300 ≤ p.carrier)
    (h2 : p.carrier ≤ 600) (hl : p.durations.length = 8) (hd : ∀ d ∈ p.durations, 1 ≤ d ∧ d ≤ 255) :
    Machine.exec (.loadIrProfile tag (irFields p)) s = .next { markRecord .irProfile
      { s with tun := { s.tun with irProfile := p } } with clu := s.clu.answered tag 25 .done .none [] } := by
  refine congrArg Host.Outcome.next ?_
  rw [takeCommand_serves hs]
  simp only [loadIrOp, Clu.cmd_args, parseIr_irFields h1 h2 hl hd]
  exact done_marked hs.1.1 25 _ _ { s with tun := { s.tun with irProfile := p } }

/-- The mark and the space of one bit. -/
theorem bit_duration (b : Bool) (om os zm zs : Nat) :
    ((if b then [(true, om), (false, os)] else [(true, zm), (false, zs)]).map Prod.snd).sum =
      if b then om + os else zm + zs := by cases b <;> simp

/-- Settles O27: the segments are written out bit by bit, and their sum is the duration. -/
theorem theIrProfileGivesTheKeys : Obligations.TheIrProfileGivesTheKeys := by
  refine ⟨fun tag p s hs h1 h2 hl hd => exec_loadIrProfile hs h1 h2 hl hd, fun c high hm hsp om os zm zs tr gap key => ?_,
    by decide⟩
  intro p bit
  have eight : List.range 8 = [0, 1, 2, 3, 4, 5, 6, 7] := rfl
  have segments : keySegments p key = [(true, hm), (false, hsp)] ++ bit 0 ++ bit 1 ++ bit 2 ++ bit 3 ++ bit 4 ++ bit 5 ++
      bit 6 ++ bit 7 ++ [(true, tr), (false, gap)] := by
    simp [keySegments, eight, p, bit]
  refine ⟨segments, ?_⟩
  rw [segments]
  simp only [List.map_append, List.sum_append, bit, bit_duration]
  simp only [keyDuration, eight, p, List.map_cons, List.map_nil, List.sum_cons, List.sum_nil, List.getD_cons_zero,
    List.getD_cons_succ]
  omega

/-! ### The channel search: O28 -/

section
variable {s : State} {tag : Byte}

theorem searchStart_of {args : List Byte} {f : Nat}
    (h : (args = [] ∧ f = 900) ∨ (∃ h l : Byte, args = [h, l] ∧ f = h.toNat * 256 + l.toNat ∧ 900 ≤ f ∧ f ≤ 17200)) :
    searchStart args = some f := by
  obtain ⟨rfl, rfl⟩ | ⟨h, l, rfl, rfl, h1, h2⟩ := h
  · rfl
  · exact if_pos ⟨h1, h2⟩

/-- A new search takes a free tuner B at once, and else waits for it (R102, R103). -/
theorem beginSearch_eq (f : Nat) (s : State) : beginSearch f s =
    if s.tun.tunerB.owner = .none then
      ({ s with tun := { s.tun with search := Search.begun .running f } } : State).tuned .b .search none f 0
        s.sto.options.defaultCueLine
    else { s with tun := { s.tun with search := Search.begun .suspended f } } := by
  refine if_congr Iff.rfl ?_ rfl
  exact tune_eq .b .search none f 0 s.sto.options.defaultCueLine
    { s with tun := { s.tun with search := Search.begun .running f } }

theorem startSearch_idle (hs : s.serves tag) {args : List Byte} {f : Nat} (ha : searchStart args = some f)
    (hi : s.tun.search.state = .idle) :
    Machine.exec (.startSearch tag args) s = .next { beginSearch f s with
      clu := s.clu.answered tag 26 .started .none [] } := by
  have begun : beginSearch f { s with clu := s.clu.taken tag } = { beginSearch f s with clu := s.clu.taken tag } := by
    rw [beginSearch_eq, beginSearch_eq]
    split <;> rfl
  refine congrArg Host.Outcome.next ?_
  rw [takeCommand_serves hs]
  simp only [startSearchOp, Clu.cmd_args, ha, Search.isRunning, hi]
  refine (if_neg (by decide)).trans ?_
  rw [begun]
  exact reply_taken hs.1.1 rfl 26 args ..

theorem startSearch_busy (hs : s.serves tag) {args : List Byte} {f : Nat} (ha : searchStart args = some f)
    (hi : s.tun.search.state ≠ .idle) :
    Machine.exec (.startSearch tag args) s = .next { s with clu := s.clu.answered tag 26 .refused .busy [] } := by
  refine congrArg Host.Outcome.next ?_
  rw [takeCommand_serves hs]
  simp only [startSearchOp, Clu.cmd_args, ha, Search.isRunning]
  refine (if_pos (by simpa using hi)).trans ?_
  exact refuse_taken hs.1.1 26 args _

/-- The search record of an ended search; its phase, frequency and additions stand (R109). -/
def ended (s : State) (r : SearchResult) : Search :=
  { s.tun.search with state := .idle, result := r, count := 0, network := none }

theorem endSearch_suspended (r : SearchResult) {s : State} (h : s.tun.search.state ≠ .running) :
    endSearch r s = ({ s with tun := { s.tun with search := ended s r } } : State).withSticky Sticky.searchEnd.mask := by
  simp only [endSearch, h, decide_false]
  rfl

theorem exec_endSearch (hs : s.serves tag) :
    Machine.exec (.endSearch tag []) s = .next (if s.tun.search.state = .idle then
      { s with clu := s.clu.answered tag 27 .refused .state [] }
    else done (s.clu.cmd tag 27 []) (endSearch .stopped { s with clu := s.clu.taken tag })) := by
  refine congrArg Host.Outcome.next ?_
  rw [takeCommand_serves hs, noArgs_nil, ← refuse_taken hs.1.1 27 [] .state]
  by_cases h : s.tun.search.state = .idle
  · rw [if_pos h]
    exact if_neg (by simp [Search.isRunning, h])
  · rw [if_neg h]
    exact if_pos (by simp [Search.isRunning, h])

theorem exec_readSearch (hs : s.serves tag) :
    Machine.exec (.readSearch tag []) s = .next { s with clu := s.clu.answered tag 28 .done .none <|
      [Byte.ofNat s.tun.search.state.code, Byte.ofNat s.tun.search.phase.code] ++ bytes2 s.tun.search.frequency ++
        [Byte.ofNat s.tun.search.added, Byte.ofNat s.tun.search.result.code, Byte.ofNat s.tun.search.count] } := by
  refine congrArg Host.Outcome.next ?_
  rw [takeCommand_serves hs, noArgs_nil]
  exact reply_taken hs.1.1 rfl 28 [] ..

theorem search_codes (r : Search) :
    [Byte.ofNat r.state.code, Byte.ofNat r.phase.code] ++ bytes2 r.frequency ++
      [Byte.ofNat r.added, Byte.ofNat r.result.code, Byte.ofNat r.count] =
    [(match r.state with | .idle => 0 | .running => 1 | .suspended => 2 : Byte),
     (match r.phase with | .step => 0 | .confirm => 1 | .trim => 2 | .name => 3 : Byte)] ++ bytes2 r.frequency ++
    [Byte.ofNat r.added,
     (match r.result with | .none => 0 | .done => 1 | .stopped => 2 | .full => 3 | .cancelled => 4 | .mains => 5 : Byte),
     Byte.ofNat r.count] := by
  have state : Byte.ofNat r.state.code = (match r.state with | .idle => 0 | .running => 1 | .suspended => 2 : Byte) := by
    cases r.state <;> rfl
  have phase : Byte.ofNat r.phase.code =
      (match r.phase with | .step => 0 | .confirm => 1 | .trim => 2 | .name => 3 : Byte) := by
    cases r.phase <;> rfl
  have result : Byte.ofNat r.result.code =
      (match r.result with | .none => 0 | .done => 1 | .stopped => 2 | .full => 3 | .cancelled => 4 | .mains => 5 : Byte) := by
    cases r.result <;> rfl
  rw [state, phase, result]

end

/-- Settles O28: the three commands, with tuner B as the search holds it. -/
theorem searchIsStartedEndedAndRead : Obligations.SearchIsStartedEndedAndRead := by
  intro tag s hs
  refine ⟨fun args f ha => ?_, ?_, ?_⟩
  · have start := searchStart_of ha
    refine ⟨fun hi hb => ?_, fun hi hb => ?_, startSearch_busy hs start⟩
    · rw [startSearch_idle hs start hi, beginSearch_eq, if_pos hb]
    · rw [startSearch_idle hs start hi, beginSearch_eq, if_neg hb]
  · intro ended
    refine ⟨fun h => ?_, fun h => ?_, fun h => ?_⟩ <;> rw [exec_endSearch hs]
    · rw [if_pos h]
    · rw [if_neg (by simp [h]), endSearch_running (u := { s with clu := s.clu.taken tag }) _ h]
      exact congrArg Host.Outcome.next (reply_taken_sticky hs.1.1 rfl 27 [] ..)
    · rw [if_neg (by simp [h]), endSearch_suspended (s := { s with clu := s.clu.taken tag }) _ (by simp [h])]
      exact congrArg Host.Outcome.next (reply_taken_sticky hs.1.1 rfl 27 [] ..)
  · intro r result
    rewrite [exec_readSearch hs, search_codes]
    rfl

end Sys2Proof.Proofs.ChannelOrders
end

section
/-! PROOFS. VIEW: the source it takes, the source it leaves, and the scans of the table (R91 to R93). -/

namespace Sys2Proof.Proofs.Views
open Sys2Proof.Machine

section
variable {s : State} {tag n : Byte} {ch : Channel}

/-! ### The row and its cases -/

theorem exec_view (hs : s.serves tag) (args : List Byte) : Machine.exec (.view tag args) s =
    .next (viewOp (s.clu.cmd tag 20 args) { s with clu := s.clu.taken tag }) :=
  congrArg Host.Outcome.next (takeCommand_serves hs ..)

theorem viewOp_standby {c : Cmd} (h : s.sto.power = .standby) : viewOp c s = refuse c .notOn s := if_pos h

/-- VIEW of a channel number, outside STANDBY (R91). -/
theorem viewOp_channel {c : Cmd} (hp : s.sto.power ≠ .standby) (hc : c.args = [n]) (hn : n.toNat ≤ 252) : viewOp c s =
    if 99 < n.toNat then refuse c .range s
    else if (s.channel n.toNat).isNone then refuse c .state s
    else viewChannel n.toNat c s := by
  simp only [viewOp, hc, oneByte]
  rw [if_neg hp, if_neg (by omega), if_neg (by omega), if_neg (by omega)]

theorem viewOp_next {c : Cmd} (hp : s.sto.power ≠ .standby) (hc : c.args = [253]) :
    viewOp c s = viewScan (nextOrder (s.tun.view.map Prod.fst)) c s := by
  simp only [viewOp, hc, oneByte]
  rw [if_neg hp]
  exact if_pos rfl

theorem viewOp_previous {c : Cmd} (hp : s.sto.power ≠ .standby) (hc : c.args = [254]) :
    viewOp c s = viewScan (previousOrder (s.tun.view.map Prod.fst)) c s := by
  simp only [viewOp, hc, oneByte]
  rw [if_neg hp]
  exact (if_neg (by decide)).trans (if_pos rfl)

theorem viewOp_none {c : Cmd} (hp : s.sto.power ≠ .standby) (hc : c.args = [255]) :
    viewOp c s = done c (releaseView s) := by
  simp only [viewOp, hc, oneByte]
  rw [if_neg hp]
  exact (if_neg (by decide)).trans ((if_neg (by decide)).trans (if_pos rfl))

/-! ### VIEW of a channel -/

theorem exec_view_channel (hs : s.serves tag) (hp : s.sto.power = .on) (hn : n.toNat ≤ 99)
    (hc : s.channel n.toNat = some ch) : Machine.exec (.view tag [n]) s =
    .next (viewChannel n.toNat (s.clu.cmd tag 20 [n]) { s with clu := s.clu.taken tag }) := by
  have valid : ¬ (s.channel n.toNat).isNone = true := by simp [hc]
  rw [exec_view hs, viewOp_channel (s := { s with clu := s.clu.taken tag }) (by simp [hp]) rfl (by omega), if_neg (by omega)]
  exact congrArg Host.Outcome.next (if_neg (by exact valid))

theorem viewChannel_busy (hs : s.serves tag) (ht : viewTarget n.toNat s = none) :
    viewChannel n.toNat (s.clu.cmd tag 20 [n]) { s with clu := s.clu.taken tag } =
      { s with clu := s.clu.answered tag 20 .refused .tunerBusy [] } := by
  have target : viewTarget n.toNat { s with clu := s.clu.taken tag } = none := ht
  simp only [viewChannel, target]
  exact refuse_taken hs.1.1 20 _ _

theorem viewChannel_same (hs : s.serves tag) {v : ViewSource} (ht : viewTarget n.toNat s = some v)
    (hv : s.tun.view = some (n.toNat, v)) :
    viewChannel n.toNat (s.clu.cmd tag 20 [n]) { s with clu := s.clu.taken tag } =
      { s with clu := s.clu.answered tag 20 .done .none [n, Byte.ofNat v.code] } := by
  have target : viewTarget n.toNat { s with clu := s.clu.taken tag } = some v := ht
  simp only [viewChannel, target, hv, if_true]
  rw [reply_taken hs.1.1 rfl, Byte.ofNat, BitVec.ofNat_toNat, BitVec.setWidth_eq]

/-- A source that is granted: the view is as `takeView` says, whatever the control line unit holds (R92). -/
theorem viewChannel_takes (hs : s.serves tag) {v : ViewSource} {u : State} (ht : viewTarget n.toNat s = some v)
    (hv : s.tun.view ≠ some (n.toNat, v))
    (hu : takeView n.toNat v { s with clu := s.clu.taken tag } = { u with clu := s.clu.taken tag }) :
    viewChannel n.toNat (s.clu.cmd tag 20 [n]) { s with clu := s.clu.taken tag } =
      { u with clu := s.clu.answered tag 20 .done .none [n, Byte.ofNat v.code] } := by
  have target : viewTarget n.toNat { s with clu := s.clu.taken tag } = some v := ht
  simp only [viewChannel, target, hv, if_false]
  rw [hu, reply_taken hs.1.1 rfl, Byte.ofNat, BitVec.ofNat_toNat, BitVec.setWidth_eq]

/-! ### The source granted -/

theorem viewTarget_air {f : Nat} {fine : Int} (hc : s.channel n.toNat = some ch) (ha : ch.tuning = .air f fine) :
    viewTarget n.toNat s = if s.tun.tunerA.owner = .none ∨ s.tun.tunerA.owner = .view then some .tunerA
      else if s.tun.tunerB.owner = .watch then none else some .tunerB := by
  simp [viewTarget, hc, Channel.isExt, ha]

theorem viewTarget_ext {keys : List Byte} (hc : s.channel n.toNat = some ch) (ha : ch.tuning = .ext keys) :
    viewTarget n.toNat s = if s.tun.ext.owner = .record then none else some .external := by
  simp [viewTarget, hc, Channel.isExt, ha]

/-- The view takes tuner A, which is free or its own. -/
theorem takeView_a {m f : Nat} {fine : Int} {u : State} (hc : u.channel m = some ch) (ha : ch.tuning = .air f fine)
    (hv : u.tun.view = none ∨ ∃ k, k ≠ m ∧ u.tun.view = some (k, .tunerA)) :
    takeView m .tunerA u = (u.tuned .a .view (some m) f fine (u.lineOf ch)).viewing (some (m, .tunerA)) := by
  rw [← tuneChannel_air hc ha]
  obtain hv | ⟨k, -, hv⟩ := hv <;> simp only [takeView, hv] <;> rfl

/-- The view takes tuner B, with no search to suspend. -/
theorem takeView_b {m f : Nat} {fine : Int} {u : State} (hc : u.channel m = some ch) (ha : ch.tuning = .air f fine)
    (hv : u.tun.view = none) (hr : u.tun.search.state ≠ .running) :
    takeView m .tunerB u = (u.tuned .b .view (some m) f fine (u.lineOf ch)).viewing (some (m, .tunerB)) := by
  rw [← tuneChannel_air hc ha]
  simp only [takeView, hv, suspendSearch, if_neg hr]
  rfl

/-- The external box, sending nothing, is granted for a channel of the table. -/
theorem grantExt_idle {m : Nat} {key : Byte} {rest : List Byte} {u : State} (hc : u.channel m = some ch)
    (ha : ch.tuning = .ext (key :: rest)) (hi : u.tun.ext.sending = none) (owner : Owner) :
    grantExt owner m u = u.keyed owner m key rest := by
  have keys : keysOf m u = (key, rest) := by simp [keysOf, hc, ha]
  simp only [grantExt, keys, sendKeys, State.setTun, hi]
  rfl

theorem takeView_ext {m : Nat} {key : Byte} {rest : List Byte} {u : State} (hc : u.channel m = some ch)
    (ha : ch.tuning = .ext (key :: rest)) (hi : u.tun.ext.sending = none) (hv : u.tun.view = none) :
    takeView m .external u = (u.keyed .view m key rest).viewing (some (m, .external)) := by
  simp only [takeView, hv, grantExt_idle hc ha hi]
  rfl

theorem takeView_ext_leaves {m k : Nat} {key : Byte} {rest : List Byte} {u : State} (hc : u.channel m = some ch)
    (ha : ch.tuning = .ext (key :: rest)) (hi : u.tun.ext.sending = none) (hv : u.tun.view = some (k, .tunerA)) :
    takeView m .external u = ((u.keyed .view m key rest).untuned .a).viewing (some (m, .external)) := by
  simp only [takeView, hv, grantExt_idle hc ha hi]
  rfl

end

/-! ### The scans (R91) -/

/-- A VALID entry with its skip flag clear. -/
theorem scannable_iff (s : State) (c : Nat) : s.scannable c = true ↔ ∃ x, s.channel c = some x ∧ x.skip = false := by
  simp [State.scannable, Option.any_eq_true]

/-- The first channel of a scan that meets the test. -/
theorem find_order {order : Nat → Nat} {p : Nat → Bool} {k : Nat} (hk : k < 100) (hp : p (order k) = true)
    (hb : ∀ i, i < k → ¬ p (order i) = true) : ((List.range 100).map order).find? p = some (order k) := by
  have first : (List.range 100).find? (p ∘ order) = some k :=
    List.find?_range_eq_some.2 ⟨hp, List.mem_range.2 hk, fun i hi => by simpa using hb i hi⟩
  rw [List.find?_map, first, Option.map_some]

section
variable {s : State} {tag : Byte}

/-- A scan that finds a channel is VIEW of that channel. -/
theorem viewScan_finds (hp : s.sto.power ≠ .standby) {order : List Nat} {k : Nat} (n : Byte)
    (hf : order.find? s.scannable = some k) (hk : k < 100) (hv : s.scannable k = true) :
    viewScan order (s.clu.cmd tag 20 [n]) { s with clu := s.clu.taken tag } =
      viewOp (s.clu.cmd tag 20 [Byte.ofNat k]) { s with clu := s.clu.taken tag } := by
  have number : (Byte.ofNat k).toNat = k := Byte.ofNat_toNat k (by omega)
  obtain ⟨x, hx, -⟩ := (scannable_iff s k).1 hv
  have valid : ¬ (s.channel k).isNone = true := by simp [hx]
  have found : order.find? (State.scannable { s with clu := s.clu.taken tag }) = some k := hf
  rw [viewOp_channel (s := { s with clu := s.clu.taken tag }) hp rfl (by omega), number, if_neg (by omega)]
  refine Eq.trans ?_ (if_neg (by exact valid)).symm
  simp only [viewScan, found]
  exact viewChannel_args (s := s) rfl rfl rfl _

theorem exec_view_next (hs : s.serves tag) (hp : s.sto.power ≠ .standby) {k : Nat}
    (hf : (nextOrder (s.tun.view.map Prod.fst)).find? s.scannable = some k) (hk : k < 100) (hv : s.scannable k = true) :
    Machine.exec (.view tag [253]) s = Machine.exec (.view tag [Byte.ofNat k]) s := by
  rw [exec_view hs, exec_view hs, viewOp_next (s := { s with clu := s.clu.taken tag }) hp rfl]
  exact congrArg Host.Outcome.next (viewScan_finds hp 253 hf hk hv)

theorem exec_view_previous (hs : s.serves tag) (hp : s.sto.power ≠ .standby) {k : Nat}
    (hf : (previousOrder (s.tun.view.map Prod.fst)).find? s.scannable = some k) (hk : k < 100)
    (hv : s.scannable k = true) :
    Machine.exec (.view tag [254]) s = Machine.exec (.view tag [Byte.ofNat k]) s := by
  rw [exec_view hs, exec_view hs, viewOp_previous (s := { s with clu := s.clu.taken tag }) hp rfl]
  exact congrArg Host.Outcome.next (viewScan_finds hp 254 hf hk hv)

/-- A scan that finds nothing is refused. -/
theorem viewScan_empty (hs : s.serves tag) (n : Byte) (h : ∀ c, c < 100 → ¬ s.scannable c = true) (start : Nat → Nat) :
    viewScan ((List.range 100).map fun i => start i % 100) (s.clu.cmd tag 20 [n]) { s with clu := s.clu.taken tag } =
      { s with clu := s.clu.answered tag 20 .refused .state [] } := by
  have nothing : ((List.range 100).map fun i => start i % 100).find?
      (State.scannable { s with clu := s.clu.taken tag }) = none := by
    refine List.find?_eq_none.2 fun c hc => ?_
    obtain ⟨i, -, rfl⟩ := List.mem_map.1 hc
    exact h _ (Nat.mod_lt _ (by omega))
  simp only [viewScan, nothing]
  exact refuse_taken hs.1.1 20 _ _

end

/-! ### VIEW NONE -/

theorem releaseView_a {u : State} {m : Nat} (h : u.tun.view = some (m, .tunerA)) :
    releaseView u = (u.untuned .a).viewing none := by
  simp only [releaseView, h]
  rfl

/-- Settles O24: each grant is its equation, and a scan is VIEW of the channel it finds. -/
theorem viewTakesItsSourceAndScansTheTable : Obligations.ViewTakesItsSourceAndScansTheTable := by
  refine ⟨fun tag n ch s hs hp hn hc hi => ?_, fun tag s hs => ?_⟩
  · intro viewIs busy
    have row := exec_view_channel hs hp hn hc
    have on : s.sto.power ≠ .standby := by simp [hp]
    refine ⟨fun f fine ha => ?_, fun key rest ha => ?_, fun hv => ?_, fun m hv => ?_⟩
    · have target := viewTarget_air hc ha
      refine ⟨fun ho hv => ?_, fun ho hv => ?_, fun ho hb hv => ?_, fun ho hb => ?_⟩
      · rw [if_pos ho] at target
        have other : s.tun.view ≠ some (n.toNat, .tunerA) := by
          obtain hv | ⟨m, hm, hv⟩ := hv
          · simp [hv]
          · simp [hv, hm]
        exact row.trans (congrArg _ (viewChannel_takes hs target other
          (takeView_a (u := { s with clu := s.clu.taken tag }) hc ha hv)))
      · rw [if_pos ho] at target
        exact row.trans (congrArg _ (viewChannel_same hs target hv))
      · rw [if_neg (by simp [ho]), if_neg hb] at target
        exact row.trans (congrArg _ (viewChannel_takes hs target (by simp [hv])
          (takeView_b (u := { s with clu := s.clu.taken tag }) hc ha hv (by simp [hi]))))
      · rw [if_neg (by simp [ho]), if_pos hb] at target
        exact row.trans (congrArg _ (viewChannel_busy hs target))
    · have target := viewTarget_ext hc ha
      refine ⟨fun ho => ?_, fun ho he hv => ?_, fun m ho he hv => ?_⟩
      · rw [if_pos ho] at target
        exact row.trans (congrArg _ (viewChannel_busy hs target))
      · rw [if_neg ho] at target
        exact row.trans (congrArg _ (viewChannel_takes hs target (by simp [hv])
          (takeView_ext (u := { s with clu := s.clu.taken tag }) hc ha he hv)))
      · rw [if_neg ho] at target
        exact row.trans (congrArg _ (viewChannel_takes hs target (by simp [hv])
          (takeView_ext_leaves (u := { s with clu := s.clu.taken tag }) hc ha he hv)))
    · have released : releaseView { s with clu := s.clu.taken tag } = { s with clu := s.clu.taken tag } := by
        simp only [releaseView, hv]
      rw [exec_view hs, viewOp_none (s := { s with clu := s.clu.taken tag }) on rfl, released]
      exact congrArg Host.Outcome.next (done_taken hs.1.1 rfl 20 _)
    · rw [exec_view hs, viewOp_none (s := { s with clu := s.clu.taken tag }) on rfl,
        releaseView_a (u := { s with clu := s.clu.taken tag }) hv]
      exact congrArg Host.Outcome.next (done_taken hs.1.1 rfl 20 _)
  · intro viewed refusedWith
    have seen : ∀ c, s.scannable c = true ↔ viewed c := scannable_iff s
    refine ⟨fun hp n => ?_, fun hp => ⟨fun n hn hc => ?_, fun n hn h2 => ?_, fun hall => ⟨?_, ?_⟩,
      fun v d hv hview h1 h2 => ⟨fun hd hb => ?_, fun hd hb => ?_⟩, fun c hview hc hx => ⟨fun hb => ?_, fun hb => ?_⟩⟩⟩
    · refine (exec_view hs [n]).trans (congrArg _ ?_)
      rw [viewOp_standby (s := { s with clu := s.clu.taken tag }) hp]
      exact refuse_taken hs.1.1 20 _ _
    · refine (exec_view hs [n]).trans (congrArg _ ?_)
      rw [viewOp_channel (s := { s with clu := s.clu.taken tag }) hp rfl (by omega), if_neg (by omega)]
      exact (if_pos (by exact Option.isNone_iff_eq_none.2 hc)).trans (refuse_taken hs.1.1 20 _ _)
    · refine (exec_view hs [n]).trans (congrArg _ ?_)
      rw [viewOp_channel (s := { s with clu := s.clu.taken tag }) hp rfl h2, if_pos (by omega)]
      exact refuse_taken hs.1.1 20 _ _
    · refine (exec_view hs [253]).trans (congrArg _ ?_)
      rw [viewOp_next (s := { s with clu := s.clu.taken tag }) hp rfl]
      exact viewScan_empty hs 253 (fun c hc => mt (seen c).1 (hall c hc)) _
    · refine (exec_view hs [254]).trans (congrArg _ ?_)
      rw [viewOp_previous (s := { s with clu := s.clu.taken tag }) hp rfl]
      exact viewScan_empty hs 254 (fun c hc => mt (seen c).1 (hall c hc)) _
    · refine exec_view_next hs hp ?_ (Nat.mod_lt _ (by omega)) ((seen _).2 hd)
      have place : ∀ i, (v + 1 + i) % 100 = (v + (i + 1)) % 100 := fun i => by congr 1; omega
      rw [hview]
      refine (find_order (order := fun i => (v + 1 + i) % 100) (k := d - 1) (by omega) ?_ fun i hi => ?_).trans ?_
      · rw [place, show d - 1 + 1 = d by omega]; exact (seen _).2 hd
      · rw [place]; exact mt (seen _).1 (hb _ (by omega) (by omega))
      · rw [place, show d - 1 + 1 = d by omega]
    · refine exec_view_previous hs hp ?_ (Nat.mod_lt _ (by omega)) ((seen _).2 hd)
      have place : ∀ i, i < 100 → (v + 99 + 100 - i) % 100 = (v + (100 - (i + 1))) % 100 := fun i hi => by omega
      rw [hview]
      refine (find_order (order := fun i => (v + 99 + 100 - i) % 100) (k := d - 1) (by omega) ?_ fun i hi => ?_).trans ?_
      · rw [place _ (by omega), show d - 1 + 1 = d by omega]; exact (seen _).2 hd
      · rw [place _ (by omega)]; exact mt (seen _).1 (hb _ (by omega) (by omega))
      · rw [place _ (by omega), show d - 1 + 1 = d by omega]
    · refine exec_view_next hs hp ?_ hc ((seen _).2 hx)
      have place : ∀ i, i < 100 → (0 + i) % 100 = i := fun i hi => by omega
      rw [hview]
      refine (find_order (order := fun i => (0 + i) % 100) (k := c) hc ?_ fun i hi => ?_).trans ?_
      · rw [place _ hc]; exact (seen _).2 hx
      · rw [place _ (by omega)]; exact mt (seen _).1 (hb _ hi)
      · rw [place _ hc]
    · refine exec_view_previous hs hp ?_ hc ((seen _).2 hx)
      have place : ∀ i, i < 100 → (99 + 100 - i) % 100 = 99 - i := fun i hi => by omega
      rw [hview]
      refine (find_order (order := fun i => (99 + 100 - i) % 100) (k := 99 - c) (by omega) ?_ fun i hi => ?_).trans ?_
      · rw [place _ (by omega), show 99 - (99 - c) = c by omega]; exact (seen _).2 hx
      · rw [place _ (by omega)]; exact mt (seen _).1 (hb _ (by omega) (by omega))
      · rw [place _ (by omega), show 99 - (99 - c) = c by omega]

end Sys2Proof.Proofs.Views
end

section
/-! PROOFS. The clock's commands and its tick, and the next occurrence of a definition (R125, R130 to R133, R142). -/

namespace Sys2Proof.Proofs.ClockOrders
open Sys2Proof.Machine

/-! ### The tick (R125, R132) -/

/-- The last day is followed by the first by the calendar itself. -/
theorem tick_eq (t : DateTime) : t.tick = t.secondLater := by
  unfold DateTime.tick DateTime.secondLater
  split
  · rfl
  split
  · rfl
  split
  · rfl
  split
  · next h => rw [h]; rfl
  · rfl

theorem exec_secondEvent {s : State} (h : s.clk.now.second < 59 ∨ s.schedulerIdle) : Machine.exec .secondEvent s =
    .next { s with clk := { s.clk with now := s.clk.now.secondLater, dow := s.clk.now.secondLater.date.dow } } := by
  refine congrArg Host.Outcome.next ?_
  unfold secondEvent
  rw [tick_eq]
  by_cases hl : s.clk.now = lastSecond
  · have idle : s.schedulerIdle := h.resolve_left (by rw [hl]; decide)
    rw [if_pos hl]
    rw [clockMoved_idle (by exact idle)]
    rfl
  · rw [if_neg hl]
    dsimp only
    by_cases h0 : s.clk.now.secondLater.second = 0
    · have idle : s.schedulerIdle := h.resolve_left fun hs => by
        rw [DateTime.secondLater, if_pos hs] at h0
        exact absurd h0 (by simp)
      rw [if_pos h0]
      exact evaluateTable_idle (s := s.setClk _) idle
    · rw [if_neg h0]
      rfl

/-! ### SET CLOCK and READ CLOCK: O30 -/

section
variable {s : State} {tag : Byte}

/-- A set of the clock with nothing scheduled (R130). -/
theorem applySet_idle {u : State} (h : u.schedulerIdle) (t : DateTime) (cause : ClockCause) : applySet t cause u =
    ({ u with clk := { u.clk with now := t, dow := t.date.dow, phase := 0, status := cause.status u.clk.status } } :
      State).withSticky Sticky.clockSet.mask := by
  rw [applySet, clockMoved_idle (by exact h)]
  rfl

theorem setClock_sets (hs : s.serves tag) {args : List Byte} {t : DateTime} (ha : parseClock args = some t)
    (hi : s.schedulerIdle) : Machine.exec (.setClock tag args) s = .next { s with
      clk := { s.clk with now := t, dow := t.date.dow, phase := 0, status := .setManual }
      clu := { s.clu.answered tag 31 .done .none [Byte.ofNat t.date.dow] with
        sticky := s.clu.sticky ||| Sticky.clockSet.mask } } := by
  refine congrArg Host.Outcome.next ?_
  rw [takeCommand_serves hs]
  simp only [setClockOp, Clu.cmd_args, ha]
  rw [applySet_idle (u := { s with clu := s.clu.taken tag }) hi]
  exact reply_taken_sticky hs.1.1 rfl 31 args ..

theorem setClock_refused (hs : s.serves tag) {args : List Byte} (ha : parseClock args = none) :
    Machine.exec (.setClock tag args) s = .next { s with clu := s.clu.answered tag 31 .refused .range [] } := by
  refine congrArg Host.Outcome.next ?_
  rw [takeCommand_serves hs]
  simp only [setClockOp, Clu.cmd_args, ha]
  exact refuse_taken hs.1.1 31 args _

theorem exec_readClock (hs : s.serves tag) : Machine.exec (.readClock tag []) s = .next { s with
    clu := s.clu.answered tag 32 .done .none <| s.clk.now.date.bytes ++
      [Byte.ofNat s.clk.dow, Byte.ofNat s.clk.now.hour, Byte.ofNat s.clk.now.minute, Byte.ofNat s.clk.now.second,
        Byte.ofNat s.clk.status.code, onOffByte s.clk.autoSet] } := by
  refine congrArg Host.Outcome.next ?_
  rw [takeCommand_serves hs, noArgs_nil]
  exact reply_taken hs.1.1 rfl 32 [] ..

/-- A real date and time of day (section 8.1). -/
theorem dateTime_valid_iff (t : DateTime) : t.valid = true ↔
    1 ≤ t.date.month ∧ t.date.month ≤ 12 ∧ t.date.year ≤ 99 ∧ 1 ≤ t.date.day ∧
      t.date.day ≤ monthLength t.date.year t.date.month ∧ t.hour ≤ 23 ∧ t.minute ≤ 59 ∧ t.second ≤ 59 := by
  simp [DateTime.valid, Date.valid, timeValid, and_assoc]

theorem parseClock_length {args : List Byte} (h : args.length ≠ 6) : parseClock args = none := by
  unfold parseClock
  split
  · exact absurd rfl h
  · rfl

end

/-- Settles O30. -/
theorem theClockIsSetReadAndTicks : Obligations.TheClockIsSetReadAndTicks := by
  refine ⟨fun tag s hs => ⟨fun d m y h n sec => ?_, fun args ha => setClock_refused hs (parseClock_length ha), ?_⟩,
    fun s h => exec_secondEvent h⟩
  · intro t real
    have valid : t.valid = true ↔ real := dateTime_valid_iff t
    exact ⟨fun hr hi => setClock_sets hs (if_pos (valid.2 hr)) hi,
      fun hr => setClock_refused hs (if_neg (mt valid.1 hr))⟩
  · intro k result
    have status : Byte.ofNat k.status.code =
        (match k.status with | .unset => 0 | .setManual => 1 | .setBroadcast => 2 : Byte) := by cases k.status <;> rfl
    refine (exec_readClock hs).trans ?_
    simp only [onOffByte, show s.clk = k from rfl, status, result]
    rfl

/-! ### The next occurrence: O32 -/

/-- Away from the wrap a day is counted as it is (log 18). -/
theorem daySeen_eq {now d : Nat} (h : d < 36525 ∨ 18263 * 86400 ≤ now) : daySeen now d = d := by
  refine if_neg fun ⟨h1, h2⟩ => ?_
  have := of_decide_eq_true h2
  have : calendarDays = 36525 := rfl
  omega

/-- From a day on, the earliest matching date whose stop is after now; before the day before yesterday every stop is past. -/
theorem firstFrom_earliest {t : TimerDef} (hr : ∀ date, t.rep ≠ .once date) (hc : t.Commits) {d now : Nat}
    (hd : now / 86400 - 1 ≤ d) (hw : d < 36510 ∨ 18263 * 86400 ≤ now) :
    ∃ x, t.firstFrom d now = some x ∧ d ≤ x ∧ t.rep.On x ∧ now < t.stopOn x * 60 ∧
      ∀ e, d ≤ e → e < x → t.rep.On e → t.stopOn e * 60 ≤ now := by
  have weekly : ∀ w, t.rep = .weekly w → w ≤ 6 := fun w hw => by
    obtain ⟨-, -, -, -, -, -, hrep, -⟩ := hc
    rw [hw] at hrep
    exact hrep
  obtain ⟨e, h1, h2, h3⟩ := Repeat.On_within_fortnight t.rep hr weekly (max d (now / 86400 + 1))
  have := t.stopOn_after hc e
  exact t.firstFrom_spec d now (fun e he => daySeen_eq (by omega)) ⟨e, by omega, by omega, h3, by omega⟩

/-- A date before yesterday has its stop behind now. -/
theorem stopOn_past {t : TimerDef} (hc : t.Commits) {e now : Nat} (h : e < now / 86400 - 1) : t.stopOn e * 60 ≤ now := by
  have := t.stopOn_before hc e
  omega

theorem newOccurrence_repeating {t : TimerDef} (hr : ∀ date, t.rep ≠ .once date) (now : Nat) :
    t.newOccurrence now = t.firstFrom (now / 86400 - 1) now := by
  unfold TimerDef.newOccurrence
  split
  · next date h => exact absurd h (hr date)
  · rfl

/-- Settles O32: the search of sixteen days finds the earliest date, since every day before it has its stop behind now. -/
theorem theNextOccurrenceIsTheEarliest : Obligations.TheNextOccurrenceIsTheEarliest := by
  refine ⟨fun t date now h => ?_, fun t d => ⟨rfl, ?_⟩, fun t now hr hc => ⟨?_, fun last hl => ?_⟩⟩
  · rw [TimerDef.newOccurrence, h]
  · unfold TimerDef.stopOn
    split <;> rfl
  · obtain ⟨x, hx, h1, hon, hnow, hmin⟩ := firstFrom_earliest hr hc (d := now / 86400 - 1) (now := now) (le_refl _) (by omega)
    refine ⟨x, (newOccurrence_repeating hr now).trans hx, hon, hnow, fun e he ho => ?_⟩
    by_cases h : e < now / 86400 - 1
    · exact stopOn_past hc h
    · exact hmin e (by omega) he ho
  · obtain ⟨x, hx, h1, hon, hnow, hmin⟩ := firstFrom_earliest hr hc (d := max (last + 1) (now / 86400 - 1)) (now := now)
      (le_max_right ..) (by omega)
    refine ⟨x, ?_, by omega, hon, hnow, fun e h2 he ho => ?_⟩
    · rw [TimerDef.occurrenceAfter, hx, Option.some_or]
    · by_cases h : e < now / 86400 - 1
      · exact stopOn_past hc h
      · exact hmin e (by omega) he ho

end Sys2Proof.Proofs.ClockOrders
end

section
/-! PROOFS. TIME lines: the decode, its confirmation, and the local time that sets the clock (R120 to R122, R131). -/

namespace Sys2Proof.Proofs.TimeLines
open Sys2Proof.Machine Sys2Proof.Proofs.ClockOrders

/-! ### Local time (R122) -/

/-- The local time of a decode, in seconds. -/
def localSeconds (t : TimeDecode) : Int := (t.at_.seconds : Int) + 1800 * t.offset

theorem localTime_leaves {t : TimeDecode} (hs : t.at_.second ≤ 59)
    (h : localSeconds t < 0 ∨ 36525 * 86400 ≤ localSeconds t) : localTime t = none := by
  refine if_pos ?_
  simp only [localSeconds, DateTime.seconds] at h
  push_cast at h ⊢
  omega

/-- A date and time of the calendar is told by its seconds. -/
theorem localTime_is {t : TimeDecode} {u : DateTime} (hs : t.at_.second ≤ 59) (hu : u.valid = true)
    (h : (u.seconds : Int) = localSeconds t) : localTime t = some u := by
  obtain ⟨date, hour, minute, second⟩ := u
  have valid := hu
  rw [dateTime_valid_iff] at valid
  obtain ⟨-, -, -, -, -, hh, hm, hsec⟩ := valid
  have hd : date.valid = true := by
    simp only [DateTime.valid, Bool.and_eq_true] at hu
    exact hu.1
  have day := Date.dayNumber_lt hd
  have first := dateOfDay_dayNumber hd
  simp only [localSeconds, DateTime.seconds] at h hh hm hsec
  push_cast at h
  have same : second = t.at_.second := by omega
  have minutes : ((t.at_.date.dayNumber * 1440 + t.at_.hour * 60 + t.at_.minute : Nat) : Int) + 30 * t.offset =
      ((date.dayNumber * 1440 + hour * 60 + minute : Nat) : Int) := by
    push_cast
    omega
  have inside : ¬ (((date.dayNumber * 1440 + hour * 60 + minute : Nat) : Int) < 0 ∨
      36525 * 1440 ≤ ((date.dayNumber * 1440 + hour * 60 + minute : Nat) : Int)) := by
    simp only [calendarDays] at day
    omega
  unfold localTime
  rw [minutes]
  dsimp only
  rw [if_neg inside, Int.toNat_natCast]
  have hday : (date.dayNumber * 1440 + hour * 60 + minute) / 1440 = date.dayNumber := by omega
  have hhour : (date.dayNumber * 1440 + hour * 60 + minute) % 1440 / 60 = hour := by omega
  have hmin : (date.dayNumber * 1440 + hour * 60 + minute) % 60 = minute := by omega
  rw [hday, hhour, hmin, first, same]

/-! ### The clock's answer (R131) -/

theorem secondsApart_iff (t u : DateTime) :
    2 ≤ secondsApart t u ↔ (t.seconds : Int) - u.seconds < -1 ∨ 1 < (t.seconds : Int) - u.seconds := by
  unfold secondsApart
  split <;> omega

theorem timeCue_ignored {s : State} {t : DateTime} (h : s.starting = true ∨ s.clk.autoSet = false ∨
    (s.clk.status ≠ .unset ∧ -1 ≤ (t.seconds : Int) - s.clk.now.seconds ∧ (t.seconds : Int) - s.clk.now.seconds ≤ 1)) :
    timeCue t s = s := by
  have near := secondsApart_iff t s.clk.now
  unfold timeCue
  split
  · rfl
  · next hs =>
    refine if_neg ?_
    obtain h | h | ⟨h1, h2, h3⟩ := h
    · exact absurd h hs
    · simp [h]
    · rintro ⟨-, h | h⟩
      · exact h1 h
      · have := near.1 h
        omega

theorem timeCue_sets {s : State} {t : DateTime} (hs : s.starting = false) (ha : s.clk.autoSet = true)
    (h : s.clk.status = .unset ∨ (t.seconds : Int) - s.clk.now.seconds < -1 ∨ 1 < (t.seconds : Int) - s.clk.now.seconds)
    (hi : s.schedulerIdle) : timeCue t s = ({ s with clk :=
      { s.clk with now := t, dow := t.date.dow, phase := 0, status := .setBroadcast } } : State).withSticky
        Sticky.clockSet.mask := by
  rw [timeCue, if_neg (by simp [hs]), if_pos ⟨ha, h.imp_right (secondsApart_iff t s.clk.now).2⟩, applySet_idle hi]
  rfl

/-! ### The decode at its tuner (R120, R121) -/

/-- The decode of the content of a TIME line, with its checks. -/
theorem decodeTime_content (day month year hour minute second offset : Byte) (rest : List Byte) :
    decodeTime ([day, month, year, hour, minute, second, offset] ++ rest) =
      let t : TimeDecode :=
        { at_ := { date := { day := day.toNat, month := month.toNat, year := year.toNat }, hour := hour.toNat,
                   minute := minute.toNat, second := second.toNat }, offset := offset.toInt }
      if t.at_.valid = true ∧ -24 ≤ t.offset ∧ t.offset ≤ 24 then some t else none := by
  simp only [decodeTime, byteAt, List.cons_append, List.getD_cons_succ, List.getD_cons_zero, Nat.reduceSub]

theorem timesAgree_iff (old new : TimeDecode) : timesAgree old new = true ↔ old.at_.date = new.at_.date ∧
    old.at_.hour = new.at_.hour ∧ old.at_.minute = new.at_.minute ∧ old.offset = new.offset ∧
    (new.at_.second = old.at_.second ∨ new.at_.second = old.at_.second + 1) := by
  simp [timesAgree, and_assoc]

/-- Settles O46: the line is decoded and kept; a confirmed one is handed to the clock as local time. -/
theorem timeLinesSetTheClock : Obligations.TimeLinesSetTheClock := by
  intro x line bytes head rest day month year hour minute second offset s hh hb h4 seen r date decode valid agrees kept gives
  have row : Machine.exec (.linePacket (streamOf x) line (.data bytes)) s =
      .next (cueLineTaken x 2 ([day, month, year, hour, minute, second, offset] ++ rest) seen) :=
    exec_cueLine hh (by rw [hb, List.append_assoc]) h4 (.inr rfl)
  have record : seen.cueRecord x = r := by cases x <;> rfl
  have decoded := decodeTime_content day month year hour minute second offset rest
  have valid_iff : (decode.at_.valid = true ∧ -24 ≤ decode.offset ∧ decode.offset ≤ 24) ↔ valid := by
    rw [dateTime_valid_iff]
    simp only [and_assoc, valid, decode, date]
  have silent (h : r.tuning = none ∨ r.taking = false ∨ ¬ valid) : gives seen := by
    refine row.trans (congrArg _ ?_)
    unfold cueLineTaken
    rw [record]
    split
    · next ht =>
      obtain ⟨h1, h2⟩ := ht
      have invalid : ¬ valid := by
        obtain h | h | h := h
        · simp [h] at h1
        · simp [h] at h2
        · exact h
      rw [if_neg (by decide), decoded]
      dsimp only
      rw [if_neg (mt valid_iff.1 invalid)]
    · rfl
  refine ⟨silent, fun h1 h2 hv => ?_⟩
  have taken : Machine.exec (.linePacket (streamOf x) line (.data bytes)) s = .next (takeTime x decode seen) := by
    refine row.trans (congrArg _ ?_)
    unfold cueLineTaken
    rw [record, if_pos ⟨h1, h2⟩, if_neg (by decide), decoded]
    dsimp only
    rw [if_pos (valid_iff.2 hv)]
  have agrees_iff : (r.lastTime.any fun old => timesAgree old decode) = true ↔ agrees := by
    simp only [Option.any_eq_true, timesAgree_iff, agrees]
    rfl
  have confirmed (ha : agrees) : takeTime x decode seen = (localTime decode).elim kept fun l => timeCue l kept := by
    simp only [takeTime, record]
    rw [if_pos (agrees_iff.2 ha)]
    cases localTime decode <;> rfl
  have hsec : decode.at_.second ≤ 59 := by
    obtain ⟨-, -, -, -, -, -, -, h, -⟩ := hv
    exact h
  have same : kept.starting = s.starting ∧ kept.clk = s.clk ∧ kept.sch = s.sch := by
    cases x <;> exact ⟨rfl, rfl, rfl⟩
  obtain ⟨hstart, hclk, hsch⟩ := same
  refine ⟨fun ha => ?_, fun ha => ⟨fun hl => ?_, fun t ht hl => ⟨fun hi => ?_, fun hs hau hfar hidle => ?_⟩⟩⟩
  · refine taken.trans (congrArg _ ?_)
    simp only [takeTime, record]
    exact if_neg (mt agrees_iff.1 ha)
  · refine taken.trans (congrArg _ ?_)
    rw [confirmed ha, localTime_leaves hsec hl]
    rfl
  · refine taken.trans (congrArg _ ?_)
    rw [confirmed ha, localTime_is hsec ht hl]
    exact timeCue_ignored (by rw [hstart, hclk]; exact hi)
  · refine taken.trans (congrArg _ ?_)
    rw [confirmed ha, localTime_is hsec ht hl, ← hclk]
    exact timeCue_sets (by rw [hstart]; exact hs) (by rw [hclk]; exact hau) (by rw [hclk]; exact hfar)
      (by rw [State.schedulerIdle, hsch]; exact hidle)

end Sys2Proof.Proofs.TimeLines
end

section
/-! PROOFS. STAGE TIMER and READ TIMER (R136, R141, section 13.6). -/

namespace Sys2Proof.Proofs.TimerReads
open Sys2Proof.Machine Sys2Proof.Proofs.Outputs Sys2Proof.Proofs.Codings

/-! ### The bytes of an entry and of the session's record (section 13.6) -/

theorem reasonByte_eq (r : Option EndReason) : Byte.ofNat (reasonCode r) = match r with
    | none => 0
    | some r => Byte.ofNat (1 + [EndReason.done, .doneLabel, .doneOverrun, .userStop, .tapeEnd, .transport, .pauseLimit, .dew,
        .mains, .deleted, .failedStart, .clock, .overlap, .late, .noCassette, .writeProtected].idxOf r) := by
  cases r with
  | none => rfl
  | some r => exact congrArg Byte.ofNat (Nat.add_comm ..)

theorem minuteBytes_eq (m : Option Nat) : minuteBytes m = match m with
    | none => [0, 0, 0, 0, 0]
    | some m => [Byte.ofNat (dateOfDay (m / 1440)).day, Byte.ofNat (dateOfDay (m / 1440)).month,
        Byte.ofNat (dateOfDay (m / 1440)).year, Byte.ofNat (m % 1440 / 60), Byte.ofNat (m % 60)] := by
  cases m <;> rfl

theorem labelBytes_eq (l : Option Label) : labelBytes l = match l with
    | none => [0, 0, 0, 0]
    | some l => [Byte.ofNat l.day, Byte.ofNat l.month, Byte.ofNat l.hour, Byte.ofNat l.minute] := by
  cases l <;> rfl

theorem originCode_eq (o : Option Nat) : originCode o = o.getD 16 := by cases o <;> rfl

theorem sourceCode_eq (k : SourceKind) : k.code = [SourceKind.air, .ext].idxOf k := by cases k <;> rfl

theorem sessionStateCode_eq (k : SessionState) :
    k.code = [SessionState.starting, .active, .paused, .closing].idxOf k := by cases k <;> rfl

theorem startPhaseCode_eq (p : StartPhase) : p.code = [StartPhase.source, .irWait, .lockup].idxOf p := by cases p <;> rfl

theorem stopRuleCode_eq (r : StopRule) : r.code = [StopRule.clock, .label, .manual].idxOf r := by cases r <;> rfl

theorem firstSpeed_eq (v : Option Speed) : Byte.ofNat ((v.map Speed.toNat).getD 0) =
    match v with | none => 0 | some .one => 1 | some .two => 2 := by
  rcases v with _ | v
  · rfl
  · cases v <;> rfl

theorem currentSpeedByte_eq (v : Speed) : Byte.ofNat v.toNat = match v with | .one => 1 | .two => 2 := by cases v <;> rfl

theorem pauseCause_eq (p : Option PauseCause) :
    Byte.ofNat (pauseCauseCode p) = if p = some .label then 1 else 0 := by
  rcases p with _ | p
  · rfl
  · cases p <;> rfl

theorem flagByte_eq (b : Bool) : flagByte b = if b then 1 else 0 := rfl

/-! ### READ TIMER -/

section
variable {s : State} {tag : Byte}

theorem exec_stageTimer (hs : s.serves tag) {t : TimerDef} (ht : t.FitsFields) :
    Machine.exec (.stageTimer tag (timerFields t)) s = .next { s with
      sch := { s.sch with staging := some t }, clu := s.clu.answered tag 33 .done .none [] } := by
  refine congrArg Host.Outcome.next ?_
  rw [takeCommand_serves hs]
  simp only [stageTimerOp, Clu.cmd_args, parseTimer_timerFields ht]
  exact done_taken hs.1.1 rfl 33 _

theorem readTimer_entry (hs : s.serves tag) {k : Byte} {e : TimerEntry} (hk : k.toNat ≤ 15)
    (he : s.sch.timers[k.toNat]? = some e) {part : Byte} (hp : part.toNat ≤ 1) :
    Machine.exec (.readTimer tag [k, part]) s = .next { s with
      clu := s.clu.answered tag 35 .done .none (if part = 0 then timerPart0 e else timerPart1 e) } := by
  have entry : s.timer k.toNat = e := by simp [State.timer, List.getD, he]
  refine congrArg Host.Outcome.next ?_
  rw [takeCommand_serves hs]
  simp only [readTimerOp, Clu.cmd_args]
  rw [if_neg (by omega), if_neg (by omega), ← entry]
  exact reply_taken hs.1.1 rfl 35 _ ..

theorem readTimer_session (hs : s.serves tag) {x : Session} (hx : s.sch.session = some x) {part : Byte}
    (hp : part.toNat ≤ 1) : Machine.exec (.readTimer tag [16, part]) s = .next { s with
      clu := s.clu.answered tag 35 .done .none (if part = 0 then sessionPart0 x else sessionPart1 x) } := by
  refine congrArg Host.Outcome.next ?_
  rw [takeCommand_serves hs]
  simp only [readTimerOp, Clu.cmd_args, hx]
  refine (if_neg (by simp; omega)).trans ((if_pos rfl).trans ?_)
  exact reply_taken hs.1.1 rfl 35 _ ..

theorem readTimer_noSession (hs : s.serves tag) (hx : s.sch.session = none) {part : Byte} (hp : part.toNat ≤ 1) :
    Machine.exec (.readTimer tag [16, part]) s = .next { s with clu := s.clu.answered tag 35 .refused .state [] } := by
  refine congrArg Host.Outcome.next ?_
  rw [takeCommand_serves hs]
  simp only [readTimerOp, Clu.cmd_args, hx]
  refine (if_neg (by simp; omega)).trans ((if_pos rfl).trans ?_)
  exact refuse_taken hs.1.1 35 _ _

end

/-- Settles O33: the definition is read as it was sent, and each part is returned byte by byte. -/
theorem timerDefinitionsAreStagedAndRead : Obligations.TimerDefinitionsAreStagedAndRead := by
  intro tag s hs bits six reasonByte minuteOf
  have bits_eq : ∀ l, flagBits l = bits l := flagBits_eq
  have reason_eq : ∀ r, Byte.ofNat (reasonCode r) = reasonByte r := reasonByte_eq
  have minute_eq : ∀ m, minuteBytes m = minuteOf m := minuteBytes_eq
  refine ⟨fun t ht => exec_stageTimer hs ht, fun k e hk he => ?_, fun x hx => ?_, fun hx part hp => readTimer_noSession hs hx hp⟩
  · have part0 := readTimer_entry (part := 0) hs hk he (by decide)
    have part1 := readTimer_entry (part := 1) hs hk he (by decide)
    rw [if_pos rfl] at part0
    rw [if_neg (by decide)] at part1
    refine ⟨fun hd => ?_, fun t d hd hn => ?_, fun ho => ?_, fun o ho => ?_⟩
    · rw [part0, timerPart0, hd]
    · rw [part0, timerPart0, hd, hn]
      simp only [List.append_assoc]
      rfl
    · rw [part1, timerPart1, ho]
    · have outcome : timerPart1 e = [1, flagByte o.lastStart.isSome] ++
          (match o.lastStart with
           | none => [0, 0, 0, 0, 0, 0]
           | some d => six d) ++ six o.lastStop ++
          [reasonByte (some o.reason), Byte.ofNat (o.entryNo.getD 0), bits [o.notIndexed, o.seamUnlocked, o.switched]] := by
        have last : Byte.ofNat o.reason.code = reasonByte (some o.reason) := reason_eq (some o.reason)
        rw [timerPart1, ho]
        simp only [bits_eq, last]
        cases o.lastStart <;> rfl
      rw [part1, outcome]
      rfl
  · have part0 := readTimer_session (part := 0) hs hx (by decide)
    have part1 := readTimer_session (part := 1) hs hx (by decide)
    rw [if_pos rfl] at part0
    rw [if_neg (by decide)] at part1
    intro record times
    have record_eq : sessionPart0 x = record := by
      rw [sessionPart0, originCode_eq, sourceCode_eq, sessionStateCode_eq, startPhaseCode_eq, firstSpeed_eq,
        currentSpeedByte_eq, flagByte_eq, pauseCause_eq, stopRuleCode_eq, bits_eq, reason_eq] <;> rfl
    have times_eq : sessionPart1 x = times := by
      rewrite [sessionPart1, minute_eq, minute_eq, minute_eq, labelBytes_eq]
      rfl
    exact ⟨by rw [part0, record_eq], by rw [part1, times_eq]⟩

end Sys2Proof.Proofs.TimerReads
end

section
/-! PROOFS. COMMIT TIMER and CLEAR TIMER, onto an idle entry and onto the running one (R137 to R140, R171). -/

namespace Sys2Proof.Proofs.TimerOrders
open Sys2Proof.Machine Sys2Proof.Proofs.ChannelOrders

/-! ### The checks of COMMIT TIMER (R137) -/

theorem isOnce_iff (r : Repeat) : r.isOnce = true ↔ ∃ date, r = .once date := by
  cases r <;> simp [Repeat.isOnce]

section
variable {s : State} {k : Nat} {t : TimerDef} {ch : Channel}

theorem commitCheck_range (h : 15 < k) : commitTimerCheck k s = some .range := if_pos h

theorem commitCheck_staging (hk : k ≤ 15) (h : s.sch.staging = none) : commitTimerCheck k s = some .state := by
  rw [commitTimerCheck, if_neg (by omega), h]

theorem commitCheck_invalid (hk : k ≤ 15) (h : s.sch.staging = some t) (hc : ¬ t.Commits) :
    commitTimerCheck k s = some .range := by
  rw [commitTimerCheck, if_neg (by omega), h]
  exact if_pos (mt (TimerDef.inRange_iff t).1 hc)

theorem commitCheck_noChannel (hk : k ≤ 15) (h : s.sch.staging = some t) (hc : t.Commits)
    (hx : s.channel t.channel = none) : commitTimerCheck k s = some .referenced := by
  rw [commitTimerCheck, if_neg (by omega), h]
  dsimp only
  rw [if_neg (not_not_intro ((TimerDef.inRange_iff t).2 hc)), hx]

/-- Past the first four rows: the label, the clock, and the running entry. -/
theorem commitCheck_later (hk : k ≤ 15) (h : s.sch.staging = some t) (hc : t.Commits)
    (hx : s.channel t.channel = some ch) : commitTimerCheck k s =
      if t.label.isSome ∧ ch.isExt then some .range
      else if t.rep.isOnce ∧ s.clk.status = .unset then some .unsetClock
      else if s.runningEntry = some k then
        if s.closing then some .busy
        else if (s.timer k).defn.all (fun u => t.differsRunning u) then some .running
        else none
      else none := by
  rw [commitTimerCheck, if_neg (by omega), h]
  dsimp only
  rw [if_neg (not_not_intro ((TimerDef.inRange_iff t).2 hc)), hx]

theorem runningEntry_of {x : Session} (hx : s.sch.session = some x) (ho : x.origin = some k) :
    s.runningEntry = some k := by simp [State.runningEntry, hx, ho]

theorem not_runningEntry (h : ∀ x, s.sch.session = some x → x.origin ≠ some k) : s.runningEntry ≠ some k := by
  rw [State.runningEntry]
  cases hx : s.sch.session with
  | none => simp
  | some x => exact h x hx

theorem differsRunning_iff (t u : TimerDef) : t.differsRunning u = true ↔
    t.channel ≠ u.channel ∨ t.rep ≠ u.rep ∨ t.startHour ≠ u.startHour ∨ t.startMinute ≠ u.startMinute ∨
      t.speed ≠ u.speed := by
  simp only [TimerDef.differsRunning, Bool.or_eq_true, decide_eq_true_eq, or_assoc]

end

section
variable {s : State} {tag k : Byte}

theorem commitTimer_refused (hs : s.serves tag) {r : Reason} (h : commitTimerCheck k.toNat s = some r) :
    Machine.exec (.commitTimer tag [k]) s = .next { s with clu := s.clu.answered tag 34 .refused r [] } := by
  have check : commitTimerCheck k.toNat { s with clu := s.clu.taken tag } = some r := h
  refine congrArg Host.Outcome.next ?_
  rw [takeCommand_serves hs]
  simp only [commitTimerOp, Clu.cmd_args, oneByte, check]
  exact refuse_taken hs.1.1 34 _ _

/-- The state a commit's effect begins from: the command is taken, the staging record empty. -/
def begun (s : State) (tag : Byte) : State :=
  { s with clu := s.clu.taken tag, sch := { s.sch with staging := none } }

/-- A commit that passes its checks: its effect, then the record marked, then DONE. -/
theorem commitTimer_accepted (hs : s.serves tag) {t : TimerDef} {u : State} (h : commitTimerCheck k.toNat s = none)
    (ht : s.sch.staging = some t)
    (hu : (if s.runningEntry = some k.toNat then commitRunning k.toNat t (begun s tag)
      else commitIdle k.toNat t (begun s tag)) = { u with clu := s.clu.taken tag })
    (hw : u.watchesNothing) :
    Machine.exec (.commitTimer tag [k]) s = .next { markRecord (.timer k.toNat) u with
      clu := s.clu.answered tag 34 .done .none [] } := by
  have check : commitTimerCheck k.toNat { s with clu := s.clu.taken tag } = none := h
  refine congrArg Host.Outcome.next ?_
  rw [takeCommand_serves hs]
  simp only [commitTimerOp, Clu.cmd_args, oneByte, check, ht]
  rw [← done_marked hs.1.1 34 [k] _ u, ← reassessWatch_nothing (s := { u with clu := s.clu.taken tag }) hw, ← hu]
  rfl

theorem commitTimer_idle (hs : s.serves tag) {t : TimerDef} (hk : k.toNat ≤ 15) (h : commitTimerCheck k.toNat s = none)
    (ht : s.sch.staging = some t) (hc : t.Commits) (hr : ∀ x, s.sch.session = some x → x.origin ≠ some k.toNat)
    (hw : s.watchesNothing) (hl : s.sch.timers.length = 16)
    (hd : s.clk.status = .unset ∨ ∃ d, t.newOccurrence s.clk.now.seconds = some d ∧
      s.clk.now.seconds < (if t.label = none then t.startOn d else t.startOn d - 15) * 60) :
    Machine.exec (.commitTimer tag [k]) s = .next { markRecord (.timer k.toNat)
      { s with sch := { s.sch with
          staging := none
          timers := s.sch.timers.modify k.toNat fun e =>
            { e with
              state := .armed, defn := some t, deferred := false, interrupted := false
              next := t.newOccurrence s.clk.now.seconds } } } with
      clu := s.clu.answered tag 34 .done .none [] } := by
  refine commitTimer_accepted hs h ht ?_ (watchesNothing_modified hw k.toNat (fun _ _ => ?_) hw.1 rfl)
  · rw [if_neg (not_runningEntry hr)]
    refine (commitIdle_armed (v := begun s tag) hc hw (by rw [begun, hl]; omega) (fun u hu => ?_) hd).trans rfl
    exact not_runningEntry fun x hx => hr x (hu ▸ hx)
  · exact EntryState.noConfusion

end

/-! ### The commit onto the running entry (R139, R171) -/

/-- A session and a change of its entry, put into the scheduler. -/
def withEntry (v : State) (k : Nat) (y : Session) (f : TimerEntry → TimerEntry) : State :=
  { v with sch := { v.sch with session := some y, timers := v.sch.timers.modify k f } }

/-- The session with its occurrence's new stop, and with a deadline, where it has one, after it. -/
def restopped (x : Session) (start stop : Nat) : Session :=
  { x with occurrence := some (start, stop), deadline := if x.deadline.isSome then some (stop + 180) else none }

/-- The session under the new label, by the clock and with its marks clear (R171). -/
def relabelled (x : Session) (label : Option Label) (start stop : Nat) : Session :=
  { x with
    occurrence := some (start, stop), deadline := if label.isSome then some (stop + 180) else none
    label := label, stopRule := .clock, holdPending := false, cueLoss := false, lossTimer := none }

section
variable {v : State} {k : Nat} {t u : TimerDef} {x : Session} {start old : Nat}

theorem commitRunning_eq (hu : (v.timer k).defn = some u) (hx : v.sch.session = some x)
    (ho : x.occurrence = some (start, old)) : commitRunning k t v = evalClockStop
      (if u.label = t.label then
        withEntry v k (restopped x start (t.stopOn (start / 1440))) (fun e => { e with defn := some t })
      else relabel t.label
        (withEntry v k (restopped x start (t.stopOn (start / 1440))) (fun e => { e with defn := some t }))) := by
  have session : (modTimer k (fun e => { e with defn := some t }) v).sch.session = some x := hx
  unfold commitRunning
  rw [hu]
  dsimp only [Option.bind_some]
  rw [modSession_some session, ho]
  rfl

/-- The clock stops no session whose rule is another, or whose stop is still to come. -/
theorem evalClockStop_waits {w : State} {y : Session} (hy : w.sch.session = some y)
    (h : y.stopRule ≠ .clock ∨ ∃ a b, y.occurrence = some (a, b) ∧ b < 36525 * 1440 ∧ ¬ b * 60 ≤ w.clk.now.seconds) :
    evalClockStop w = w := by
  rw [evalClockStop, hy]
  dsimp only
  obtain h | ⟨a, b, ho, hb, hn⟩ := h
  · cases hr : y.stopRule with
    | clock => exact absurd hr h
    | label => rfl
    | manual => rfl
  · rw [ho]
    cases hr : y.stopRule with
    | clock =>
      have seen : minuteSeen w.nowSeconds b = b := if_neg fun ⟨h1, _⟩ => absurd h1 (by simp only [calendarDays]; omega)
      refine if_pos ?_
      simp only [State.sessionBefore, seen, decide_eq_true_eq]
      exact Nat.lt_of_not_le hn
    | label => rfl
    | manual => rfl

theorem evalClockStop_stops {w : State} {y : Session} {a b : Nat} (hy : w.sch.session = some y)
    (hr : y.stopRule = .clock) (ho : y.occurrence = some (a, b)) (hb : b < 36525 * 1440)
    (hd : b * 60 ≤ w.clk.now.seconds) : evalClockStop w = beginClose .done w := by
  have seen : minuteSeen w.nowSeconds b = b := if_neg fun ⟨h1, _⟩ => absurd h1 (by simp only [calendarDays]; omega)
  rw [evalClockStop, hy]
  dsimp only
  rw [hr, ho]
  refine if_neg ?_
  simp only [State.sessionBefore, seen, decide_eq_true_eq]
  exact Nat.not_lt.2 hd

/-- A session that records or pauses is closed, the tape braking; the transport holds no command of the recording (R13,
R156). -/
theorem beginClose_brakes {w : State} {y : Session} (hy : w.sch.session = some y) (ha : y.state ≠ .closing)
    (own : w.trc.state.isSession = true) (hh : w.trc.held = none) (r : EndReason) :
    beginClose r w = { w.transportTo
        { w.trc.stops with
          atRestMark := true, pausePoint := none, markDue := false, heldHalt := false, heldStart := none,
          heldPause := false, heldResume := none } with
      sch := { w.sch with session := some { y with state := .closing, closeReason := some r } } } := by
  have stops : w.trc.state.takesStop = true := by rw [TState.takesStop, own]; rfl
  unfold beginClose
  simp only [hy, ha, if_false]
  simp only [withdrawOrders, State.setTrc, State.setSch, stops, if_true, orderStop, State.holds, hh, own,
    Bool.false_eq_true, if_false, stopTape_eq]
  simp [State.transportTo, Trc.stops, Trc.noLimits, hh]

/-- The label changes, and its pause does not hold: the session stands by the clock. -/
theorem relabel_eq {w : State} {stop : Nat} (label : Option Label) (f : TimerEntry → TimerEntry)
    (hp : ¬ (x.state = .paused ∧ x.pauseCause = some .label)) :
    relabel label (withEntry w k (restopped x start stop) f) =
      if label.isSome then testSessionCue (withEntry w k (relabelled x label start stop) f)
      else withEntry w k (relabelled x label start stop) f := by
  have paused : (decide (x.state = .paused) && decide (x.pauseCause = some .label)) = false := by
    simpa using hp
  unfold relabel
  simp only [withEntry, Option.any_some, restopped, paused, Bool.false_eq_true, if_false]
  rfl

/-- A label pause ends with the change: ACTIVE, and the tape runs back for the seam (R171, R17). -/
theorem relabel_resumes {w : State} {stop : Nat} (label : Option Label)
    (hp : x.state = .paused ∧ x.pauseCause = some .label) (ho : x.origin = some k) (hr : w.trc.state = .recordPause)
    (hw : w.watchesNothing) :
    relabel label (withEntry w k (restopped x start stop) (fun e => { e with defn := some t })) =
      let resumed : State := withEntry
        (w.transportTo
          { w.trc.movesInto .lockup .backspace with
            orderedSpeed := x.currentSpeed, orderedIndex := false, backspaceCount := 0 })
        k { relabelled x label start stop with state := .active, pauseCause := none }
        (fun e => { e with defn := some t, state := .recording })
      if label.isSome then testSessionCue resumed else resumed := by
  obtain ⟨h1, h2⟩ := hp
  have back : labelResume (withEntry w k (relabelled x label start stop) (fun e => { e with defn := some t })) = withEntry
        (w.transportTo
          { w.trc.movesInto .lockup .backspace with
            orderedSpeed := x.currentSpeed, orderedIndex := false, backspaceCount := 0 })
        k { relabelled x label start stop with state := .active, pauseCause := none }
        (fun e => { e with defn := some t, state := .recording }) := by
    have running : ∀ z : State, z.sch.session = some { relabelled x label start stop with state := .active, pauseCause := none } →
        z.runningEntry = some k := fun z hz => by simp [State.runningEntry, hz, relabelled, ho]
    have entry : ∀ z : State, z.sch.timers = w.sch.timers.modify k (fun e => { e with defn := some t }) →
        (z.timer k).state ≠ .waiting := fun z hz => by
      rcases z.timer_mem k with hm | hm
      · rw [hz] at hm
        exact modify_all (P := fun e : TimerEntry => e.state ≠ .waiting) (f := fun e => { e with defn := some t })
          (fun e he => he) _ k hw.2 _ hm
      · rw [hm]; decide
    unfold labelResume
    rw [modSession_some (x := relabelled x label start stop) rfl]
    simp only [orderResume]
    rw [if_pos (by exact hr)]
    simp only [beginBackspace, beginMotion_eq (st := .lockup) rfl (by decide)]
    rw [running _ rfl]
    dsimp only
    rw [setEntryState_quiet (entry _ rfl) (by decide)]
    simp only [modTimer, withEntry, State.setTrc, State.setSch, State.transportTo, modify_modify]
    rfl
  have paused : (decide (x.state = .paused) && decide (x.pauseCause = some .label)) = true := by
    simp [h1, h2]
  rw [← back]
  unfold relabel
  simp only [withEntry, Option.any_some, restopped, paused, if_true]
  rfl

/-- Without a cue of its channel the session stands by the clock. -/
theorem testSessionCue_none {w : State} {y : Session} (hy : w.sch.session = some y) (h : w.channelCue y.channel = none) :
    testSessionCue w = w := by
  simp only [testSessionCue, hy, h, ite_self]

/-- A matching RUN of its channel brings an ACTIVE session from the clock to its label (R168). -/
theorem testSessionCue_run {w : State} {y : Session} {f : TimerEntry → TimerEntry} {cue : Cue}
    (hr : y.stopRule = .clock) (hl : y.label.isSome) (ha : y.state = .active)
    (hc : (withEntry w k y f).channelCue y.channel = some cue) (hm : cueMatches (withEntry w k y f) y.channel y.label cue = true)
    (hs : cue.status = .run) (hloss : y.cueLoss = false) (ht : y.lossTimer = none) :
    testSessionCue (withEntry w k y f) = withEntry w k { y with stopRule := .label } f := by
  have matches_ : cueMatches (withEntry w k { y with stopRule := .label, cueLoss := false, lossTimer := none } f)
      y.channel y.label cue = true := hm
  have session : (withEntry w k y f).sch.session = some y := rfl
  simp only [testSessionCue, session]
  rw [if_pos ⟨hr, hl⟩, hc]
  simp only [clockContent, session]
  rw [if_pos ⟨by rw [ha]; decide, hm, by rw [hs]; decide⟩, modSession_some session]
  have labelled : ∀ z : State, z = withEntry w k { y with stopRule := .label, cueLoss := false, lossTimer := none } f →
      labelContent cue z = withEntry w k { y with stopRule := .label, cueLoss := false, lossTimer := none } f := by
    rintro z rfl
    have session : (withEntry w k { y with stopRule := .label, cueLoss := false, lossTimer := none } f).sch.session =
        some { y with stopRule := .label, cueLoss := false, lossTimer := none } := rfl
    simp only [labelContent, session]
    rw [if_neg (by rw [ha]; decide), if_neg (by simp [matches_, hs]), clearCueLoss, modSession_some session]
    simp only [ha, hs]
    rfl
  refine (labelled _ rfl).trans ?_
  rw [← hloss, ← ht]

end

/-! ### CLEAR TIMER (R140) -/

section
variable {s : State} {tag k : Byte}

theorem clearTimer_idle (hs : s.serves tag) (hk : k.toNat ≤ 15) (hr : ∀ x, s.sch.session = some x → x.origin ≠ some k.toNat)
    (hw : s.watchesNothing) : Machine.exec (.clearTimer tag [k]) s =
    .next (if (s.timer k.toNat).state = .empty then { s with clu := s.clu.answered tag 36 .done .none [] }
      else { markRecord (.timer k.toNat)
          { s with sch := { s.sch with timers := s.sch.timers.modify k.toNat fun _ => TimerEntry.empty } } with
        clu := s.clu.answered tag 36 .done .none [] }) := by
  have cleared : ({ s with sch := { s.sch with timers := s.sch.timers.modify k.toNat fun _ => TimerEntry.empty } } :
      State).watchesNothing :=
    watchesNothing_modified hw k.toNat (fun _ _ => EntryState.noConfusion) hw.1 rfl
  have marked : ∀ (n : RecordName) (u : State), u.watchesNothing → (markRecord n u).watchesNothing := fun n u hu => by
    rw [Sys2Proof.Proofs.Marking.markRecord_frame]
    exact hu
  refine congrArg Host.Outcome.next ?_
  rw [takeCommand_serves hs]
  simp only [clearTimerOp, Clu.cmd_args, oneByte]
  rw [if_neg (by omega)]
  refine (if_neg (by exact not_runningEntry hr)).trans ?_
  by_cases he : (s.timer k.toNat).state = .empty
  · rw [if_pos he]
    have same : clearIdle k.toNat { s with clu := s.clu.taken tag } = { s with clu := s.clu.taken tag } := if_pos he
    rw [same, reassessWatch_nothing (s := { s with clu := s.clu.taken tag }) hw]
    exact done_taken hs.1.1 rfl 36 _
  · rw [if_neg he]
    have emptied : clearIdle k.toNat { s with clu := s.clu.taken tag } = markRecord (.timer k.toNat)
        { ({ s with sch := { s.sch with timers := s.sch.timers.modify k.toNat fun _ => TimerEntry.empty } } : State) with
          clu := s.clu.taken tag } := if_neg he
    rw [emptied, reassessWatch_nothing (marked _ _ (by exact cleared))]
    exact done_marked hs.1.1 36 _ _
      { s with sch := { s.sch with timers := s.sch.timers.modify k.toNat fun _ => TimerEntry.empty } }

theorem clearTimer_running (hs : s.serves tag) (hk : k.toNat ≤ 15) {x : Session} (hx : s.sch.session = some x)
    (ho : x.origin = some k.toNat) (ha : x.state ≠ .closing) (hr : s.trc.state = .record) (hh : s.trc.held = none)
    (hi : s.clu.inFlight.length < 2) (hw : s.watchesNothing) : Machine.exec (.clearTimer tag [k]) s =
    .next { s.transportTo
        { s.trc.stops with
          atRestMark := true, pausePoint := none, markDue := false, heldHalt := false, heldStart := none,
          heldPause := false, heldResume := none } with
      sch := { s.sch with
        session := some { x with state := .closing, closeReason := some .deleted, clearNote := true }
        clears := s.sch.clears ++ [s.clu.nextId] }
      clu := s.clu.holding tag 36 .sch } := by
  refine congrArg Host.Outcome.next ?_
  rw [takeCommand_serves hs]
  simp only [clearTimerOp, Clu.cmd_args, oneByte]
  rw [if_neg (by omega)]
  refine (if_pos (by exact runningEntry_of hx ho)).trans ?_
  refine (if_pos (by exact hi)).trans ?_
  rw [enlist_taken rfl]
  dsimp only [State.setSch]
  rw [modSession_some (x := x) (by exact hx), 
    beginClose_brakes (y := { x with clearNote := true }) (by rfl) ha (by exact congrArg TState.isSession hr) (by exact hh)]
  exact reassessWatch_nothing hw

end

/-- Settles O34: the checks in their order, the armed entry, the running entry's three changes, and CLEAR TIMER. -/
theorem timersAreCommittedAndCleared : Obligations.TimersAreCommittedAndCleared := by
  refine ⟨fun tag k s hs => ?_, ?_, fun tag k s hs hk hl => ⟨fun hr hw => ?_, fun x hx ho ha hr hh hi hw => ?_⟩⟩
  · intro refusedWith
    have refused : ∀ r, commitTimerCheck k.toNat s = some r → refusedWith r := fun r => commitTimer_refused hs
    refine ⟨fun hk => refused _ (commitCheck_range hk), fun hk ht => refused _ (commitCheck_staging hk ht),
      fun t hk ht => ⟨fun hc => refused _ (commitCheck_invalid hk ht hc),
        fun hc hx => refused _ (commitCheck_noChannel hk ht hc hx), fun ch hc hx => ⟨fun h1 h2 => ?_, fun hlab => ?_⟩⟩⟩
    · exact refused _ ((commitCheck_later hk ht hc hx).trans (if_pos ⟨h1, h2⟩))
    have air : ¬ (t.label.isSome = true ∧ ch.isExt = true) := by
      rintro ⟨h1, h2⟩
      obtain h | h := hlab
      · simp [h] at h1
      · simp [h] at h2
    have later := (commitCheck_later hk ht hc hx).trans (if_neg air)
    have set (h : ∀ date, t.rep = .once date → s.clk.status ≠ .unset) :
        ¬ (t.rep.isOnce = true ∧ s.clk.status = .unset) := by
      rintro ⟨h1, h2⟩
      obtain ⟨date, hd⟩ := (isOnce_iff t.rep).1 h1
      exact h date hd h2
    refine ⟨fun date h1 h2 => ?_, fun x h1 h2 h3 h4 => ?_, fun x u h1 h2 h3 h4 h5 h6 => ?_, fun h1 h2 h3 h4 h5 => ?_⟩
    · exact refused _ (later.trans (if_pos ⟨(isOnce_iff t.rep).2 ⟨date, h1⟩, h2⟩))
    · have closing : s.closing = true := by simp [State.closing, h2, h4]
      rw [if_neg (set h1), if_pos (runningEntry_of h2 h3), if_pos closing] at later
      exact refused _ later
    · have open_ : ¬ s.closing = true := by simp [State.closing, h2, h4]
      have other : (s.timer k.toNat).defn.all (fun u => t.differsRunning u) = true := by
        rw [h5]
        exact (differsRunning_iff t u).2 h6
      rw [if_neg (set h1), if_pos (runningEntry_of h2 h3), if_neg open_, if_pos other] at later
      exact refused _ later
    · rw [if_neg (set h1), if_neg (not_runningEntry h2)] at later
      exact commitTimer_idle hs hk later ht hc h2 h3 h4 h5
  · intro tag k t u ch x start old s hs hk ht hc hch hlab hset hx ho hopen hu hsame hw hocc stop hstop due labelPaused kept
      relabelled' gives
    have air : ¬ (t.label.isSome = true ∧ ch.isExt = true) := by
      rintro ⟨h1, h2⟩
      obtain h | h := hlab
      · simp [h] at h1
      · simp [h] at h2
    have set : ¬ (t.rep.isOnce = true ∧ s.clk.status = .unset) := by
      rintro ⟨h1, h2⟩
      obtain ⟨date, hd⟩ := (isOnce_iff t.rep).1 h1
      exact hset date hd h2
    have running := runningEntry_of hx ho
    have open_ : ¬ s.closing = true := by simp [State.closing, hx, hopen]
    have agrees : ¬ (s.timer k.toNat).defn.all (fun u => t.differsRunning u) = true := by
      rw [hu]
      refine mt (differsRunning_iff t u).1 ?_
      rw [hsame]
      simp
    have check := commitCheck_later hk ht hc hch
    rw [if_neg air, if_neg set, if_pos running, if_neg open_, if_neg agrees] at check
    have accepted (y : Session) (v : State) (change : TimerEntry → TimerEntry)
        (hch : ∀ e : TimerEntry, e.state ≠ .waiting → (change e).state ≠ .waiting)
        (h : commitRunning k.toNat t (begun s tag) =
          { v with
            sch := { s.sch with
              staging := none, session := some y
              timers := s.sch.timers.modify k.toNat fun e => change { e with defn := some t } }
            clu := s.clu.taken tag }) : gives y v change :=
      commitTimer_accepted (u := { v with sch := { s.sch with
          staging := none, session := some y
          timers := s.sch.timers.modify k.toNat fun e => change { e with defn := some t } } }) hs check ht
        ((if_pos running).trans h) (watchesNothing_modified hw k.toNat (fun e he => hch { e with defn := some t } he) hw.1 rfl)
    have effect := commitRunning_eq (v := begun s tag) (t := t) hu hx hocc
    have notDue : ¬ due → ∀ y : Session, y.occurrence = some (start, stop) → ∀ w : State, w.sch.session = some y →
        w.clk = s.clk → evalClockStop w = w := fun hd y hy w hws hwc =>
      evalClockStop_waits hws (.inr ⟨start, stop, hy, hstop, by rw [hwc]; exact hd⟩)
    refine ⟨fun hlabel => ⟨fun hwait => ?_, fun hrule hdue hact hr hh => ?_⟩, fun hlabel hd hcue => ⟨fun hp => ?_, fun hp hr => ?_⟩,
      fun cue hlabel hsome hact hcue hcl hrun hnet => ?_⟩
    · rw [if_pos hlabel.symm] at effect
      refine accepted _ s id (fun _ h => h) (effect.trans ?_)
      obtain hwait | hwait := hwait
      · exact evalClockStop_waits (y := restopped x start stop) rfl (.inl hwait)
      · exact notDue hwait (restopped x start stop) rfl _ rfl rfl
    · rw [if_pos hlabel.symm, evalClockStop_stops (y := restopped x start stop) (by rfl) hrule (by rfl) hstop (by exact hdue),
        beginClose_brakes (y := restopped x start stop) (by rfl) hopen (by exact congrArg TState.isSession hr) (by exact hh)] at effect
      exact accepted _ _ id (fun _ h => h) effect
    · have found := relabel_eq (k := k.toNat) (w := begun s tag) (start := start) (stop := stop) t.label
        (fun e => { e with defn := some t }) hp
      rw [if_neg (Ne.symm hlabel), found] at effect
      have quiet : (if t.label.isSome then testSessionCue (withEntry (begun s tag) k.toNat (relabelled x t.label start stop)
            fun e => { e with defn := some t })
          else withEntry (begun s tag) k.toNat (relabelled x t.label start stop) fun e => { e with defn := some t }) =
          withEntry (begun s tag) k.toNat (relabelled x t.label start stop) fun e => { e with defn := some t } := by
        split
        · next h => exact testSessionCue_none (y := relabelled x t.label start stop) rfl (hcue.resolve_left (by
            intro e; simp [e] at h))
        · rfl
      rw [quiet, notDue hd (relabelled x t.label start stop) rfl _ (by rfl) (by rfl)] at effect
      exact accepted _ s id (fun _ h => h) effect
    · have found := relabel_resumes (k := k.toNat) (w := begun s tag) (start := start) (stop := stop) (t := t) t.label hp ho
        hr hw
      rw [if_neg (Ne.symm hlabel), found] at effect
      generalize hres : withEntry ((begun s tag).transportTo
          { (begun s tag).trc.movesInto .lockup .backspace with
            orderedSpeed := x.currentSpeed, orderedIndex := false, backspaceCount := 0 })
        k.toNat { relabelled x t.label start stop with state := .active, pauseCause := none }
        (fun e => { e with defn := some t, state := .recording }) = resumed at effect
      have session : resumed.sch.session = some { relabelled x t.label start stop with state := .active, pauseCause := none } := by
        rw [← hres]; rfl
      have quiet : (if t.label.isSome then testSessionCue resumed else resumed) = resumed := by
        split
        · next h =>
          refine testSessionCue_none session ?_
          rw [← hres]
          exact hcue.resolve_left (by intro e; simp [e] at h)
        · rfl
      dsimp only at effect
      rw [quiet, notDue hd _ rfl _ session (by rw [← hres]; rfl), ← hres] at effect
      exact accepted _ (s.transportTo _) (fun e => { e with state := .recording }) (fun _ _ => EntryState.noConfusion) effect
    · have unpaused : ¬ labelPaused := fun ⟨h, _⟩ => absurd (hact.symm.trans h) (by decide)
      have found := relabel_eq (k := k.toNat) (w := begun s tag) (start := start) (stop := stop) t.label
        (fun e => { e with defn := some t }) unpaused
      have matches_ : cueMatches (withEntry (begun s tag) k.toNat (relabelled x t.label start stop)
          fun e => { e with defn := some t }) x.channel t.label cue = true := by
        have network : (match (s.channel x.channel).bind Channel.network with
            | none => true
            | some n => decide (cue.network = n)) = true := by
          cases hc : s.channel x.channel with
          | none => rfl
          | some c =>
            cases hn : c.network with
            | none => simp [hn]
            | some n => simp [hn, hnet c n hc hn]
        have first : (t.label.isSome && decide (cue.label = t.label)) = true := by simp [hsome, hcl]
        exact (congrArg₂ (· && ·) first network : _ = (true && true))
      have labelRule := testSessionCue_run (w := begun s tag) (k := k.toNat) (y := relabelled x t.label start stop)
        (f := fun e => { e with defn := some t }) (cue := cue) rfl hsome hact hcue matches_ hrun rfl rfl
      rw [if_neg (Ne.symm hlabel), found, if_pos hsome, labelRule,
        evalClockStop_waits (y := { relabelled x t.label start stop with stopRule := .label }) (by rfl)
          (.inl (by simp))] at effect
      exact accepted _ s id (fun _ h => h) effect
  · have state : (s.sch.timers[k.toNat]?.map TimerEntry.state = some .empty) ↔ (s.timer k.toNat).state = .empty := by
      rw [State.timer, List.getD, List.getElem?_eq_getElem (by omega)]
      simp
    have row := clearTimer_idle hs hk hr hw
    exact ⟨fun h => by rw [if_pos (state.1 h)] at row; exact row,
      fun h => by rw [if_neg (mt state.2 h)] at row; exact row⟩
  · exact clearTimer_running hs hk hx ho (by rw [ha]; decide) hr hh hi hw

end Sys2Proof.Proofs.TimerOrders
end

section
/-! PROOFS. SET OPTION, POWER, RESET UNIT and the codes that name no command, and the commands that are turned away
(R175 to R177, R185, R186, R191, R192, R195). -/

namespace Sys2Proof.Proofs.SettingOrders
open Sys2Proof.Machine Sys2Proof.Proofs.ChannelOrders Sys2Proof.Proofs.Marking

/-! ### Commands turned away: O39 -/

/-- Every code from 1 to 38 is refused while the store is read at cold start (R195). -/
theorem commandOp_starting {s : State} (h : s.starting = true) {code : Nat} (h1 : 1 ≤ code) (h2 : code ≤ 38) (c : Cmd) :
    commandOp code c s = refuse c .starting s := by
  interval_cases code <;> exact if_pos h

/-- Settles O39. -/
theorem commandsAreTurnedAway : Obligations.CommandsAreTurnedAway := by
  intro tag code args s
  refine ⟨fun ha => ?_, fun ha ht hf => ?_, fun ht hs h1 h2 => ?_⟩ <;> rw [exec_rowOfCode]
  · rw [takeCommand_asleep ha]
  · have full : takeCommand tag code.toNat args (commandOp code.toNat) s = raise .overrun s := by
      simp only [takeCommand, ha, Bool.false_eq_true, if_false]
      rw [if_neg ht, if_pos hf]
    rw [full]
    rfl
  · rw [takeCommand_takes ht, commandOp_starting (s := { s with clu := s.clu.taken tag }) hs h1 h2, refuse_taken ht.1]

/-! ### SET OPTION (R191) -/

section
variable {s : State} {tag : Byte}

/-- The state with new options: the record is marked when the value changes. -/
def optionsMarked (s : State) (p : Options) : State :=
  if p = s.sto.options then s else markRecord .options { s with sto := { s.sto with options := p } }

theorem setOption_valid (hs : s.serves tag) {i v : Byte} {p : Options}
    (h : setOptionValue s.sto.options i.toNat v.toNat = some p) : Machine.exec (.setOption tag [i, v]) s =
    .next (optionActs i.toNat { optionsMarked s p with clu := s.clu.answered tag 37 .done .none [] }) := by
  refine congrArg Host.Outcome.next ?_
  rw [takeCommand_serves hs]
  simp only [setOptionOp, Clu.cmd_args, h]
  refine congrArg (optionActs i.toNat) ?_
  unfold optionsMarked
  by_cases hp : p = s.sto.options
  · rw [if_pos hp, if_pos hp]
    subst hp
    exact done_taken hs.1.1 rfl 37 _
  · rw [if_neg hp, if_neg hp]
    exact done_marked hs.1.1 37 _ _ { s with sto := { s.sto with options := p } }

theorem setOption_invalid (hs : s.serves tag) {i v : Byte} (h : setOptionValue s.sto.options i.toNat v.toNat = none) :
    Machine.exec (.setOption tag [i, v]) s = .next { s with clu := s.clu.answered tag 37 .refused .range [] } := by
  refine congrArg Host.Outcome.next ?_
  rw [takeCommand_serves hs]
  simp only [setOptionOp, Clu.cmd_args, h]
  exact refuse_taken hs.1.1 37 _ _

theorem setOption_length (hs : s.serves tag) {args : List Byte} (h : args.length ≠ 2) :
    Machine.exec (.setOption tag args) s = .next { s with clu := s.clu.answered tag 37 .refused .range [] } := by
  refine congrArg Host.Outcome.next ?_
  rw [takeCommand_serves hs]
  unfold setOptionOp
  rw [Clu.cmd_args]
  split
  · exact absurd rfl h
  · exact refuse_taken hs.1.1 37 _ _

theorem optionActs_none {i : Nat} (h1 : i ≠ 1) (h5 : i ≠ 5) (s : State) : optionActs i s = s := by
  simp only [optionActs, h1, h5, false_and, if_false]

/-- What SET OPTION leaves beside the store and the control line unit. -/
theorem optionsMarked_frame (s : State) (p : Options) : optionsMarked s p = s.setSto (optionsMarked s p).sto ∧
    (optionsMarked s p).sto.options = p ∧ (optionsMarked s p).sto.power = s.sto.power := by
  unfold optionsMarked
  split
  · next h => exact ⟨rfl, h.symm, rfl⟩
  · have options := (markRecord_tun .options { s with sto := { s.sto with options := p } }).2
    have frame := markRecord_frame .options { s with sto := { s.sto with options := p } }
    have power : (markRecord .options { s with sto := { s.sto with options := p } }).sto.power = s.sto.power := by
      unfold markRecord startWrite
      split <;> split <;> (first | rfl | (split <;> rfl))
    exact ⟨frame, options, power⟩

/-- A mains level above the sense fails the mains at once (R191). -/
theorem optionActs_level (s : State) (tag : Byte) (p : Options) :
    optionActs 5 { optionsMarked s p with clu := s.clu.answered tag 37 .done .none [] } =
      (if s.pins.mainsSense < 900 + 100 * p.mainsLevel then
        mainsFails { optionsMarked s p with clu := s.clu.answered tag 37 .done .none [] }
      else { optionsMarked s p with clu := s.clu.answered tag 37 .done .none [] }) := by
  obtain ⟨frame, options, -⟩ := optionsMarked_frame s p
  have pins : (optionsMarked s p).pins = s.pins := by rw [frame]; rfl
  refine (if_neg (by decide)).trans (if_congr ?_ rfl rfl)
  simp only [true_and, State.mainsLow, decide_eq_true_eq, thresholdOf, options, pins]

theorem exec_mainsFailure_marked (hs : s.serves tag) {p : Options} (h : s.pins.mainsSense < 900 + 100 * p.mainsLevel) :
    Machine.exec (.mainsFailure s.pins.mainsSense) { optionsMarked s p with clu := s.clu.answered tag 37 .done .none [] } =
      .next (mainsFails { optionsMarked s p with clu := s.clu.answered tag 37 .done .none [] }) := by
  obtain ⟨frame, options, power⟩ := optionsMarked_frame s p
  have pins : (optionsMarked s p).pins = s.pins := by rw [frame]; rfl
  have awake : s.sto.power ≠ .backup := by
    obtain ⟨⟨-, ha, -⟩, -⟩ := hs
    intro e
    simp [State.asleep, e] at ha
  have same : State.setPins { optionsMarked s p with clu := s.clu.answered tag 37 .done .none [] }
      { (optionsMarked s p).pins with mainsSense := s.pins.mainsSense } =
      { optionsMarked s p with clu := s.clu.answered tag 37 .done .none [] } := by
    rw [← pins]
    rfl
  refine congrArg Host.Outcome.next ?_
  refine (congrArg (fun t : State => if t.mainsLow ∧ t.sto.power ≠ .backup then mainsFails t else t) same).trans ?_
  refine if_pos ⟨?_, by rw [power]; exact awake⟩
  simp only [State.mainsLow, decide_eq_true_eq, thresholdOf, options, pins]
  exact h

end

/-! ### POWER (R192) -/

section
variable {s : State} {tag : Byte}

theorem exec_power (hs : s.serves tag) (args : List Byte) : Machine.exec (.power tag args) s =
    .next (powerOp (s.clu.cmd tag 38 args) { s with clu := s.clu.taken tag }) :=
  congrArg Host.Outcome.next (takeCommand_serves hs ..)

theorem power_on (hs : s.serves tag) : Machine.exec (.power tag [0]) s =
    .next { s with sto := { s.sto with power := .on }, clu := s.clu.answered tag 38 .done .none [] } := by
  rw [exec_power hs]
  exact congrArg Host.Outcome.next ((if_pos rfl).trans (done_taken hs.1.1 rfl 38 _))

theorem power_range (hs : s.serves tag) {args : List Byte} (h0 : args ≠ [0]) (h1 : args ≠ [1]) :
    Machine.exec (.power tag args) s = .next { s with clu := s.clu.answered tag 38 .refused .range [] } := by
  rw [exec_power hs]
  exact congrArg Host.Outcome.next ((if_neg h0).trans ((if_neg h1).trans (refuse_taken hs.1.1 38 _ _)))

theorem powerOp_standby (u : State) : powerOp (s.clu.cmd tag 38 [1]) u =
    if u.sto.power = .standby then done (s.clu.cmd tag 38 [1]) u
    else match standbyCheck u with
      | some r => refuse (s.clu.cmd tag 38 [1]) r u
      | none => done (s.clu.cmd tag 38 [1]) (enterStandby u) :=
  (if_neg (by simp)).trans (if_pos rfl)

theorem power_standby (hs : s.serves tag) (hp : s.sto.power = .standby) : Machine.exec (.power tag [1]) s =
    .next { s with clu := s.clu.answered tag 38 .done .none [] } := by
  rw [exec_power hs, powerOp_standby, if_pos (by exact hp)]
  exact congrArg Host.Outcome.next (done_taken hs.1.1 rfl 38 _)

theorem power_refused (hs : s.serves tag) (hp : s.sto.power = .on) {r : Reason} (h : standbyCheck s = some r) :
    Machine.exec (.power tag [1]) s = .next { s with clu := s.clu.answered tag 38 .refused r [] } := by
  have check : standbyCheck { s with clu := s.clu.taken tag } = some r := h
  have on : s.sto.power ≠ .standby := by simp [hp]
  rw [exec_power hs, powerOp_standby, if_neg (by exact on), check]
  exact congrArg Host.Outcome.next (refuse_taken hs.1.1 38 _ _)

/-- STANDBY is entered: a host's motion stops, and the view is released (R99, R192). -/
theorem power_entered (hs : s.serves tag) (hp : s.sto.power = .on) (h : standbyCheck s = none) :
    Machine.exec (.power tag [1]) s =
      .next (done (s.clu.cmd tag 38 [1]) (enterStandby { s with clu := s.clu.taken tag })) := by
  have check : standbyCheck { s with clu := s.clu.taken tag } = none := h
  have on : s.sto.power ≠ .standby := by simp [hp]
  rw [exec_power hs, powerOp_standby, if_neg (by exact on), check]

theorem releaseView_none {u : State} (h : u.tun.view = none) : releaseView u = u := by
  simp only [releaseView, h]

theorem readCut_clean {u : State} (h : u.trc.state ≠ .dirRead) : u.readCut = u := if_neg h

/-- The host's motion with a command held: it stops, the command ABORTED NOT_ON. -/
theorem trcStandby_held {u : State} {h : Held} {f : InFlight} (hu : u.trc.state.isUserMode = true) (hh : u.trc.held = some h)
    (hid : h.id = f.id) (hf : u.clu.inFlight.find? (fun g => g.id = f.id) = some f) :
    trcStandby u = { u.readCut.transportTo { u.trc.stops with held := none } with
      clu := u.clu.completed f .aborted .notOn } := by
  have held : (stopTape (cutRead u)).trc.held = some h := by
    rw [stopTape_eq, cutRead_eq]
    simp [State.transportTo, Trc.stops, Trc.noLimits, hh]
  unfold trcStandby
  rw [if_pos hu]
  simp only [completeHeld, held]
  rw [hid, complete_mem (by rw [stopTape_eq, cutRead_eq]; simpa [State.transportTo] using hf), stopTape_eq, cutRead_eq]
  simp [State.transportTo, State.setTrc]

end

/-! ### RESET UNIT (R185, R186) -/

section
variable {s : State} {tag : Byte}

theorem exec_resetUnit (ht : s.takes tag) (args : List Byte) : Machine.exec (.resetUnit tag args) s =
    .next (resetUnitOp (s.clu.cmd tag 40 args) { s with clu := s.clu.taken tag }) :=
  congrArg Host.Outcome.next (takeCommand_takes ht ..)

/-- The reset of the control line unit leaves its own reply alone (R186). -/
theorem cluReset_done (ht : s.takes tag) :
    done (s.clu.cmd tag 40 [4]) (cluReset (s.clu.cmd tag 40 [4]) { s with clu := s.clu.taken tag }) = { s with
      clu := Clu.answered { s.clu with ready := [], inFlight := [], reserved := [] } tag 40 .done .none [] } := by
  by_cases h : tag = 0
  · subst h
    simp [done, reply, cluReset, State.setClu, Clu.cmd, Clu.taken, Clu.answer, Clu.answered]
  · have h' : ¬ tag = 0#8 := h
    simp [done, reply, cluReset, State.setClu, Clu.cmd, Clu.taken, Clu.answer, Clu.answered, h']

/-- Cue capture forgets what it decoded at a tuner. -/
theorem cueResetTuner_eq {u : State} (h : u.sch.session = none) (x : TunerId) : cueResetTuner x u =
    setCueRecord x { u.cueRecord x with lastCue := none, lastTime := none, age := 0, current := none } u := by
  unfold cueResetTuner
  rw [cueLost_noSession (by cases x <;> exact h)]
  cases x <;> rfl

theorem schReset_eq {u : State} (h : u.sch.session = none) (hb : u.tun.tunerB.owner ≠ .watch) : schReset u =
    { u with sch := { u.sch with timers := u.sch.timers.map entryAtReset, staging := none, watch := none, clears := [] } } := by
  have quiet : ∀ v : State, v.tun = u.tun → releaseWatch v = v := fun v hv => if_neg (by rw [hv]; exact hb)
  unfold schReset
  rw [quiet _ (by rfl)]
  simp only [modSession, State.setSch, h]

theorem entryAtReset_eq (e : TimerEntry) : entryAtReset e = { e with
    state := if e.state = .waiting ∨ e.state = .recording ∨ e.state = .paused then .armed else e.state
    deferred := false } := by
  obtain ⟨state, defn, next, deferred, interrupted, outcome⟩ := e
  cases state <;> rfl

theorem clearSources_eq (u : State) : clearSources u =
    (let cleared := ((u.untuned .a).untuned .b).viewing none
     { cleared with tun := { cleared.tun with ext := ExtRecord.cleared, staging := none } }) := by
  rw [clearSources, clearTuner_eq, clearTuner_eq, setView_eq]
  rfl

/-- The tuning controller's reset finds no search, no recording and no watch. -/
theorem tunReset_eq {u : State} (hs : u.tun.search.state = .idle) (ha : u.tun.tunerA.owner ≠ .record)
    (he : u.tun.ext.owner ≠ .record) (hb : u.tun.tunerB.owner ≠ .watch) : tunReset u =
    (let cleared := ((u.untuned .a).untuned .b).viewing none
     { cleared with tun := { cleared.tun with ext := ExtRecord.cleared, staging := none } }) := by
  have search : searchCancelled u = u := if_neg (by simp [Search.isRunning, hs])
  simp only [tunReset, search, ha, he, hb, or_self, decide_false, Bool.false_eq_true, if_false, clearSources_eq]

/-- The one command in flight is cancelled (R185). -/
theorem cancelOwner_one {u : State} {f : InFlight} {o : OwnerBlock} (hf : f.owner = o) (hu : u.clu.inFlight = [f]) :
    cancelOwner o u = { u with clu := u.clu.completed f .cancelled .none } := by
  have one : (u.clu.inFlight.filter fun g => g.owner = o) = [f] := by simp [hu, hf]
  unfold cancelOwner
  rw [one]
  exact complete_mem (by simp [hu]) ..

theorem readCut_withClu (u : State) (c : Clu) : ({ u with clu := c } : State).readCut = { u.readCut with clu := c } := by
  by_cases h : u.trc.state = .dirRead <;> simp [State.readCut, h]

end

/-- Settles O38: each unit's reset is its equation, after its commands are cancelled. -/
theorem unitsAreReset : Obligations.UnitsAreReset := by
  intro tag s ht answer becomes
  have row : ∀ args t, resetUnitOp (s.clu.cmd tag 40 args) { s with clu := s.clu.taken tag } = t →
      Machine.exec (.resetUnit tag args) s = .next t := fun args t h => (exec_resetUnit ht args).trans (congrArg _ h)
  have answered : ∀ unit : Byte, done (s.clu.cmd tag 40 [unit]) { s with clu := s.clu.taken tag } =
      { s with clu := answer } := fun unit => done_taken ht.1 rfl 40 _
  refine ⟨row _ _ (cluReset_done ht), fun hx => ⟨?_, fun hb hf => ?_, fun h1 h2 h3 h4 => ?_, fun h1 h2 h3 => ?_⟩,
    fun args ha => row _ _ ?_, fun code args hw => ?_⟩
  · intro forgets
    refine row _ _ ((congrArg cueReset (answered 3)).trans ?_)
    rw [cueReset, cueResetTuner_eq (u := State.setCue { s with clu := answer } { s.cue with ring := [] }) hx,
      cueResetTuner_eq (by exact hx)]
    rfl
  · intro back
    have none_ : cancelOwner .sch { s with clu := s.clu.taken tag } = { s with clu := s.clu.taken tag } :=
      cancelOwner_none fun f hm => by rw [hf f hm]; decide
    refine row _ _ ((congrArg (fun u => schReset (done _ u)) none_).trans ?_)
    rw [answered, schReset_eq (u := { s with clu := answer }) hx hb]
    have same : s.sch.timers.map entryAtReset = s.sch.timers.map back :=
      List.map_congr_left fun e _ => entryAtReset_eq e
    dsimp only
    rw [same]
  · intro cleared
    refine row _ _ ((congrArg tunReset (answered 1)).trans ?_)
    exact tunReset_eq (u := { s with clu := answer }) h1 h2 h3 h4
  · intro stopped
    refine ⟨fun hf => ?_, fun f hf hone => ?_⟩
    · have none_ : cancelOwner .trc { s with clu := s.clu.taken tag } = { s with clu := s.clu.taken tag } :=
        cancelOwner_none fun f hm => by rw [hf f hm]; decide
      refine row _ _ ((congrArg (fun u => trcReset (done _ u)) none_).trans ?_)
      rw [answered, trcReset_eq (s := { s with clu := answer }) hx h1 h2 h3, readCut_withClu]
      rfl
    · obtain ⟨⟨-, -, -, -, hids, -, -⟩, -, -⟩ := id ht
      have cancelled := cancelOwner_one (u := { s with clu := s.clu.taken tag }) hf hone
      have replied : done (s.clu.cmd tag 40 [0]) { s with clu := (s.clu.taken tag).completed f .cancelled .none } =
          { s with clu := (s.clu.completed f .cancelled .none).answered tag 40 .done .none [] } :=
        done_completed (t := { s with clu := (s.clu.taken tag).completed f .cancelled .none }) ht.1
          (hids f (by simp [hone])) rfl 40 [0]
      refine row _ _ ((congrArg (fun u => trcReset (done _ u)) cancelled).trans ((congrArg trcReset replied).trans ?_))
      rw [trcReset_eq (s := { s with clu := (s.clu.completed f .cancelled .none).answered tag 40 .done .none [] }) hx h1
        h2 h3, readCut_withClu]
      rfl
  · have other : resetUnitOp (s.clu.cmd tag 40 args) { s with clu := s.clu.taken tag } =
        refuse (s.clu.cmd tag 40 args) .range { s with clu := s.clu.taken tag } := by
      unfold resetUnitOp
      rw [Clu.cmd_args]
      have named : ∀ n, n ≤ 4 → oneByte args ≠ some n := fun n hn he => by
        match args, he with
        | [b], he =>
          have hb : b.toNat = n := Option.some.inj he
          exact ha b (by omega) rfl
      split
      · next h => exact absurd h (named 0 (by omega))
      · next h => exact absurd h (named 1 (by omega))
      · next h => exact absurd h (named 2 (by omega))
      · next h => exact absurd h (named 3 (by omega))
      · next h => exact absurd h (named 4 (by omega))
      · rfl
    rw [other, refuse_taken ht.1]
  · have unknown : commandOp code.toNat = unknownOp := by
      have far : code.toNat = 0 ∨ 40 < code.toNat := by
        simp only [Instr.wellFormed, codeUnknown, Bool.and_eq_true, decide_eq_true_eq] at hw
        omega
      unfold commandOp
      split <;> first | omega | rfl
    refine congrArg Host.Outcome.next ?_
    rw [takeCommand_takes ht, unknown]
    exact refuse_taken ht.1 code.toNat args _

/-- The options that a value in range gives (section 12.3). -/
theorem setOptionValue_cases (o : Options) (v : Nat) :
    setOptionValue o 0 v = (if v ≤ 1 then some { o with autoRewind := v = 0 } else none) ∧
    setOptionValue o 1 v = (if v ≤ 1 then some { o with clockAutoSet := v = 0 } else none) ∧
    setOptionValue o 2 v = (if v ≤ 15 then some { o with presenceThreshold := v } else none) ∧
    setOptionValue o 3 v = (if 1 ≤ v ∧ v ≤ 4 then some { o with presenceRun := v } else none) ∧
    setOptionValue o 4 v = (if 6 ≤ v ∧ v ≤ 22 then some { o with defaultCueLine := v } else none) ∧
    setOptionValue o 5 v = (if v ≤ 3 then some { o with mainsLevel := v } else none) ∧
    setOptionValue o 6 v = (if v ≤ 7 then some { o with defaultProfile := v } else none) :=
  ⟨rfl, rfl, rfl, rfl, rfl, rfl, rfl⟩

/-- Settles O35: each option is its place in the record, and STANDBY is its checks and what it releases. -/
theorem optionsAndPowerAreSet : Obligations.OptionsAndPowerAreSet := by
  refine ⟨fun tag i v s hs => ?_, fun tag s hs => ?_⟩
  · intro o marked setTo refused
    obtain ⟨c0, c1, c2, c3, c4, c5, c6⟩ := setOptionValue_cases o v.toNat
    have zero : v = 0 ↔ v.toNat = 0 := ⟨fun h => by rw [h]; rfl, fun h => BitVec.eq_of_toNat_eq h⟩
    have sets (p : Options) (h1 : i.toNat ≠ 1) (h5 : i.toNat ≠ 5) (h : setOptionValue o i.toNat v.toNat = some p) :
        setTo p := (setOption_valid hs h).trans (congrArg _ (optionActs_none h1 h5 _))
    refine ⟨fun hi hv => ?_, fun hi hv => ?_, fun hi hv => ?_, fun hi h1 h4 => ?_, fun hi h1 h2 => ?_,
      fun hi hv => ?_, fun hi hv => ?_, fun hbad => ?_, fun args ha => setOption_length hs ha⟩
    · subst hi
      refine sets _ (by decide) (by decide) ((c0.trans (if_pos hv)).trans ?_)
      simp only [zero]
    · subst hi
      refine (setOption_valid hs (i := 1) (v := v) (c1.trans (if_pos hv))).trans ?_
      simp only [zero]
      obtain ⟨-, options, -⟩ := optionsMarked_frame s { o with clockAutoSet := v.toNat = 0 }
      obtain ⟨frame, -, -⟩ := optionsMarked_frame s { o with clockAutoSet := v.toNat = 0 }
      have clock : (optionsMarked s { o with clockAutoSet := v.toNat = 0 }).clk = s.clk := by rw [frame]; rfl
      refine congrArg Host.Outcome.next ((if_pos rfl).trans ?_)
      dsimp only [State.setClk]
      rw [options, clock]
      rfl
    · subst hi
      exact sets _ (by decide) (by decide) (c2.trans (if_pos hv))
    · subst hi
      exact sets _ (by decide) (by decide) (c3.trans (if_pos ⟨h1, h4⟩))
    · subst hi
      exact sets _ (by decide) (by decide) (c4.trans (if_pos ⟨h1, h2⟩))
    · subst hi
      have row := (setOption_valid hs (i := 5) (v := v) (c5.trans (if_pos hv))).trans (congrArg _ (optionActs_level s tag _))
      refine ⟨fun h => ?_, fun h => ?_⟩
      · rw [if_neg (Nat.not_lt.2 h)] at row
        exact row
      · rw [if_pos h] at row
        exact row.trans (exec_mainsFailure_marked hs h).symm
    · subst hi
      exact sets _ (by decide) (by decide) (c6.trans (if_pos hv))
    · have number : ∀ n : Nat, n < 256 → (i = BitVec.ofNat 8 n ↔ i.toNat = n) := fun n hn =>
        ⟨fun h => by rw [h, BitVec.toNat_ofNat]; omega, fun h => BitVec.eq_of_toNat_eq (by rw [h, BitVec.toNat_ofNat]; omega)⟩
      have i2 : i = 2 ↔ i.toNat = 2 := number 2 (by omega)
      have i3 : i = 3 ↔ i.toNat = 3 := number 3 (by omega)
      have i4 : i = 4 ↔ i.toNat = 4 := number 4 (by omega)
      have i5 : i = 5 ↔ i.toNat = 5 := number 5 (by omega)
      have i6 : i = 6 ↔ i.toNat = 6 := number 6 (by omega)
      refine setOption_invalid hs ?_
      unfold setOptionValue
      split <;> first | rfl | (refine if_neg ?_; simp only [zero, i2, i3, i4, i5, i6] at hbad; omega)
  · intro answer refusedWith
    refine ⟨power_on hs, power_standby hs, fun hp hx => power_refused hs hp (if_pos ?_), fun hp hx => ?_,
      fun args h0 h1 => power_range hs h0 h1⟩
    · exact Option.isSome_iff_ne_none.2 hx
    intro userMode off
    have none_ : ¬ s.hasSession = true := by simp [State.hasSession, hx]
    refine ⟨fun hb => power_refused hs hp ((if_neg none_).trans (if_pos hb)), fun hq => ?_, fun hu hv => ?_⟩
    · have free : standbyCheck s = none := by
        refine (if_neg none_).trans (if_neg ?_)
        rcases hq with e | e | e | e | e <;> simp [e]
      have user : ¬ s.trc.state.isUserMode = true := by rcases hq with e | e | e | e | e <;> rw [e] <;> decide
      have stays : trcStandby { s with clu := s.clu.taken tag } = { s with clu := s.clu.taken tag } := if_neg user
      refine ⟨fun hv => ?_, fun n hv => ?_⟩ <;> rw [power_entered hs hp free, enterStandby, stays]
      · rw [releaseView_none (u := { s with clu := s.clu.taken tag }) hv]
        exact congrArg Host.Outcome.next (done_taken hs.1.1 rfl 38 _)
      · rw [Views.releaseView_a (u := { s with clu := s.clu.taken tag }) hv]
        exact congrArg Host.Outcome.next (done_taken hs.1.1 rfl 38 _)
    · obtain ⟨ho, hns⟩ := hu
      have user : s.trc.state.isUserMode = true := RecordOrders.isUserMode_of_takesOrder ho hns
      have free : standbyCheck s = none := by
        refine (if_neg none_).trans (if_neg ?_)
        rcases ho with e | e | e | e | e | e | e | e | e <;> simp [e]
      refine ⟨fun hh => ?_, fun f hh hf => ?_⟩ <;> rw [power_entered hs hp free, enterStandby]
      · have stopped := trcStandby_eq (s := { s with clu := s.clu.taken tag }) hh
        rw [stopped, if_pos user, readCut_withClu, releaseView_none (by simpa [State.transportTo] using hv)]
        refine congrArg Host.Outcome.next ((done_taken hs.1.1 rfl 38 _).trans ?_)
        simp [State.setSto, State.transportTo, off, answer]
      · have stopped := trcStandby_held (u := { s with clu := s.clu.taken tag }) user hh rfl hf
        obtain ⟨⟨⟨-, -, -, -, hids, -, -⟩, -, -⟩, -⟩ := id hs
        rw [stopped, readCut_withClu, releaseView_none (by simpa [State.transportTo] using hv)]
        refine congrArg Host.Outcome.next ((done_completed hs.1.1 (hids f (List.mem_of_find?_eq_some hf)) rfl 38 _).trans ?_)
        simp [State.setSto, State.transportTo, off]

end Sys2Proof.Proofs.SettingOrders
end

section
/-! PROOFS. The records of the settings store: what is written is read back, and one write after another (R188 to R190, R195,
R196, R198). -/

namespace Sys2Proof.Proofs.StoreRecords
open Sys2Proof.Machine Sys2Proof.Proofs.Codings Sys2Proof.Proofs.Copies Sys2Proof.Proofs.Profiles Sys2Proof.Proofs.SettingOrders

/-! ### Framing (section 13.5) -/

theorem sum_frameRecord (name : RecordName) (content : List Byte) : sumBytes (frameRecord name content) = 0 :=
  sumBytes_check _

theorem unframeRecord_frameRecord (name : RecordName) {content : List Byte} (h : content.length < 256) :
    unframeRecord name (frameRecord name content) = some content := by
  have count : (Byte.ofNat content.length).toNat = content.length := Byte.ofNat_toNat _ h
  refine (if_pos ⟨rfl, rfl, by simp [count], sum_frameRecord name content⟩).trans ?_
  simp [count]

/-- A record that was framed is loaded by its content. -/
theorem loadRecord_framed {name : RecordName} {content : List Byte} {t u : State} (h : content.length < 256)
    (hc : loadContent name content t = some u) : loadRecord name (some (frameRecord name content)) t = u := by
  simp only [loadRecord, Option.bind_some, unframeRecord_frameRecord name h, hc]

/-- A record that fails its sum, or is not there, is loaded as its default, with STORE_CHECK (R195). -/
theorem loadRecord_bad {name : RecordName} {bytes : Option (List Byte)} (h : ∀ l, bytes = some l → sumBytes l ≠ 0)
    (t : State) : loadRecord name bytes t = (loadDefault name t).withSticky Sticky.storeCheck.mask := by
  have unread : bytes.bind (unframeRecord name) = none := by
    refine Option.bind_eq_none_iff.2 fun l hl => ?_
    cases hu : unframeRecord name l with
    | none => rfl
    | some c => exact absurd (unframeRecord_sum hu) (h l hl)
  simp only [loadRecord, unread]
  rfl

/-! ### The content of each kind of record (R188) -/

theorem parseChannelRecord_fields {c : Channel} (hf : c.FitsFields) (hc : c.Commits) :
    parseChannelRecord (1 :: channelFields c) = some (some c) := by
  have parsed := parseChannel_channelFields hf
  have range := (Channel.inRange_iff c).2 hc
  generalize channelFields c = fields at parsed
  cases fields with
  | nil => exact absurd parsed (by simp [parseChannel])
  | cons a l =>
    simp [parseChannelRecord, parsed, range]

theorem parseTimerRecord_fields {d : TimerDef} (hf : d.FitsFields) (hc : d.Commits) :
    parseTimerRecord (1 :: timerFields d) = some (some d) := by
  have parsed := parseTimer_timerFields hf
  have range := (TimerDef.inRange_iff d).2 hc
  generalize timerFields d = fields at parsed
  cases fields with
  | nil => exact absurd parsed (by simp [parseTimer])
  | cons a l =>
    simp [parseTimerRecord, parsed, range]

theorem parseProfile_content {p : Profile} (hl : p.points.length = 33) (h0 : p.points.getD 0 0 ≤ 450000) (hc : p.code < 256)
    (hm : ∀ k, k < 32 → p.points.getD (k + 1) 0 ≤ p.points.getD k 0) :
    parseProfile (profileContent p) = some (if p.valid then p else Profile.empty) := by
  obtain ⟨valid, code, points⟩ := p
  cases valid with
  | false => rfl
  | true =>
    have points_eq : parsePoints (pointBytes points) = points := parsePoints_bytes3 points (profilePoints_lt points hl h0 hm)
    have length : (pointBytes points).length = 99 := by
      rw [pointBytes, pointBytes_length]
      exact congrArg (3 * ·) hl
    have range : pointsInRange (parsePoints (pointBytes points)) = true := by
      rw [points_eq]
      exact pointsInRange_of hl h0 hm
    have parsed : parseProfile (1 :: Byte.ofNat code :: pointBytes points) =
        some { valid := true, code := (Byte.ofNat code).toNat, points := parsePoints (pointBytes points) } := by
      have some_ : pointBytes points ≠ [] := fun e => by simp [e] at length
      obtain ⟨a, l, e⟩ := List.exists_cons_of_ne_nil some_
      rw [e] at length range ⊢
      exact if_pos ⟨rfl, length, range⟩
    exact parsed.trans (by rewrite [points_eq, Byte.ofNat_toNat code hc]; rfl)

theorem onOffByte_toNat (b : Bool) : (onOffByte b).toNat = if b then 0 else 1 := by cases b <;> rfl

theorem parseOptions_fields {o : Options} (h1 : o.presenceThreshold ≤ 15) (h2 : 1 ≤ o.presenceRun) (h3 : o.presenceRun ≤ 4)
    (h4 : 6 ≤ o.defaultCueLine) (h5 : o.defaultCueLine ≤ 22) (h6 : o.mainsLevel ≤ 3) (h7 : o.defaultProfile ≤ 7) :
    parseOptions (optionFields o) = some o := by
  have seven : List.range 7 = [0, 1, 2, 3, 4, 5, 6] := rfl
  have flag : ∀ b : Bool, (onOffByte b).toNat ≤ 1 ∧ decide ((onOffByte b).toNat = 0) = b := fun b => by cases b <;> decide
  have n1 : (Byte.ofNat o.presenceThreshold).toNat = o.presenceThreshold := Byte.ofNat_toNat _ (by omega)
  have n2 : (Byte.ofNat o.presenceRun).toNat = o.presenceRun := Byte.ofNat_toNat _ (by omega)
  have n3 : (Byte.ofNat o.defaultCueLine).toNat = o.defaultCueLine := Byte.ofNat_toNat _ (by omega)
  have n4 : (Byte.ofNat o.mainsLevel).toNat = o.mainsLevel := Byte.ofNat_toNat _ (by omega)
  have n5 : (Byte.ofNat o.defaultProfile).toNat = o.defaultProfile := Byte.ofNat_toNat _ (by omega)
  refine (if_pos rfl).trans ?_
  simp only [seven, List.foldl_cons, List.foldl_nil, optionFields, List.getD_cons_zero, List.getD_cons_succ,
    Option.bind_some, setOptionValue, flag, if_true, n1, n2, n3, n4, n5, h1, h2, h3, h4, h5, h6, h7, and_self]

/-! ### The lengths -/

theorem channelFields_length {c : Channel} (h : c.FitsFields) : (channelFields c).length < 255 := by
  obtain ⟨ht, -, -⟩ := h
  obtain ⟨tuning, network, cueLine, skip⟩ := c
  cases tuning with
  | air f fine => cases network <;> simp [channelFields, bytes2]
  | ext keys =>
    obtain ⟨-, h4⟩ := ht
    cases network <;> simp [channelFields, bytes2] <;> omega

theorem timerFields_length (d : TimerDef) : (timerFields d).length < 255 := by
  obtain ⟨channel, rep, sh, sm, eh, em, speed, label⟩ := d
  cases rep <;> cases label <;> simp [timerFields, repeatFields, Date.bytes, labelBytes]

theorem profileContent_length {p : Profile} (h : p.points.length = 33) : (profileContent p).length < 256 := by
  unfold profileContent
  split
  · rw [List.length_cons, List.length_cons, pointBytes, pointBytes_length, h]
    decide
  · decide

/-! ### Options and timers that are loaded (R195) -/

theorem selectProfile_same {u : State} {k : Nat} (h : u.tcb.selected = k) : selectProfile k u = u := if_pos h

theorem loadOptions_eq {o : Options} {t : State} (h : t.tcb.selected = o.defaultProfile) : loadOptions o t =
    { t with sto := { t.sto with options := o }, clk := { t.clk with autoSet := o.clockAutoSet } } :=
  selectProfile_same (u := { t with sto := { t.sto with options := o }, clk := { t.clk with autoSet := o.clockAutoSet } }) h

theorem loadTimer_some {t : State} {d : TimerDef} (i : Nat)
    (h : ∃ c, t.channel d.channel = some c ∧ (d.label = none ∨ c.isExt = false)) : loadTimer i (some d) t =
    { t with sch := { t.sch with timers := t.sch.timers.modify i fun _ =>
        { state := .armed, defn := some d, next := none, deferred := false, interrupted := false, outcome := none } } } := by
  obtain ⟨c, hc, hl⟩ := h
  refine if_neg ?_
  rw [timerChannelFails, hc]
  rcases hl with hl | hl <;> simp [hl]

/-! ### A reply's lines (R196) -/

theorem padTo_length {n : Nat} {l : List Byte} (h : l.length ≤ n) : (padTo n l).length = n := by
  simp [padTo]
  omega

theorem reply_lines (r : Reply) (h : r.result.length ≤ 24) :
    r.lines.length = (if r.result.length ≤ 14 then 1 else 2) ∧ ∀ l ∈ r.lines, l.length = 21 := by
  have first : (padTo 14 (r.result.take 14)).length = 14 := padTo_length (by simp)
  have second : (padTo 16 (r.result.drop 14)).length = 16 := padTo_length (by simp; omega)
  unfold Reply.lines
  split
  · simp [first]
  · simp [first, second]

/-- Settles O40: each content is read back by its own coding, and the check byte brings each sum to 0. -/
theorem storedRecordsAreReadBack : Obligations.StoredRecordsAreReadBack := by
  refine ⟨fun name content h => ⟨sum_frameRecord name content, unframeRecord_frameRecord name h⟩, fun s t => ?_,
    fun r h => ⟨sumBytes_check _, reply_lines r h⟩⟩
  intro reads
  refine ⟨fun i h => ?_, fun i c h hf hc => ?_, fun i p h hl h0 hcode hm => ?_, fun p h h1 h2 hl hd => ?_,
    fun o h h1 h2 h3 h4 h5 h6 h7 hsel => ?_, fun i d h hf hc hch => ?_, fun i e h hd => ?_⟩
  · have content : recordContent s (.channel i) = [0] := by simp only [recordContent, h]
    simp only [reads, content]
    exact loadRecord_framed (by decide) rfl
  · have content : recordContent s (.channel i) = 1 :: channelFields c := by simp only [recordContent, h]
    simp only [reads, content]
    exact loadRecord_framed (Nat.succ_lt_succ (channelFields_length hf))
      (by rewrite [loadContent, parseChannelRecord_fields hf hc]; rfl)
  · subst h
    exact loadRecord_framed (profileContent_length hl) (by rewrite [recordContent, loadContent, parseProfile_content hl h0 hcode hm]; rfl)
  · subst h
    refine loadRecord_framed ?_ (by rewrite [recordContent, loadContent, parseIr_irFields h1 h2 hl hd]; rfl)
    simp [recordContent, irFields, bytes2, hl]
  · subst h
    refine loadRecord_framed (by simp [recordContent, optionFields]) ?_
    rw [recordContent, loadContent, parseOptions_fields h1 h2 h3 h4 h5 h6 h7, Option.map_some, loadOptions_eq hsel]
  · have defn : (s.timer i).defn = some d := by
      obtain ⟨e, he, hd⟩ := Option.bind_eq_some_iff.1 h
      simp [State.timer, List.getD, he, hd]
    have content : recordContent s (.timer i) = 1 :: timerFields d := by simp only [recordContent, defn]
    simp only [reads, content]
    refine loadRecord_framed (Nat.succ_lt_succ (timerFields_length d)) ?_
    rw [loadContent, parseTimerRecord_fields hf hc, Option.map_some, loadTimer_some i hch]
  · have defn : (s.timer i).defn = none := by simp [State.timer, List.getD, h, hd]
    have content : recordContent s (.timer i) = [0] := by simp only [recordContent, defn]
    simp only [reads, content]
    exact loadRecord_framed (by decide) rfl

/-! ### Writes and reads, one at a time: O58 -/

section
variable {s : State}

theorem startWrite_busy (h : s.sto.writing.isSome) : startWrite s = s := if_pos (by simp [h])

theorem startWrite_empty (h : s.sto.pendingWrites = []) : startWrite s = s := by
  unfold startWrite
  split
  · rfl
  · rw [h]

theorem startWrite_next (ha : s.asleep = false) (hs : s.starting = false) (hw : s.sto.writing = none) {name : RecordName}
    {rest : List RecordName} (h : s.sto.pendingWrites = name :: rest) : startWrite s = { s with sto := { s.sto with
      pendingWrites := rest, writing := some (name, frameRecord name (recordContent s name)) } } := by
  unfold startWrite
  rw [if_neg (by simp [ha, hs, hw]), h]
  rfl

theorem writeDone_eq (ha : s.asleep = false) : Machine.exec .writeDone s =
    .next (if s.sto.writing.isSome then writeEnds .pass s else s) :=
  congrArg Host.Outcome.next (awake_apply ha _)

theorem writeFail_eq (ha : s.asleep = false) : Machine.exec .writeFail s =
    .next (if s.sto.writing.isSome then (writeEnds .fail s).withSticky Sticky.storeFail.mask else s) :=
  congrArg Host.Outcome.next (awake_apply ha _)

end

theorem recordContent_sto {s : State} {x : Sto} (h : x.options = s.sto.options) (name : RecordName) :
    recordContent { s with sto := x } name = recordContent s name := by
  cases name <;> first | rfl | (simp only [recordContent, h])

/-- Settles O58. -/
theorem theStoreIsWrittenAndRead : Obligations.TheStoreIsWrittenAndRead := by
  refine ⟨fun name s ha hs => ⟨fun hw hm => ?_, fun hw hm => ?_, fun hw hp => ?_⟩, fun s ha => ?_, ?_⟩
  · rw [markRecord, if_pos hm, startWrite_busy hw]
  · rw [markRecord, if_neg hm]
    exact startWrite_busy (s := s.setSto _) hw
  · have queued : s.sto.pendingWrites ++ [name] = [name] := by rw [hp]; rfl
    have content := recordContent_sto (s := s) (x := { s.sto with pendingWrites := s.sto.pendingWrites ++ [name] }) rfl name
    rw [markRecord, if_neg (by simp [hp]), startWrite_next (name := name) (rest := []) (by exact ha) (by exact hs)
      (by exact hw) (by exact queued)]
    dsimp only [State.setSto]
    rw [content, ← hp]
  · intro ended
    have done_ := writeDone_eq ha
    have fail_ := writeFail_eq ha
    refine ⟨fun hw => ?_, fun hw hp => ?_, fun name rest hw hp hs => ?_, fun bytes hr => ?_, fun i bytes hr => ?_,
      fun bytes hb => ?_⟩
    · have idle : ¬ s.sto.writing.isSome = true := by simp [hw]
      rw [if_neg idle] at done_ fail_
      exact ⟨done_, fail_⟩
    · rw [if_pos hw] at done_ fail_
      have ends : ∀ r, writeEnds r s = { s with sto := ended r } := fun r => startWrite_empty (s := { s with sto := ended r }) hp
      rw [ends] at done_ fail_
      exact ⟨done_, fail_⟩
    · intro next
      rw [if_pos hw] at done_ fail_
      have ends : ∀ r, writeEnds r s = next r := fun r => by
        have content := recordContent_sto (s := s) (x := ended r) rfl name
        refine (startWrite_next (s := { s with sto := ended r }) ha hs rfl hp).trans ?_
        rw [content]
      rw [ends] at done_ fail_
      exact ⟨done_, fail_⟩
    · refine congrArg Host.Outcome.next ((awake_apply ha _).trans ?_)
      simp only [hr]
    · intro loaded
      have row : Machine.exec (.storeReadDone bytes) s = .next (readDone i bytes s) := by
        refine congrArg Host.Outcome.next ((awake_apply ha _).trans ?_)
        simp only [hr]
      refine ⟨fun hi => ?_, fun hi hp => ?_⟩ <;> rw [row, readDone]
      · rw [if_pos hi]
        rfl
      · rw [if_neg (by omega), startWrite_empty (by exact hp)]
        rfl
    · have bad : ∀ name, loadRecord name bytes s = _ := fun name => loadRecord_bad (name := name) hb s
      refine ⟨fun i => bad _, fun i => bad _, fun i => bad _, bad _, fun h => (bad .options).trans ?_⟩
      rw [loadDefault, loadOptions_eq (o := Options.default) h]
      rfl
  · refine ⟨rfl, rfl, fun p hp => ?_, fun c hc => ?_, fun k hk => ?_⟩
    · rw [recordAt, if_neg (by omega), if_neg (by omega), if_pos (by omega), Nat.add_sub_cancel_left]
    · rw [recordAt, if_neg (by omega), if_neg (by omega), if_neg (by omega), if_pos (by omega), Nat.add_sub_cancel_left]
    · rw [recordAt, if_neg (by omega), if_neg (by omega), if_neg (by omega), if_neg (by omega), Nat.add_sub_cancel_left]

end Sys2Proof.Proofs.StoreRecords
end

section
/-! PROOFS. Field headers: the field they open, and what a tuner's header counts (R64 to R66, R85 to R88, R112, R116). -/

namespace Sys2Proof.Proofs.Headers
open Sys2Proof.Machine

/-! ### A header opens its field: O41 -/

/-- The field that a header opens. -/
def openedField (h : Header) : FieldRecord := { presence := .live, header := some h, lastLine := none, silence := some 40 }

section
variable {i : Inbound} {s : State}

/-- Putting a field record away changes neither what MON nor what REC carries. -/
theorem setField_choices (i : Inbound) (f : FieldRecord) (s : State) :
    (setField i f s).monChoice = s.monChoice ∧ (setField i f s).recChoice = s.recChoice := by
  cases i <;> exact ⟨rfl, rfl⟩

/-- A header of a stream whose tuner no one owns is handed on to no one. -/
theorem handOn_idle (hi : i ≠ .ctrl) (h : Header) (real : Bool) (f : FieldRecord)
    (idle : ∀ x, (i = .ta ∧ x = .a) ∨ (i = .tb ∧ x = .b) → (s.tuner x).owner = .none ∧ s.cueRecord x = CueRecord.untuned) :
    handOn i h real (setField i f s) = setField i f s := by
  cases i with
  | ta =>
    obtain ⟨h1, h2⟩ := idle .a (.inl ⟨rfl, rfl⟩)
    exact receiveHeader_idle h1 h2
  | tb =>
    obtain ⟨h1, h2⟩ := idle .b (.inr ⟨rfl, rfl⟩)
    exact receiveHeader_idle h1 h2
  | aux => rfl
  | play => rfl
  | ctrl => exact absurd rfl hi

theorem exec_fieldHeader (ha : s.asleep = false) (p : Parity) (grade : Fin 16) (afc : Byte) :
    Machine.exec (.fieldHeader i p grade afc) s = .next (fieldHeader i p grade.val afc.toInt s) :=
  congrArg Host.Outcome.next (awake_apply ha _)

theorem newCtrlField_eq (u : State) : newCtrlField u = { u with clu := { u.clu with
    lineCount := 0, pendingLine := none
    sticky := if u.clu.pendingLine = none then u.clu.sticky else u.clu.sticky ||| Sticky.checkFail.mask } } := by
  unfold newCtrlField
  cases h : u.clu.pendingLine <;> rfl

end

/-- Settles O41: the header is handed on to no one, and no outbound field begins with it. -/
theorem fieldHeadersAreTaken : Obligations.FieldHeadersAreTaken := by
  intro i s ha hm hr f idle
  refine ⟨fun p grade afc hidle => ?_, ?_, fun hf => ?_, fun hs hi hidle => ?_⟩
  · intro opened
    have opens : opened = setField i (openedField { parity := p, grade := grade.val, afc := afc.toInt }) s := rfl
    obtain ⟨mon, recf⟩ := setField_choices i (openedField { parity := p, grade := grade.val, afc := afc.toInt }) s
    refine ⟨fun hi => ?_, fun hi => ?_⟩ <;> rw [exec_fieldHeader ha] <;> refine congrArg Host.Outcome.next ?_
    · rw [opens]
      refine (congrArg (outboundFields i _ true) (handOn_idle hi _ true _ hidle)).trans ?_
      exact outboundFields_uncarried (fun h => hm (mon.symm.trans h)) (fun h => hr (recf.symm.trans h))
    · subst hi
      refine (congrArg (outboundFields .ctrl _ true) (newCtrlField_eq opened)).trans ?_
      exact outboundFields_uncarried hm hr
  · refine congrArg Host.Outcome.next ((awake_apply ha _).trans ?_)
    change (if f.silence.isSome = true then _ else _) = _
    cases h : f.silence <;> rfl
  · refine congrArg Host.Outcome.next ((awake_apply ha _).trans (if_neg ?_))
    rintro ⟨h1, h2⟩
    exact hf.elim (fun h => h h1) h2
  · intro p
    have parity : blankParity (f.header.map Header.parity) = p := by
      simp only [p]
      rcases f.header.map Header.parity with _ | _ | _ <;> rfl
    refine congrArg Host.Outcome.next ((awake_apply ha _).trans ((if_pos ⟨hs, hi⟩).trans ?_))
    rw [← parity]
    obtain ⟨mon, recf⟩ := setField_choices i
      { f with header := some { parity := blankParity (f.header.map Header.parity), grade := 0, afc := 0 }, lastLine := none } s
    refine (congrArg (outboundFields i _ false) (handOn_idle hi _ false _ hidle)).trans ?_
    exact outboundFields_uncarried (fun h => hm (mon.symm.trans h)) (fun h => hr (recf.symm.trans h))

/-! ### A tuner's header: O42 -/

section
variable {x : TunerId} {u : State}

/-- The owners whose headers bring readings, and no search (R86). -/
abbrev Tuner.received (t : Tuner) : Prop := t.owner = .record ∨ t.owner = .watch ∨ t.owner = .view

theorem tunHeader_settling (h : Tuner.received (u.tuner x)) (strong : Bool) (afc : Int) :
    tunHeader x true strong afc u = settlingHeader x u := by
  have none_ : (u.tuner x).owner ≠ .none := by rcases h with e | e | e <;> simp [e]
  have search : (u.tuner x).owner ≠ .search := by rcases h with e | e | e <;> simp [e]
  simp [tunHeader, none_, search]

theorem tunHeader_unmarked (h : Tuner.received (u.tuner x)) (strong : Bool) (afc : Int) :
    tunHeader x false strong afc u = ((unmarkedHeader x strong afc u).1, false) := by
  have none_ : (u.tuner x).owner ≠ .none := by rcases h with e | e | e <;> simp [e]
  have search : (u.tuner x).owner ≠ .search := by rcases h with e | e | e <;> simp [e]
  simp [tunHeader, none_, search]

/-- While the tuner settles, its header lowers the settle count alone. -/
theorem receiveHeader_settling (h : Tuner.received (u.tuner x)) (hs : u.settling x ≠ .none)
    (hq : ¬ (u.settling x = .tune ∧ (u.tuner x).owner = .record)) (strong : Bool) (afc : Int) :
    receiveHeader x strong afc u =
      (let lowered := setTuner x { u.tuner x with settle := (u.tuner x).settle - 1 } u
       if (u.tuner x).settle ≤ 1 then setSettling x .none lowered else lowered) := by
  have marked : decide (u.settling x ≠ .none) = true := by simpa using hs
  have untold : (decide (u.settling x = .tune) && decide ((u.tuner x).owner = .record)) = false := by simpa using hq
  have lowers : tunerHeader x true strong afc u =
      (let lowered := setTuner x { u.tuner x with settle := (u.tuner x).settle - 1 } u
       if (u.tuner x).settle ≤ 1 then setSettling x .none lowered else lowered) := by
    have same : ∀ t : Tuner, (setTuner x t u).settling x = u.settling x ∧ (setTuner x t u).tuner x = t := fun t => by
      cases x <;> exact ⟨rfl, rfl⟩
    unfold tunerHeader
    rw [tunHeader_settling h]
    unfold settlingHeader settleExpires
    dsimp only
    split
    · rw [(same _).1, (same _).2]
      dsimp only
      rw [untold]
      exact if_neg Bool.false_ne_true
    · exact if_neg Bool.false_ne_true
  unfold receiveHeader
  simp only [marked, Bool.not_true, Bool.false_and, Bool.false_eq_true, if_false, lowers]
  simp only [cueHeader, Bool.or_true, if_true]

/-- A header that the tuner's cue record takes makes its cue older (R112, R116). -/
theorem cueHeader_older {v : State} (hc : (v.cueRecord x).tuning.isSome) (ha : (v.cueRecord x).age < 124) :
    cueHeader x false v = setCueRecord x { v.cueRecord x with taking := true, age := (v.cueRecord x).age + 1 } v := by
  have tuned : (v.cueRecord x).tuning.isNone = false := by
    rw [Option.isNone_eq_false_iff]
    exact hc
  have put : ∀ r, (setCueRecord x r v).cueRecord x = r := fun r => by cases x <;> rfl
  have age : min 125 ((v.cueRecord x).age + 1) = (v.cueRecord x).age + 1 := by omega
  simp only [cueHeader, tuned, Bool.or_self, Bool.false_eq_true, if_false, put, age]
  refine if_neg ?_
  simp [CueRecord.expired]
  omega

/-- A settled tuner's header that does not touch its cue record works the tuner, and makes the cue older. -/
theorem receiveHeader_works (hs : u.settling x = .none) (hc : (u.cueRecord x).tuning.isSome) (ha : (u.cueRecord x).age < 124)
    {strong : Bool} {afc : Int} {v : State} (hv : tunerHeader x false strong afc u = v)
    (hr : v.cueRecord x = u.cueRecord x) : receiveHeader x strong afc u =
      setCueRecord x { u.cueRecord x with taking := true, age := (u.cueRecord x).age + 1 } v := by
  have unmarked : decide (u.settling x ≠ .none) = false := by simp [hs]
  have young : (u.cueRecord x).age ≠ 124 := by omega
  have older := cueHeader_older (x := x) (v := v) (by rw [hr]; exact hc) (by rw [hr]; exact ha)
  rw [hr] at older
  unfold receiveHeader
  simp only [unmarked, hv, hr, young, older, ne_eq, not_true_eq_false, decide_false, Bool.or_self, Bool.and_false,
    Bool.false_eq_true, if_false]

/-- A settled tuner's header works the detector and the loop. -/
theorem tunerHeader_unmarked (h : Tuner.received (u.tuner x)) (strong : Bool) (afc : Int) :
    tunerHeader x false strong afc u = (unmarkedHeader x strong afc u).1 := by
  rw [tunerHeader, tunHeader_unmarked h]
  exact if_neg Bool.false_ne_true

/-- The detector's count of strong fields, up to the run (R88). -/
theorem presence_strong (t : Tuner) (k : Nat) : t.presence k true =
    { t with strongRun := min (max k t.strongRun) (t.strongRun + 1), weakRun := 0,
             present := t.present || decide (k ≤ min (max k t.strongRun) (t.strongRun + 1)) } := by
  have run : (if t.strongRun < k then t.strongRun + 1 else t.strongRun) = min (max k t.strongRun) (t.strongRun + 1) := by
    split <;> omega
  simp only [Tuner.presence, if_true, run]

theorem presence_weak (t : Tuner) (k : Nat) : t.presence k false =
    { t with strongRun := 0, weakRun := min (max 25 t.weakRun) (t.weakRun + 1),
             present := t.present && decide (min (max 25 t.weakRun) (t.weakRun + 1) < 25) } := by
  have run : (if t.weakRun < 25 then t.weakRun + 1 else t.weakRun) = min (max 25 t.weakRun) (t.weakRun + 1) := by
    split <;> omega
  simp only [Tuner.presence, Bool.false_eq_true, if_false, run]

theorem unmarkedHeader_weak (afc : Int) :
    (unmarkedHeader x false afc u).1 = setTuner x ((u.tuner x).presence u.sto.options.presenceRun false) u := by
  simp only [unmarkedHeader, Bool.and_false, Bool.false_eq_true, if_false]

/-- A strong header of an owned tuner takes its reading (R86). -/
theorem unmarkedHeader_strong (h : Tuner.received (u.tuner x)) (afc : Int) : unmarkedHeader x true afc u =
    takeReading x afc (setTuner x ((u.tuner x).presence u.sto.options.presenceRun true) u) := by
  have runs : u.afcRuns x = true := by
    unfold State.afcRuns
    rcases h with e | e | e <;> rw [e]
  simp only [unmarkedHeader, runs, Bool.and_self, if_true]

theorem tuner_setTuner (x : TunerId) (t : Tuner) (u : State) : (setTuner x t u).tuner x = t := by cases x <;> rfl

/-- A reading before the eighth is only kept (R87). -/
theorem takeReading_kept {t : Tuner} (h : t.afcHistory.length < 7) (afc : Int) :
    takeReading x afc (setTuner x t u) = (setTuner x { t with afcHistory := t.afcHistory ++ [afc] } u, none) := by
  have short : (t.afcHistory ++ [afc]).length < 8 := by rw [List.length_append]; exact Nat.succ_lt_succ h
  unfold takeReading
  rw [tuner_setTuner]
  refine (if_pos short).trans ?_
  cases x <;> rfl

/-- The eighth reading is averaged, and moves the offset, or does not (R87). -/
theorem takeReading_eighth {t : Tuner} (h : t.afcHistory.length = 7) (afc : Int) {moved : Int × Bool}
    (hm : afcEvaluate t.afc ((t.afcHistory.sum + afc).tdiv 8) = moved) :
    (takeReading x afc (setTuner x t u)).1 =
      (let settled := setTuner x { t with afcHistory := [], afc := moved.1, afcLimit := moved.2 } u
       if moved.1 = t.afc then settled else sendWord x .trim settled) := by
  have full : ¬ (t.afcHistory ++ [afc]).length < 8 := by simp [h]
  have average : afcAverage (t.afcHistory ++ [afc]) = (t.afcHistory.sum + afc).tdiv 8 := by
    simp [afcAverage]
  have twice : ∀ a b : Tuner, setTuner x a (setTuner x b u) = setTuner x a u := fun a b => by cases x <;> rfl
  unfold takeReading
  rw [tuner_setTuner]
  refine (congrArg Prod.fst (if_neg full)).trans ?_
  dsimp only
  rw [average, hm, twice]

/-- A word for a moved offset, from a tuner that is settled (R84, R85). -/
theorem sendWord_trim {t : Tuner} (h : u.settling x = .none) : sendWord x .trim (setTuner x t u) =
    setSettling x .trim (setWord x (t.frequency.map fun (f : Nat) =>
      { band := (if f ≤ 3399 then .low else if f ≤ 8999 then .mid else .high : Band)
        n := (f : Int) + 778 + t.fine + t.afc }) (setTuner x { t with settle := 8 } u)) := by
  have kept : ∀ w : State, w.settling x = u.settling x → settlingNotice x .trim w = setSettling x .trim w := fun w hw =>
    if_neg (by rw [hw, h]; decide)
  cases x <;> exact kept _ rfl

end

/-- The header of a tuner's stream: what the tuner and its cue record do with it, the fields of the stream before it ended. -/
theorem exec_tunerHeader {x : TunerId} {s v : State} {p : Parity} {grade : Fin 16} {afc : Byte} (ha : s.asleep = false)
    (hv : receiveHeader x (decide (s.sto.options.presenceThreshold ≤ grade.val)) afc.toInt
      (setField (streamOf x) (openedField { parity := p, grade := grade.val, afc := afc.toInt }) s) = v)
    (hm : v.monChoice ≠ .stream (streamOf x)) (hr : v.recChoice ≠ .stream (streamOf x)) :
    Machine.exec (.fieldHeader (streamOf x) p grade afc) s = .next (v.fieldsEnded (streamOf x)) := by
  rw [exec_fieldHeader ha, ← outboundFields_uncarried (h := { parity := p, grade := grade.val, afc := afc.toInt })
    (real := true) hm hr, ← hv]
  cases x <;> rfl

/-- Settles O42. -/
theorem headersWorkThePresenceAndTheAfc : Obligations.HeadersWorkThePresenceAndTheAfc := by
  intro x p grade afc s i t o opened ha hm hr hown
  have stream : i = streamOf x := by cases x <;> rfl
  refine ⟨fun hs hq => ?_, fun hs hc hage => ?_⟩
  · intro lowered
    have row (v : State) (hv : v = if t.settle ≤ 1 then
        setSettling x .none (setTuner x { t with settle := t.settle - 1 }
          (setField (streamOf x) (openedField { parity := p, grade := grade.val, afc := afc.toInt }) s))
        else setTuner x { t with settle := t.settle - 1 }
          (setField (streamOf x) (openedField { parity := p, grade := grade.val, afc := afc.toInt }) s))
        (h1 : v.monChoice ≠ .stream (streamOf x)) (h2 : v.recChoice ≠ .stream (streamOf x)) :
        Machine.exec (.fieldHeader i p grade afc) s = .next (v.fieldsEnded i) := by
      rw [stream]
      refine exec_tunerHeader ha ((receiveHeader_settling ?_ ?_ ?_ _ _).trans ?_) h1 h2
      · cases x <;> exact hown
      · cases x <;> exact hs
      · cases x <;> exact hq
      · rw [hv]
        cases x <;> rfl
    refine ⟨fun h2 => ?_, fun h1 => ?_⟩
    · refine (row _ (if_neg (by omega)).symm ?_ ?_).trans ?_
      · cases x <;> exact hm
      · cases x <;> exact hr
      · cases x <;> rfl
    · refine (row _ (if_pos h1).symm ?_ ?_).trans ?_
      · cases x <;> exact hm
      · cases x <;> exact hr
      · cases x <;> rfl
  · intro strong weak judged heard gives
    generalize hbase : setField (streamOf x) (openedField { parity := p, grade := grade.val, afc := afc.toInt }) s = base
    have received : Tuner.received (base.tuner x) := by rw [← hbase]; cases x <;> exact hown
    have tuner : base.tuner x = t := by rw [← hbase]; cases x <;> rfl
    have options : base.sto.options = o := by rw [← hbase]; cases x <;> rfl
    have record : base.cueRecord x = s.cueRecord x := by rw [← hbase]; cases x <;> rfl
    have settled : base.settling x = .none := by rw [← hbase, ← hs]; cases x <;> rfl
    -- a header whose effect on the tuner is known
    have row {b : Bool} (hb : decide (s.sto.options.presenceThreshold ≤ grade.val) = b) {v : State}
        (hv : (unmarkedHeader x b afc.toInt base).1 = v) (hrec : v.cueRecord x = base.cueRecord x)
        (h1 : v.monChoice ≠ .stream (streamOf x)) (h2 : v.recChoice ≠ .stream (streamOf x)) :
        Machine.exec (.fieldHeader i p grade afc) s = .next (heard (v.fieldsEnded i)) := by
      have received' := receiveHeader_works settled (by rw [record]; exact hc) (by rw [record]; exact hage)
        ((tunerHeader_unmarked received b afc.toInt).trans hv) hrec
      rw [stream]
      refine (exec_tunerHeader ha ((congrArg₂ (fun c w => receiveHeader x c afc.toInt w) hb hbase).trans received') ?_ ?_).trans ?_
      · cases x <;> exact h1
      · cases x <;> exact h2
      · rw [record]
        cases x <;> rfl
    refine ⟨fun hw => ?_, fun hst => ?_⟩
    · have weakField : decide (s.sto.options.presenceThreshold ≤ grade.val) = false := by simpa [o] using hw
      have judged_eq : judged = { t with strongRun := 0, weakRun := weak, present := t.present && decide (weak < 25) } :=
        if_neg (by simpa [o] using hw)
      have effect := unmarkedHeader_weak (x := x) (u := base) afc.toInt
      rw [tuner, options, presence_weak] at effect
      refine (row weakField effect ?_ ?_ ?_).trans ?_
      · cases x <;> rfl
      · rw [← hbase]; cases x <;> exact hm
      · rw [← hbase]; cases x <;> exact hr
      · rw [judged_eq, ← hbase]
        cases x <;> rfl
    · have strongField : decide (s.sto.options.presenceThreshold ≤ grade.val) = true := by simpa [o] using hst
      have judged_eq : judged = t.presence o.presenceRun true := (if_pos hst).trans (presence_strong t o.presenceRun).symm
      have reads := unmarkedHeader_strong received afc.toInt
      rw [tuner, options, ← judged_eq] at reads
      have history : judged.afcHistory = t.afcHistory ∧ judged.afc = t.afc ∧ judged.owner = t.owner := by
        rw [judged_eq, presence_strong]
        exact ⟨rfl, rfl, rfl⟩
      obtain ⟨hhist, hafc, howner⟩ := history
      -- the tuner's record put away, with the choices of MON and REC as they were
      have quiet (r : Tuner) (ho : r.owner = t.owner) : (setTuner x r base).cueRecord x = base.cueRecord x ∧
          (setTuner x r base).monChoice ≠ .stream (streamOf x) ∧ (setTuner x r base).recChoice ≠ .stream (streamOf x) := by
        refine ⟨by cases x <;> rfl, ?_, ?_⟩
        · rw [← hbase]; cases x <;> exact hm
        · have same : (setTuner x r base).recChoice = s.recChoice := by
            rw [← hbase]
            cases x with
            | a => simp only [State.recChoice, State.recordSource, setTuner, setField, streamOf, State.setTun, State.setLpt, ho]; rfl
            | b => rfl
          rw [same, ← stream]
          exact hr
      have puts (r : Tuner) (ho : r.owner = t.owner) (hv : (unmarkedHeader x true afc.toInt base).1 = setTuner x r base) :
          gives (setTuner x r opened) := by
        obtain ⟨q1, q2, q3⟩ := quiet r ho
        refine (row strongField hv q1 q2 q3).trans ?_
        rw [← hbase]
        cases x <;> rfl
      refine ⟨fun hlen => ?_, fun hlen => ?_⟩
      · refine puts _ howner (by rw [reads, takeReading_kept (by rw [hhist]; exact hlen), hhist])
      · intro avg moves
        have evaluated {moved : Int × Bool} (hmv : afcEvaluate t.afc avg = moved) :=
          takeReading_eighth (x := x) (u := base) (t := judged) (afc := afc.toInt) (by rw [hhist]; exact hlen)
            (moved := moved) (by rw [hhist, hafc]; exact hmv)
        have stays {limit : Bool} (hmv : afcEvaluate t.afc avg = (t.afc, limit)) :
            gives (setTuner x { judged with afcHistory := [], afcLimit := limit } opened) := by
          refine puts _ howner ?_
          rw [reads, evaluated hmv]
          dsimp only
          rw [if_pos hafc.symm, ← hafc]
        have sends {offset : Int} (hne : offset ≠ t.afc) (hmv : afcEvaluate t.afc avg = (offset, false)) :
            gives (moves offset) := by
          have word := evaluated hmv
          dsimp only at word
          rw [if_neg (by rw [hafc]; exact hne), sendWord_trim settled] at word
          obtain ⟨q1, q2, q3⟩ := quiet { judged with afcHistory := [], afc := offset, afcLimit := false, settle := 8 } howner
          have judgedTuning : judged.frequency = t.frequency ∧ judged.fine = t.fine := by
            rw [judged_eq, presence_strong]
            exact ⟨rfl, rfl⟩
          obtain ⟨hfreq, hfine⟩ := judgedTuning
          refine (row strongField ((congrArg Prod.fst reads).trans word) ?_ ?_ ?_).trans ?_
          · rw [← q1]; cases x <;> rfl
          · cases x <;> exact q2
          · cases x <;> exact q3
          · simp only [moves]
            rw [hfreq, hfine, ← hbase]
            cases x <;> rfl
        refine ⟨fun h1 h2 => stays ?_, fun h1 h2 => sends ?_ ?_, fun h1 h2 => stays ?_, fun h1 h2 => sends ?_ ?_,
          fun h1 h2 => stays ?_⟩
        · rw [afcEvaluate, if_neg (by omega), if_neg (by omega)]
        · omega
        · rw [afcEvaluate, if_pos h1, if_pos h2]
        · rw [afcEvaluate, if_pos h1, if_neg (by omega)]
        · omega
        · rw [afcEvaluate, if_neg (by omega), if_pos h1, if_pos h2]
        · rw [afcEvaluate, if_neg (by omega), if_pos h1, if_neg (by omega)]

end Sys2Proof.Proofs.Headers
end

section
/-! PROOFS. The channel search on tuner B: VIEW takes and gives back its tuner, and every header counts in its phase (R103 to R108). -/

namespace Sys2Proof.Proofs.Searching
open Sys2Proof.Machine
open Sys2Proof.Proofs.Headers
open Sys2Proof.Proofs.Views

/-! ### VIEW and the search's tuner -/

/-- The view takes tuner B from the running search (R93, R103). -/
theorem takeView_b_suspends {m f : Nat} {fine : Int} {ch : Channel} {u : State} (hc : u.channel m = some ch)
    (ha : ch.tuning = .air f fine) (hv : u.tun.view = none) (hr : u.tun.search.state = .running) :
    takeView m .tunerB u = (({ u with tun := { u.tun with search :=
      { u.tun.search with state := .suspended, count := 0, network := none } } } : State).tuned .b .view (some m) f fine
        (u.lineOf ch)).viewing (some (m, .tunerB)) := by
  have suspended : suspendSearch u = { u with tun := { u.tun with search :=
      { u.tun.search with state := .suspended, count := 0, network := none } } } := if_pos hr
  simp only [takeView, hv, suspended]
  rw [tuneChannel_air (by exact hc) ha]
  rfl

/-- A view that leaves tuner B gives it back to the suspended search (R90, R103). -/
theorem releaseView_b_resumes {m : Nat} {u : State} (hv : u.tun.view = some (m, .tunerB))
    (hr : u.tun.search.state = .suspended) : releaseView u = (({ u with tun := { u.tun with search :=
      { u.tun.search with state := .running, count := 0, network := none } } } : State).tuned .b .search none
        u.tun.search.frequency 0 u.sto.options.defaultCueLine).viewing none := by
  have released : releaseB u = searchTakesB u := if_pos hr
  simp only [releaseView, hv, releaseSource, released, searchTakesB, searchTune, tune_eq]
  rfl

/-! ### A header at the running search -/

section
variable {u : State} {strong : Bool} {afc : Int}

/-- The search runs on tuner B. -/
abbrev Searches (u : State) : Prop := u.tun.tunerB.owner = .search ∧ u.tun.search.state = .running

theorem tunerHeader_searching (h : Searches u) : tunerHeader .b false strong afc u = searchHeader strong afc u := by
  obtain ⟨howner, hrun⟩ := h
  have tuner : (u.tuner .b).owner = .search := howner
  simp [tunerHeader, tunHeader, tuner, hrun]

/-- What a header brings to the search, once it is counted. -/
def reacted (strong : Bool) (afc : Int) (u : State) : State :=
  searchReacts u.tun.tunerB.present (unmarkedHeader .b strong afc (countHeader u)).2
    (unmarkedHeader .b strong afc (countHeader u)).1

theorem searchHeader_counting (h : u.tun.search.count + 1 < phaseLimit u.tun.search.phase) :
    searchHeader strong afc u = reacted strong afc u := by
  have below : (countHeader u).searchLimitDue u.tun.search.phase = false :=
    decide_eq_false (by rintro ⟨-, -, h'⟩; exact absurd h' (Nat.not_le.2 h))
  simp only [searchHeader, below, Bool.false_and, Bool.false_eq_true, if_false]
  rfl

/-- In STEP and CONFIRM the header's effect comes first; the limit is met only where it ended nothing (R104, R105). -/
theorem searchHeader_early (h : u.tun.search.phase = .step ∨ u.tun.search.phase = .confirm) : searchHeader strong afc u =
    if ((countHeader u).searchLimitDue u.tun.search.phase && sameStretch (countHeader u) (reacted strong afc u)) = true
    then searchLimit (reacted strong afc u) else reacted strong afc u := by
  have oneOrder : decide (u.tun.search.phase = .trim ∨ u.tun.search.phase = .name) = false := by
    rcases h with h | h <;> rw [h] <;> rfl
  simp only [searchHeader, oneOrder, Bool.and_false, Bool.false_and, Bool.false_eq_true, if_false]
  rfl

/-- Without a reading, a header works the presence detector alone. -/
theorem unmarkedHeader_noReading (h : Searches u) (hs : strong = false ∨ u.tun.search.phase ≠ .trim) :
    unmarkedHeader .b strong afc u = (setTuner .b (u.tun.tunerB.presence u.sto.options.presenceRun strong) u, none) := by
  have off : (u.afcRuns .b && strong) = false := by
    obtain hs | hs := hs
    · rw [hs, Bool.and_false]
    · have owner : (u.tuner .b).owner = .search := h.1
      simp only [State.afcRuns, owner, hs, decide_false, Bool.false_and]
  simp only [unmarkedHeader, off, Bool.false_eq_true, if_false]
  rfl

/-- In TRIM a strong header takes its reading (R86, R106). -/
theorem unmarkedHeader_reading (h : Searches u) (hp : u.tun.search.phase = .trim) : unmarkedHeader .b true afc u =
    takeReading .b afc (setTuner .b (u.tun.tunerB.presence u.sto.options.presenceRun true) u) := by
  have owner : (u.tuner .b).owner = .search := h.1
  simp only [unmarkedHeader, State.afcRuns, owner, hp, decide_true, Bool.and_self, if_true]
  rfl

theorem takeReading_average {t : Tuner} (h : t.afcHistory.length = 7) : (takeReading .b afc (setTuner .b t u)).2 =
    some ((t.afcHistory.sum + afc).tdiv 8) := by
  have full : ¬ (t.afcHistory ++ [afc]).length < 8 := by simp [h]
  unfold takeReading
  rw [tuner_setTuner]
  refine (congrArg Prod.snd (if_neg full)).trans ?_
  simp [afcAverage]

end

/-- Tuner B and the search as a header leaves them, the cue record older. -/
def worked (b : Tuner) (r : Search) (u : State) : State := { u with tun := { u.tun with tunerB := b, search := r } }

/-- The search tuned 5 further up. -/
def passed (u : State) : State :=
  ({ u with tun := { u.tun with search :=
      { u.tun.search with frequency := u.tun.search.frequency + 5, phase := .step, count := 0, network := none } } } : State).tuned
    .b .search none (u.tun.search.frequency + 5) 0 u.sto.options.defaultCueLine

/-- One more header in the phase. -/
def counted (r : Search) : Search := { r with count := r.count + 1 }

theorem passOver_worked {u : State} (t : Tuner) (h : u.tun.search.frequency ≤ 17195) :
    passOver (worked t (counted u.tun.search) u) = passed u :=
  raiseFrequency_low 5 (worked t (counted u.tun.search) u) (Nat.add_le_add_right h 5)

section
variable {u : State} {strong : Bool} {afc : Int}

/-! ### STEP and CONFIRM -/

/-- A header of STEP or CONFIRM at the detector. -/
theorem reacted_early (h : Searches u) (hp : u.tun.search.phase = .step ∨ u.tun.search.phase = .confirm) {t : Tuner}
    (ht : u.tun.tunerB.presence u.sto.options.presenceRun strong = t) : reacted strong afc u =
      if t.present then (if u.tun.search.phase = .step
        then worked { t with present := false, strongRun := 0, weakRun := 0 }
          { counted u.tun.search with phase := .confirm, count := 0 } u
        else worked t { counted u.tun.search with phase := .trim, count := 0 } u)
      else worked t (counted u.tun.search) u := by
  have untrimmed : u.tun.search.phase ≠ .trim := by rcases hp with hp | hp <;> simp [hp]
  have header := unmarkedHeader_noReading (u := countHeader u) (strong := strong) (afc := afc) h (.inr untrimmed)
  have detector : (countHeader u).tun.tunerB.presence (countHeader u).sto.options.presenceRun strong = t := ht
  rw [reacted, header, detector]
  have phase : (setTuner .b t (countHeader u)).tun.search.phase = u.tun.search.phase := rfl
  have present : (setTuner .b t (countHeader u)).tun.tunerB.present = t.present := rfl
  simp only [searchReacts, phase, present]
  obtain hp | hp := hp <;> simp only [hp] <;> cases t.present <;> rfl

/-- A carrier found ends the phase (R104, R105). -/
theorem tunerHeader_found (h : Searches u) (hp : u.tun.search.phase = .step ∨ u.tun.search.phase = .confirm) {t : Tuner}
    (ht : u.tun.tunerB.presence u.sto.options.presenceRun strong = t) (hf : t.present = true) :
    tunerHeader .b false strong afc u = if u.tun.search.phase = .step
        then worked { t with present := false, strongRun := 0, weakRun := 0 }
          { counted u.tun.search with phase := .confirm, count := 0 } u
        else worked t { counted u.tun.search with phase := .trim, count := 0 } u := by
  have effect := (reacted_early (afc := afc) h hp ht).trans (if_pos hf)
  have ended : sameStretch (countHeader u) (reacted strong afc u) = false := by
    refine decide_eq_false ?_
    rintro ⟨-, hphase, -⟩
    rw [effect] at hphase
    obtain hp | hp := hp <;> simp [hp, worked, countHeader, modSearch, State.setTun] at hphase
  rw [tunerHeader_searching h, searchHeader_early hp, ended, Bool.and_false, if_neg Bool.false_ne_true, effect]

/-- A header without a carrier counts, and at the limit the search goes on (R104, R105). -/
theorem tunerHeader_unfound (h : Searches u) (hp : u.tun.search.phase = .step ∨ u.tun.search.phase = .confirm) {t : Tuner}
    (ht : u.tun.tunerB.presence u.sto.options.presenceRun strong = t) (hf : t.present = false) :
    tunerHeader .b false strong afc u = if u.tun.search.count + 1 < phaseLimit u.tun.search.phase
        then worked t (counted u.tun.search) u else passOver (worked t (counted u.tun.search) u) := by
  have effect := (reacted_early (afc := afc) h hp ht).trans (if_neg (by simp [hf]))
  rw [tunerHeader_searching h]
  split
  · next below => rw [searchHeader_counting below, effect]
  · next reached =>
    have due : ((countHeader u).searchLimitDue u.tun.search.phase) = true :=
      decide_eq_true ⟨h.2, rfl, Nat.not_lt.1 reached⟩
    have same : sameStretch (countHeader u) (worked t (counted u.tun.search) u) = true := decide_eq_true ⟨rfl, rfl, rfl⟩
    rw [searchHeader_early hp, effect, due, same]
    refine (if_pos rfl).trans ?_
    have phase : (worked t (counted u.tun.search) u).tun.search.phase = u.tun.search.phase := rfl
    simp only [searchLimit, phase]
    obtain hp | hp := hp <;> simp only [hp]

/-! ### TRIM and NAME -/

/-- A weak header below the limit: the carrier is held, or lost and passed over (R106, R107). -/
theorem tunerHeader_weakening (h : Searches u) (hp : u.tun.search.phase = .trim ∨ u.tun.search.phase = .name)
    (hcount : u.tun.search.count + 1 < phaseLimit u.tun.search.phase) (hpres : u.tun.tunerB.present = true) {t : Tuner}
    (ht : u.tun.tunerB.presence u.sto.options.presenceRun false = t) : tunerHeader .b false false afc u =
      if t.present then worked t (counted u.tun.search) u else passOver (worked t (counted u.tun.search) u) := by
  have header := unmarkedHeader_noReading (u := countHeader u) (strong := false) (afc := afc) h (.inl rfl)
  have detector : (countHeader u).tun.tunerB.presence (countHeader u).sto.options.presenceRun false = t := ht
  rw [tunerHeader_searching h, searchHeader_counting hcount, reacted, header, detector, hpres]
  have phase : (setTuner .b t (countHeader u)).tun.search.phase = u.tun.search.phase := rfl
  have present : (setTuner .b t (countHeader u)).tun.tunerB.present = t.present := rfl
  simp only [searchReacts, phase, present]
  obtain hp | hp := hp <;> simp only [hp] <;> cases t.present <;> rfl

/-- A strong header of NAME only counts. -/
theorem tunerHeader_naming (h : Searches u) (hp : u.tun.search.phase = .name) (hcount : u.tun.search.count + 1 < 100)
    {t : Tuner} (ht : u.tun.tunerB.presence u.sto.options.presenceRun true = t) (hpres : t.present = true) :
    tunerHeader .b false true afc u = worked t (counted u.tun.search) u := by
  have header := unmarkedHeader_noReading (u := countHeader u) (strong := true) (afc := afc) h
    (.inr (by simp [countHeader, modSearch, State.setTun, hp]))
  have detector : (countHeader u).tun.tunerB.presence (countHeader u).sto.options.presenceRun true = t := ht
  rw [tunerHeader_searching h, searchHeader_counting (by rw [hp]; exact hcount), reacted, header, detector]
  have phase : (setTuner .b t (countHeader u)).tun.search.phase = .name := hp
  have present : (setTuner .b t (countHeader u)).tun.tunerB.present = true := hpres
  simp only [searchReacts, phase, present, Bool.not_true, Bool.and_false, Bool.false_eq_true, if_false]
  rfl

/-- A strong header of TRIM brings its reading to the loop, and an average within 16 ends TRIM (R106). -/
theorem tunerHeader_trimming (h : Searches u) (hp : u.tun.search.phase = .trim) (hcount : u.tun.search.count + 1 < 40)
    {t : Tuner} (ht : u.tun.tunerB.presence u.sto.options.presenceRun true = t) {v : State} {evaluated : Option Int}
    (hr : takeReading .b afc (setTuner .b t (countHeader u)) = (v, evaluated)) (hv : v.tun.tunerB.present = true)
    (hvp : v.tun.search.phase = .trim) : tunerHeader .b false true afc u =
      if (evaluated.any fun a => decide (-16 ≤ a ∧ a ≤ 16)) = true then foldTrim v else v := by
  have header := unmarkedHeader_reading (u := countHeader u) (afc := afc) h hp
  have detector : (countHeader u).tun.tunerB.presence (countHeader u).sto.options.presenceRun true = t := ht
  rw [tunerHeader_searching h, searchHeader_counting (by rw [hp]; exact hcount), reacted, header, detector, hr]
  simp only [searchReacts, hvp, hv, Bool.not_true, Bool.and_false, Bool.false_eq_true, if_false]

/-- A band's place in R84's table. -/
def bandRank : Band → Nat
  | .low => 0 | .mid => 1 | .high => 2

theorem bandRank_bandOf (n : Nat) : bandRank (bandOf n) = if (n : Int) ≤ 3399 then 0 else if (n : Int) ≤ 8999 then 1 else 2 := by
  unfold bandOf
  split_ifs <;> simp only [bandRank] <;> omega

theorem bandOf_toNat_eq {f : Int} {n : Nat} (hf : 0 ≤ f)
    (h : (if f ≤ 3399 then 0 else if f ≤ 8999 then 1 else 2) = if (n : Int) ≤ 3399 then 0 else if (n : Int) ≤ 8999 then 1 else 2) :
    bandOf f.toNat = bandOf n := by
  have same : bandRank (bandOf f.toNat) = bandRank (bandOf n) := by
    rw [bandRank_bandOf, bandRank_bandOf, Int.toNat_of_nonneg hf, h]
  revert same
  cases bandOf f.toNat <;> cases bandOf n <;> simp [bandRank]

/-- The offset folded into a frequency of the same band, no cue being current: NAME begins (R106). -/
theorem foldTrim_sameBand {f : Int} (hf : (u.tun.search.frequency : Int) + u.tun.tunerB.afc = f) (h1 : 900 ≤ f) (h2 : f ≤ 17200)
    (hb : bandOf f.toNat = bandOf u.tun.search.frequency) (hc : u.cue.b.current = none) : foldTrim u =
      worked { u.tun.tunerB with frequency := some f.toNat, afc := 0 }
        { u.tun.search with frequency := f.toNat, phase := .name, count := 0, network := none } u := by
  unfold foldTrim
  simp only [hf]
  refine (if_pos ⟨h1, h2⟩).trans ?_
  refine (congrArg enterName (if_pos hb)).trans ?_
  unfold enterName
  have quiet : (modSearch (fun r => { r with phase := .name, count := 0, network := none })
      (modSearch (fun r => { r with frequency := f.toNat })
        (setTuner .b { u.tun.tunerB with frequency := some f.toNat, afc := 0 } u))).cue.b.current = none := hc
  simp only [quiet]
  rfl

/-! ### A header that retunes tuner B -/

/-- Cue capture hears the header before or after the tuning controller: the cue record alone tells which (R66; log 9). -/
theorem receiveHeader_retunes (hs : u.settling .b = .none) (hc : u.cue.b.tuning.isSome) (ha : u.cue.b.age < 124) {v : State}
    (hv : ∀ c, tunerHeader .b false strong afc (setCueRecord .b c u) = v) (hr : v.cue.b = CueRecord.tunedTo none) :
    ∃ c n, receiveHeader .b strong afc u = { v with cue := { v.cue with b := c }, choices := n } := by
  have unmarked : decide (u.settling .b ≠ .none) = false := by simp [hs]
  have first : tunerHeader .b false strong afc (cueHeader .b false u) = v := by
    rw [cueHeader_older (x := .b) (v := u) hc ha, hv]
  have second : tunerHeader .b false strong afc u = v := hv u.cue.b
  have older := cueHeader_older (x := .b) (v := v) (by rw [show v.cueRecord .b = v.cue.b from rfl, hr]; rfl)
    (by rw [show v.cueRecord .b = v.cue.b from rfl, hr]; decide)
  unfold receiveHeader
  simp only [unmarked, first, second, older]
  split
  · split
    · exact ⟨v.cue.b, v.choices + 1, rfl⟩
    · exact ⟨_, v.choices + 1, rfl⟩
  · exact ⟨_, v.choices, rfl⟩

/-! ### A header of the settling tuner -/

theorem receiveHeader_marked {x : TunerId} (hs : u.settling x ≠ .none) :
    receiveHeader x strong afc u = tunerHeader x true strong afc u := by
  have marked : decide (u.settling x ≠ .none) = true := by simpa using hs
  unfold receiveHeader
  simp only [marked, Bool.not_true, Bool.false_and, Bool.false_eq_true, if_false, cueHeader, Bool.or_true, if_true]

/-- A header of the search's settling tuner lowers the settle count, and counts after a trim (R85, R106). -/
theorem tunerHeader_settlingSearch (h : Searches u) (hs : 2 ≤ u.tun.tunerB.settle) : tunerHeader .b true strong afc u =
    (let lowered := setTuner .b { u.tun.tunerB with settle := u.tun.tunerB.settle - 1 } u
     if u.settling .b = .trim then settlingCount lowered else lowered) := by
  obtain ⟨howner, hrun⟩ := h
  have owner : (u.tuner .b).owner = .search := howner
  have lowers : settlingHeader .b u =
      (setTuner .b { u.tun.tunerB with settle := u.tun.tunerB.settle - 1 } u, false) := by
    unfold settlingHeader
    refine (if_neg ?_).trans rfl
    exact Nat.not_le.2 hs
  simp only [tunerHeader, tunHeader, owner, hrun, lowers]
  by_cases ht : u.settling .b = .trim <;> simp [ht]

theorem settlingCount_trim (hp : u.tun.search.phase = .trim) (hc : u.tun.search.count + 1 < 40) :
    settlingCount u = countHeader u := by
  have below : (countHeader u).searchLimitDue u.tun.search.phase = false := by
    refine decide_eq_false ?_
    rintro ⟨-, -, h'⟩
    rw [hp] at h'
    exact absurd h' (Nat.not_le.2 hc)
  simp only [settlingCount, hp, true_or, if_true]
  rw [← hp, below, if_neg Bool.false_ne_true]

end

/-! ### A cue in NAME -/

theorem holdsNetwork_of {u : State} {c n : Nat} {x : Channel} (hc : c < u.tun.channels.length) (hx : u.channel c = some x)
    (hn : x.network = some n) : u.holdsNetwork n = true := by
  refine List.any_eq_true.2 ⟨some x, ?_, by simp [hn]⟩
  have held : u.tun.channels[c]? = some (some x) := by
    rw [← hx, State.channel, List.getElem?_eq_getElem hc]
    simp [hc]
  exact List.mem_of_getElem? held

/-- A name that the table holds already ends NAME 140 further up (R107, R108). -/
theorem nameFound_known {u : State} {n : Nat} (hn : u.holdsNetwork n = true) (hf : u.tun.search.frequency ≤ 17060) :
    nameFound n u = ({ u with tun := { u.tun with search :=
      { u.tun.search with frequency := u.tun.search.frequency + 140, phase := .step, count := 0, network := none } } } : State).tuned
      .b .search none (u.tun.search.frequency + 140) 0 u.sto.options.defaultCueLine := by
  have known : ((some n).any (State.holdsNetwork (modSearch (fun r => { r with network := some n }) u))) = true := hn
  have low : (modSearch (fun r => { r with network := some n }) u).tun.search.frequency + 140 ≤ 17200 := by
    change u.tun.search.frequency + 140 ≤ 17200
    omega
  have up := raiseFrequency_low 140 (modSearch (fun r => { r with network := some n }) u) low
  exact (if_pos known).trans up

theorem cueHeard_frame (s : State) (line : BitVec 16) (bytes : List (Byte × Bool)) (cue : Cue) :
    (s.cueHeard .b line bytes cue).tun = s.tun ∧ (s.cueHeard .b line bytes cue).sto = s.sto := by
  unfold State.cueHeard
  dsimp only
  split <;> exact ⟨rfl, rfl⟩

/-! ### The detector's records -/

/-- The detector of a tuner without a carrier, short of the run of strong fields. -/
theorem presence_short (t : Tuner) (k : Nat) (strong : Bool) (h : t.present = false)
    (hk : strong = true → ¬ k ≤ min (max k t.strongRun) (t.strongRun + 1)) : t.presence k strong =
      if strong then { t with strongRun := min (max k t.strongRun) (t.strongRun + 1), weakRun := 0 }
      else { t with strongRun := 0, weakRun := min (max 25 t.weakRun) (t.weakRun + 1) } := by
  cases strong
  · simp only [presence_weak, h, Bool.false_and, Bool.false_eq_true, if_false]
  · simp only [presence_strong, h, Bool.false_or, decide_eq_false (hk rfl), if_true]

theorem presence_run (t : Tuner) (k : Nat) (hk : k ≤ min (max k t.strongRun) (t.strongRun + 1)) : t.presence k true =
    { t with strongRun := min (max k t.strongRun) (t.strongRun + 1), weakRun := 0, present := true } := by
  rw [presence_strong, decide_eq_true hk, Bool.or_true]

theorem presence_held (t : Tuner) (k : Nat) (h : t.present = true) : t.presence k true =
    { t with strongRun := min (max k t.strongRun) (t.strongRun + 1), weakRun := 0 } := by
  rw [presence_strong, h, Bool.true_or, ← h]

/-- Settles O43: VIEW's two rows, the header's case by phase, and the cue that ends NAME. -/
theorem theSearchWorksTunerB : Obligations.TheSearchWorksTunerB := by
  refine ⟨fun tag n ch f fine s hs hp hn hc hair ha hb hr hv => ?_, fun tag m s hs hp hv hr => ?_, ?_,
    fun line bytes cue s hcue ht hr hphase ⟨c, x, hlen, hx, hnet⟩ hf => ?_⟩
  · have target := viewTarget_air hc hair
    rw [if_neg (by simp [ha]), if_neg (by simp [hb])] at target
    exact (exec_view_channel hs hp hn hc).trans (congrArg _ (viewChannel_takes hs target (by simp [hv])
      (takeView_b_suspends (u := { s with clu := s.clu.taken tag }) hc hair hv hr)))
  · have on : s.sto.power ≠ .standby := by simp [hp]
    rw [exec_view hs, viewOp_none (s := { s with clu := s.clu.taken tag }) on rfl,
      releaseView_b_resumes (u := { s with clu := s.clu.taken tag }) hv hr]
    exact congrArg Host.Outcome.next (done_taken hs.1.1 rfl 20 _)
  · intro p grade afc s hasl hm hr howner hrun htune hage
      r t o opened heard gives passesOver one strong weakened strengthened found judged
    generalize hbase : setField .tb (openedField { parity := p, grade := grade.val, afc := afc.toInt }) s = base
    have tun : base.tun = s.tun := by rw [← hbase]; rfl
    have sto : base.sto = s.sto := by rw [← hbase]; rfl
    have cues : base.cue = s.cue := by rw [← hbase]; rfl
    have mon : base.monChoice = s.monChoice := by rw [← hbase]; rfl
    have recs : base.recChoice = s.recChoice := by rw [← hbase]; rfl
    have settling : base.settling .b = s.settling .b := by rw [← hbase]; rfl
    have searches : Searches base := by rw [Searches, tun]; exact ⟨howner, hrun⟩
    have finishes (b : Tuner) (x : Search) : (worked b x base).fieldsEnded .tb =
        { opened with tun := { s.tun with tunerB := b, search := x } } := by rw [← hbase]; rfl
    have quiet (b : Tuner) (x : Search) : (worked b x base).monChoice ≠ .stream .tb ∧
        (worked b x base).recChoice ≠ .stream .tb := by rw [← hbase]; exact ⟨hm, hr⟩
    -- a header whose effect on tuner B and the search is known
    have receives {b : Bool} (hb : decide (s.sto.options.presenceThreshold ≤ grade.val) = b) {v : State}
        (hv : receiveHeader .b b afc.toInt base = v) (h1 : v.monChoice ≠ .stream .tb) (h2 : v.recChoice ≠ .stream .tb) :
        Machine.exec (.fieldHeader .tb p grade afc) s = .next (v.fieldsEnded .tb) :=
      exec_tunerHeader (x := .b) hasl ((congrArg₂ (fun c w => receiveHeader .b c afc.toInt w) hb hbase).trans hv) h1 h2
    have older {b : Bool} (hset : s.settling .b = .none) (hb : decide (s.sto.options.presenceThreshold ≤ grade.val) = b)
        {v : State} (hv : tunerHeader .b false b afc.toInt base = v) (hrec : v.cue.b = base.cue.b)
        (h1 : v.monChoice ≠ .stream .tb) (h2 : v.recChoice ≠ .stream .tb) :
        Machine.exec (.fieldHeader .tb p grade afc) s = .next (heard (v.fieldsEnded .tb)) := by
      have got := receiveHeader_works (x := .b) (settling.trans hset) (show base.cue.b.tuning.isSome by rw [cues]; exact htune)
        (show base.cue.b.age < 124 by rw [cues]; exact hage) hv hrec
      refine (receives hb got h1 h2).trans ?_
      rw [show base.cueRecord .b = s.cue.b from congrArg (fun x => x.b) cues]
      rfl
    have gives_of {b : Bool} (hset : s.settling .b = .none) (hb : decide (s.sto.options.presenceThreshold ≤ grade.val) = b)
        {w : Tuner} {x : Search} (hv : tunerHeader .b false b afc.toInt base = worked w x base) : gives w x := by
      obtain ⟨h1, h2⟩ := quiet w x
      exact (older hset hb hv rfl h1 h2).trans (congrArg (fun v => Host.Outcome.next (heard v)) (finishes w x))
    have passes_of {b : Bool} (hset : s.settling .b = .none) (hb : decide (s.sto.options.presenceThreshold ≤ grade.val) = b)
        (hv : ∀ c, tunerHeader .b false b afc.toInt (setCueRecord .b c base) = passed (setCueRecord .b c base)) :
        passesOver := by
      obtain ⟨c, n, got⟩ := receiveHeader_retunes (v := passed base) (settling.trans hset)
        (by rw [cues]; exact htune) (by rw [cues]; exact hage) hv rfl
      refine ⟨c, n, (receives hb got ?_ ?_).trans ?_⟩
      · rw [← hbase]; exact hm
      · rw [← hbase]; exact hr
      · rw [← hbase]; rfl
    -- the two kinds of field, and what the detector makes of each
    have options : base.sto.options = o := by rw [sto]
    have tuner : base.tun.tunerB = t := by rw [tun]
    have search : base.tun.search = r := by rw [tun]
    have strongField (h : strong) : decide (s.sto.options.presenceThreshold ≤ grade.val) = true := decide_eq_true h
    have weakField (h : ¬ strong) : decide (s.sto.options.presenceThreshold ≤ grade.val) = false := decide_eq_false h
    refine ⟨fun hset hpres hphase => ?_, fun hset hpres hweak hphase hcount => ?_, fun hset h2 hphase hcount => ?_,
      fun hset h2 => ?_⟩
    · have early : base.tun.search.phase = .step ∨ base.tun.search.phase = .confirm := by rw [search]; exact hphase
      intro limit
      have limited : phaseLimit base.tun.search.phase = limit := by
        rw [search]
        simp only [limit]
        obtain h | h := hphase <;> rw [h] <;> rfl
      -- what a header without a carrier does, whatever the cue record
      have unfound (hnf : ¬ found) : ∃ b, decide (s.sto.options.presenceThreshold ≤ grade.val) = b ∧
          base.tun.tunerB.presence base.sto.options.presenceRun b = judged ∧ judged.present = false := by
        rw [tuner, options]
        by_cases hst : strong
        · refine ⟨true, strongField hst, (presence_short t o.presenceRun true hpres fun _ hk => hnf ⟨hst, hk⟩).trans ?_, ?_⟩
          · exact (if_pos rfl).trans (if_pos hst).symm
          · rw [show judged = strengthened from if_pos hst]; exact hpres
        · refine ⟨false, weakField hst, (presence_short t o.presenceRun false hpres (by simp)).trans ?_, ?_⟩
          · exact (if_neg Bool.false_ne_true).trans (if_neg hst).symm
          · rw [show judged = weakened from if_neg hst]; exact hpres
      have detected (hf : found) : base.tun.tunerB.presence base.sto.options.presenceRun true =
          { strengthened with present := true } := by
        rw [tuner, options]
        exact presence_run t o.presenceRun hf.2
      refine ⟨fun hnf hlim => ?_, fun hnf hlim hfreq => ?_, fun hf hst => ?_, fun hf hcf => ?_⟩
      · obtain ⟨b, hb, hj, hjp⟩ := unfound hnf
        refine gives_of hset hb ((tunerHeader_unfound searches early hj hjp).trans ((if_pos ?_).trans ?_))
        · rw [limited, search]; exact hlim
        · rw [search]; rfl
      · obtain ⟨b, hb, hj, hjp⟩ := unfound hnf
        refine passes_of hset hb fun c => (tunerHeader_unfound (u := setCueRecord .b c base) searches early hj hjp).trans
          ((if_neg ?_).trans (passOver_worked judged ?_))
        · show ¬ base.tun.search.count + 1 < phaseLimit base.tun.search.phase
          rw [limited, search]; exact Nat.not_lt.2 hlim
        · show base.tun.search.frequency ≤ 17195
          rw [search]; exact hfreq
      · refine gives_of hset (strongField hf.1) ((tunerHeader_found searches early (detected hf) rfl).trans ((if_pos ?_).trans ?_))
        · rw [search]; exact hst
        · rw [search]; rfl
      · refine gives_of hset (strongField hf.1) ((tunerHeader_found searches early (detected hf) rfl).trans ((if_neg ?_).trans ?_))
        · rw [search, hcf]; decide
        · rw [search]; rfl
    · have late : base.tun.search.phase = .trim ∨ base.tun.search.phase = .name := by rw [search]; exact hphase
      have below : base.tun.search.count + 1 < phaseLimit base.tun.search.phase := by
        rw [search]
        obtain h | h := hphase <;> rw [h] at hcount ⊢ <;> exact hcount
      have present : base.tun.tunerB.present = true := by rw [tuner]; exact hpres
      have weakens : base.tun.tunerB.presence base.sto.options.presenceRun false =
          { weakened with present := decide (min (max 25 t.weakRun) (t.weakRun + 1) < 25) } := by
        rw [tuner, options, presence_weak, hpres]; rfl
      have strengthens : base.tun.tunerB.presence base.sto.options.presenceRun true = strengthened := by
        rw [tuner, options]; exact presence_held t o.presenceRun hpres
      refine ⟨fun hw hrun' => ?_, fun hw hrun' hfreq => ?_, fun hst hname => ?_, fun hst htrim hlen => ?_,
        fun hst htrim hlen => ?_⟩
      · have held : decide (min (max 25 t.weakRun) (t.weakRun + 1) < 25) = true := decide_eq_true (by omega)
        refine gives_of hset (weakField hw) ((tunerHeader_weakening searches late below present weakens).trans ((if_pos held).trans ?_))
        rw [held, search, ← hpres]
        rfl
      · have lost : decide (min (max 25 t.weakRun) (t.weakRun + 1) < 25) = false := decide_eq_false (by omega)
        refine passes_of hset (weakField hw) fun c =>
          (tunerHeader_weakening (u := setCueRecord .b c base) searches late below present weakens).trans
            ((if_neg ?_).trans (passOver_worked _ ?_))
        · rw [lost]; exact Bool.false_ne_true
        · show base.tun.search.frequency ≤ 17195
          rw [search]; exact hfreq
      · refine gives_of hset (strongField hst) ((tunerHeader_naming searches (by rw [search]; exact hname) ?_ strengthens hpres).trans ?_)
        · rw [search]; rw [hname] at hcount; exact hcount
        · rw [search]; rfl
      all_goals
        have trims : base.tun.search.phase = .trim := by rw [search]; exact htrim
        have few : base.tun.search.count + 1 < 40 := by rw [search]; rw [htrim] at hcount; exact hcount
      · have reads := takeReading_kept (x := .b) (u := countHeader base) (t := strengthened) hlen afc.toInt
        refine gives_of hset (strongField hst) ((tunerHeader_trimming searches trims few strengthens reads hpres trims).trans
          ((if_neg (by simp)).trans ?_))
        rw [show countHeader base = worked base.tun.tunerB (counted base.tun.search) base from rfl, search]
        rfl
      · intro avg f band
        have average := takeReading_average (u := countHeader base) (afc := afc.toInt) (t := strengthened) hlen
        have moved {m : Int × Bool} (hm : afcEvaluate t.afc avg = m) :=
          takeReading_eighth (x := .b) (u := countHeader base) (t := strengthened) hlen afc.toInt hm
        -- what the header gives once the eighth reading is evaluated
        have trimmed {m : Int × Bool} (hm : afcEvaluate t.afc avg = m) {v : State}
            (hv : (takeReading .b afc.toInt (setTuner .b strengthened (countHeader base))).1 = v)
            (hvp : v.tun.tunerB.present = true) (hvs : v.tun.search.phase = .trim) :
            tunerHeader .b false true afc.toInt base = if -16 ≤ avg ∧ avg ≤ 16 then foldTrim v else v :=
          (tunerHeader_trimming searches trims few strengthens (Prod.ext hv average) hvp hvs).trans
            (if_congr (by simp [avg, strengthened]) rfl rfl)
        have kept {limit : Bool} (hm : afcEvaluate t.afc avg = (t.afc, limit)) := (moved hm).trans (if_pos rfl)
        refine ⟨fun h1 h2 h3 h4 hband hcur => ?_, fun h1 h2 => ?_, fun h1 h2 g hg => ?_⟩
        · have stays : afcEvaluate t.afc avg = (t.afc, false) := by
            rw [afcEvaluate, if_neg (by omega), if_neg (by omega)]
          have sameBand : bandOf f.toNat = bandOf base.tun.search.frequency :=
            bandOf_toNat_eq (by omega) (by rw [search]; exact hband)
          have folds := foldTrim_sameBand (u := setTuner .b { strengthened with afcHistory := [], afc := t.afc, afcLimit := false }
            (countHeader base)) (f := f) (by show (base.tun.search.frequency : Int) + t.afc = f; rw [search]) h3 h4
            sameBand (by show base.cue.b.current = none; rw [cues]; exact hcur)
          refine gives_of hset (strongField hst) ((trimmed stays (kept stays) hpres trims).trans ((if_pos ⟨h1, h2⟩).trans
            (folds.trans ?_)))
          rw [← search]
          rfl
        · have stays : afcEvaluate t.afc avg = (t.afc, true) := by rw [afcEvaluate, if_pos h1, if_neg (by omega)]
          refine gives_of hset (strongField hst) ((trimmed stays (kept stays) hpres trims).trans ((if_neg (by omega)).trans ?_))
          rw [show one = counted base.tun.search by rw [search]; rfl]
          rfl
        · have steps : afcEvaluate t.afc avg = (t.afc - 1, false) := by rw [afcEvaluate, if_pos h1, if_pos h2]
          have word := (moved steps).trans ((if_neg (by simp [strengthened])).trans (sendWord_trim (by
            show base.settling .b = .none
            rw [settling, hset])))
          refine (older hset (strongField hst) ((trimmed steps word hpres trims).trans (if_neg (by omega))) rfl ?_ ?_).trans ?_
          · rw [← hbase]; exact hm
          · rw [← hbase]; exact hr
          · have freq : strengthened.frequency = some g := hg
            rw [← hbase]
            simp only [freq, Option.map_some]
            rfl
    · have lowers := (receiveHeader_marked (u := base) (x := .b) (by rw [settling, hset]; decide)).trans
        (tunerHeader_settlingSearch (strong := decide (s.sto.options.presenceThreshold ≤ grade.val)) (afc := afc.toInt)
          searches (by rw [tuner]; exact h2))
      have counts := settlingCount_trim (u := setTuner .b { base.tun.tunerB with settle := base.tun.tunerB.settle - 1 } base)
        (by show base.tun.search.phase = .trim; rw [search]; exact hphase)
        (by show base.tun.search.count + 1 < 40; rw [search]; exact hcount)
      refine (receives rfl (lowers.trans ((if_pos (by rw [settling, hset])).trans counts)) ?_ ?_).trans ?_
      · rw [← hbase]; exact hm
      · rw [← hbase]; exact hr
      · rw [← hbase]; rfl
    · have lowers := (receiveHeader_marked (u := base) (x := .b) (by rw [settling, hset]; decide)).trans
        (tunerHeader_settlingSearch (strong := decide (s.sto.options.presenceThreshold ≤ grade.val)) (afc := afc.toInt)
          searches (by rw [tuner]; exact h2))
      refine (receives rfl (lowers.trans (if_neg (by rw [settling, hset]; decide))) ?_ ?_).trans ?_
      · rw [← hbase]; exact hm
      · rw [← hbase]; exact hr
      · rw [← hbase]; rfl
  · have row := exec_confirms (x := .b) hcue ht
    have naming : s.searchNaming .b = true := by simp [State.searchNaming, hr, hphase]
    obtain ⟨tun, sto⟩ := cueHeard_frame s line bytes cue
    have later : (s.cueHeard .b line bytes cue).searchNaming .b = true := by
      simp only [State.searchNaming, tun] at naming ⊢
      exact naming
    have known : (s.cueHeard .b line bytes cue).holdsNetwork cue.network = true := by
      rw [State.holdsNetwork, tun]
      exact holdsNetwork_of hlen hx hnet
    refine row.trans (congrArg Host.Outcome.next ?_)
    have absent : cueChangeNotice none cue (s.cueHeard .b line bytes cue) = s.cueHeard .b line bytes cue := rfl
    rw [absent, cueToSearch, naming, later]
    refine (if_pos rfl).trans ((nameFound_known known (by rw [tun]; exact hf)).trans ?_)
    simp only [tun, sto]

end Sys2Proof.Proofs.Searching
end

section
/-! PROOFS. The counts of the channel search at their ends (R104 to R109). -/

namespace Sys2Proof.Proofs.SearchLimits
open Sys2Proof.Machine
open Sys2Proof.Proofs.Searching

section
variable {s : State}

/-! ### The rows -/

/-- The count of a phase stands at its limit. -/
abbrev Due (s : State) (p : SearchPhase) : Prop :=
  s.tun.search.state = .running ∧ s.tun.search.phase = p ∧ phaseLimit p ≤ s.tun.search.count

theorem searchLimitDue_iff (p : SearchPhase) : s.searchLimitDue p = true ↔ Due s p := by simp [State.searchLimitDue]

/-- A limit's row, at its end or short of it. -/
theorem limit_row (ha : s.asleep = false) (p : SearchPhase) (f : State → State) :
    awake (fun t => if t.searchLimitDue p then f t else t) s = if Due s p then f s else s := by
  rw [awake_apply ha]
  exact if_congr (searchLimitDue_iff p) rfl rfl

/-! ### Raising the frequency -/

/-- The state that a raise of `n` tunes for. -/
def raisedBy (n : Nat) (u : State) : State :=
  ({ u with tun := { u.tun with search :=
      { u.tun.search with frequency := u.tun.search.frequency + n, phase := .step, count := 0, network := none } } } : State).tuned
    .b .search none (u.tun.search.frequency + n) 0 u.sto.options.defaultCueLine

/-- The state after the running search ended with a result. -/
def endedWith (result : SearchResult) (u : State) : State :=
  (({ u with tun := { u.tun with search :=
      { u.tun.search with state := .idle, result := result, count := 0, network := none } } } : State).untuned .b).withSticky
    Sticky.searchEnd.mask

theorem raiseFrequency_past {n : Nat} (hr : s.tun.search.state = .running) (h : 17200 < s.tun.search.frequency + n) :
    raiseFrequency n s = endedWith .done s :=
  (if_pos h).trans (endSearch_running .done s hr)

theorem passOver_eq (hr : s.tun.search.state = .running) :
    passOver s = if s.tun.search.frequency ≤ 17195 then raisedBy 5 s else endedWith .done s := by
  split
  · next h => exact raiseFrequency_low 5 s (by omega)
  · next h => exact raiseFrequency_past hr (by omega)

/-! ### The end of TRIM -/

/-- NAME begins, no cue being current for tuner B (R107). -/
theorem enterName_quiet (h : s.cue.b.current = none) :
    enterName s = modSearch (fun r => { r with phase := .name, count := 0, network := none }) s := by
  have quiet : (modSearch (fun r => { r with phase := .name, count := 0, network := none }) s).cue.b.current = none := h
  unfold enterName
  simp only [quiet]

/-- The offset folded into a frequency of another band, the tuner settled and no cue current: a new word is sent (R106). -/
theorem foldTrim_otherBand {f : Int} (hf : (s.tun.search.frequency : Int) + s.tun.tunerB.afc = f) (h1 : 900 ≤ f) (h2 : f ≤ 17200)
    (hb : bandOf f.toNat ≠ bandOf s.tun.search.frequency) (hs : s.settling .b = .none) (hc : s.cue.b.current = none) :
    foldTrim s = { s with
      tun := { s.tun with
        tunerB := { s.tun.tunerB with frequency := some f.toNat, afc := 0, settle := 8 }
        wordB := some (wordFor f.toNat s.tun.tunerB.fine)
        search := { s.tun.search with frequency := f.toNat, phase := .name, count := 0, network := none } }
      lpt := { s.lpt with settlingB := .trim } } := by
  unfold foldTrim
  simp only [hf]
  refine (if_pos ⟨h1, h2⟩).trans ((congrArg enterName (if_neg hb)).trans ?_)
  have sends := Headers.sendWord_trim (x := .b) (t := { s.tun.tunerB with frequency := some f.toNat, afc := 0 })
    (u := modSearch (fun r => { r with frequency := f.toNat }) s) hs
  refine (congrArg enterName sends).trans ((enterName_quiet (by exact hc)).trans ?_)
  simp only [Option.map_some, Int.add_zero]
  rfl

theorem foldTrim_outside {f : Int} (hf : (s.tun.search.frequency : Int) + s.tun.tunerB.afc = f) (h : f < 900 ∨ 17200 < f) :
    foldTrim s = passOver s := by
  unfold foldTrim
  simp only [hf]
  exact if_neg (by omega)

/-! ### The end of NAME -/

theorem known_iff (s : State) (id : Option Nat) : (id.any s.holdsNetwork) = true ↔
    ∃ n, id = some n ∧ ∃ c x, c < s.tun.channels.length ∧ s.channel c = some x ∧ x.network = some n := by
  rw [Option.any_eq_true]
  refine exists_congr fun n => and_congr Iff.rfl ⟨fun h => ?_, fun ⟨c, x, hc, hx, hn⟩ => holdsNetwork_of hc hx hn⟩
  obtain ⟨e, he, hany⟩ := List.any_eq_true.1 h
  obtain ⟨x, rfl, hn⟩ := (Option.any_eq_true _ _).1 hany
  obtain ⟨c, hc, hx⟩ := List.getElem_of_mem he
  refine ⟨c, x, hc, ?_, by simpa using hn⟩
  rw [State.channel, List.getD_eq_getElem _ _ hc, hx]

theorem searchAddition_known (h : (s.tun.search.network.any s.holdsNetwork) = true) :
    searchAddition s = raiseFrequency 140 s := if_pos h

theorem searchAddition_full (h : ¬ (s.tun.search.network.any s.holdsNetwork) = true) (hf : ∀ x ∈ s.tun.channels, x ≠ none) :
    searchAddition s = endSearch .full s := by
  have full : s.tun.channels.findIdx? Option.isNone = none := by
    refine List.findIdx?_eq_none_iff.2 fun x hx => ?_
    simpa [Option.isNone_eq_false_iff, Option.isSome_iff_ne_none] using hf x hx
  refine (if_neg h).trans ?_
  simp only [full]

/-- The first EMPTY entry takes the channel found (R108). -/
theorem searchAddition_adds {k : Nat} (h : ¬ (s.tun.search.network.any s.holdsNetwork) = true)
    (hk : s.tun.channels[k]? = some none) (hb : ∀ j, j < k → s.tun.channels[j]? ≠ some none) : searchAddition s =
      raiseFrequency 140 (modSearch (fun r => { r with added := r.added + 1 }) (markRecord (.channel k) (setChannel k
        (some { tuning := .air s.tun.search.frequency 0, network := s.tun.search.network, cueLine := none, skip := false }) s))) := by
  have first : s.tun.channels.findIdx? Option.isNone = some k := by
    refine List.findIdx?_eq_some_iff_getElem.2 ?_
    obtain ⟨hlen, hget⟩ := List.getElem?_eq_some_iff.1 hk
    refine ⟨hlen, by rw [hget]; rfl, fun j hj => ?_⟩
    have other := hb j hj
    rw [List.getElem?_eq_getElem (by omega)] at other
    simpa [Option.isNone_iff_eq_none] using other
  refine (if_neg h).trans ?_
  simp only [first]

end

/-- Settles O59. -/
theorem theSearchMeetsItsLimits : Obligations.TheSearchMeetsItsLimits := by
  intro s ha r withSearch raised ended due
  have row (p : SearchPhase) (f : State → State) := limit_row ha p f
  refine ⟨fun h => ?_, fun h => ?_, fun h => ?_, fun h => ?_, fun h => ?_, fun h => ?_, fun h => ?_, fun h => ?_⟩
  · exact congrArg Host.Outcome.next ((row .step passOver).trans (if_neg h))
  · exact congrArg Host.Outcome.next ((row .confirm passOver).trans (if_neg h))
  · exact congrArg Host.Outcome.next ((row .trim foldTrim).trans (if_neg h))
  · exact congrArg Host.Outcome.next ((row .name searchAddition).trans (if_neg h))
  · exact congrArg Host.Outcome.next ((row .step passOver).trans ((if_pos h).trans (passOver_eq h.1)))
  · exact congrArg Host.Outcome.next ((row .confirm passOver).trans ((if_pos h).trans (passOver_eq h.1)))
  · intro f band folded
    have ends : Machine.exec .trimLimit s = .next (foldTrim s) :=
      congrArg Host.Outcome.next ((row .trim foldTrim).trans (if_pos h))
    refine ⟨fun h1 h2 hc => ⟨fun hb => ?_, fun hb hs => ?_⟩, fun hf hlow => ?_⟩
    · exact ends.trans (congrArg _ (foldTrim_sameBand (u := s) rfl h1 h2 (bandOf_toNat_eq (by omega) hb) hc))
    · refine ends.trans (congrArg _ (foldTrim_otherBand rfl h1 h2 (fun hb' => hb ?_) hs hc))
      have same := congrArg bandRank hb'
      rw [bandRank_bandOf, bandRank_bandOf, Int.toNat_of_nonneg (by omega)] at same
      exact same
    · exact ends.trans (congrArg _ ((foldTrim_outside rfl hf).trans ((passOver_eq h.1).trans (if_pos hlow))))
  · intro known
    have ends : Machine.exec .nameLimit s = .next (searchAddition s) :=
      congrArg Host.Outcome.next ((row .name searchAddition).trans (if_pos h))
    have knows : (s.tun.search.network.any s.holdsNetwork) = true ↔ known := known_iff s _
    refine ⟨fun hk hlow => ?_, fun hk hhigh => ?_, fun hk hf => ?_, fun k hk hnone hbefore hlow => ?_⟩
    · exact ends.trans (congrArg _ ((searchAddition_known (knows.2 hk)).trans (raiseFrequency_low 140 s (by simpa [r] using Nat.add_le_add_right hlow 140))))
    · exact ends.trans (congrArg _ ((searchAddition_known (knows.2 hk)).trans (raiseFrequency_past h.1 (by
        have : 17060 < s.tun.search.frequency := hhigh
        omega))))
    · exact ends.trans (congrArg _ ((searchAddition_full (mt knows.1 hk) hf).trans (endSearch_running .full s h.1)))
    · intro entry added
      obtain ⟨tun, options⟩ := markRecord_tun (.channel k) (setChannel k (some entry) s)
      refine ends.trans (congrArg _ ((searchAddition_adds (mt knows.1 hk) hnone hbefore).trans ?_))
      refine (raiseFrequency_low 140 _ ?_).trans ?_
      · change (markRecord (.channel k) (setChannel k (some entry) s)).tun.search.frequency + 140 ≤ 17200
        rw [tun]
        exact Nat.add_le_add_right hlow 140
      · have search : added.tun.search = r := by rw [show added.tun = _ from tun]; rfl
        have more : modSearch (fun x => { x with added := x.added + 1 }) added =
            withSearch { r with added := r.added + 1 } added := by
          rw [← search]; rfl
        refine (congrArg (raisedBy 140) more).trans ?_
        exact congrArg (fun o : Options => State.tuned _ .b .search none _ 0 o.defaultCueLine) options

end Sys2Proof.Proofs.SearchLimits
end

section
/-! PROOFS. The cue ages, the settle counts, the keys, the session's waits and the loss timer at their ends (R85, R98, R116, R149, R169). -/

namespace Sys2Proof.Proofs.RunOuts
open Sys2Proof.Machine
open Sys2Proof.Proofs.TimerOrders

section
variable {s : State} {x : TunerId}

/-! ### The age of a cue -/

theorem expired_iff (r : CueRecord) : r.expired = true ↔ 125 ≤ r.age ∧ (r.lastCue ≠ none ∨ r.current ≠ none) := by
  simp [CueRecord.expired, Option.isSome_iff_ne_none]

theorem ageExpires_noSession (h : s.sch.session = none) : ageExpires x s =
    setCueRecord x { s.cueRecord x with lastCue := none, current := none } s := by
  unfold ageExpires
  have free : (setCueRecord x { s.cueRecord x with lastCue := none } s).sch.session = none := by cases x <;> exact h
  rw [cueLost_noSession free]
  cases x <;> rfl

/-! ### The settle count -/

theorem settleRunsOut_waits (h : s.settling x = .none ∨ (s.tuner x).settle ≠ 0) : settleRunsOut x s = s :=
  if_neg fun ⟨h1, h2⟩ => h.elim h1 fun h => h h2

theorem settleRunsOut_ends (h1 : s.settling x ≠ .none) (h2 : (s.tuner x).settle = 0) : settleRunsOut x s =
    if s.settling x = .tune ∧ (s.tuner x).owner = .record then sourceReady (setSettling x .none s)
    else setSettling x .none s := by
  unfold settleRunsOut settleExpires
  refine (if_pos ⟨h1, h2⟩).trans (if_congr ?_ rfl rfl)
  simp

/-! ### The keys of the external box (R98) -/

/-- The box's lists after a key ended. -/
def sending (l : Option IrList) (w : Option (Byte × List Byte × Owner)) (s : State) : State :=
  { s with tun := { s.tun with ext := { s.tun.ext with sending := l, waiting := w } } }

theorem irKeyComplete_idle (h : s.tun.ext.sending = none) : irKeyComplete s = s := by
  simp only [irKeyComplete, State.irDoneDue, keyEnds, h, Option.any_none, Bool.false_eq_true, if_false]

theorem irKeyComplete_next {l : IrList} {key : Byte} {rest : List Byte} (h : s.tun.ext.sending = some l) (hc : l.cut = false)
    (hr : l.rest = key :: rest) : irKeyComplete s =
      sending (some { l with key := key, rest := rest, profile := s.tun.irProfile }) s.tun.ext.waiting s := by
  simp only [irKeyComplete, State.irDoneDue, keyEnds, h, hc, hr, Option.any_some, List.isEmpty_cons, Bool.and_false,
    Bool.false_and, Bool.false_eq_true, if_false]
  rfl

/-- The list is at its end, cut or sent whole: the waiting list follows, or nothing. -/
theorem keyEnds_last {l : IrList} (h : s.tun.ext.sending = some l) (hl : l.cut = true ∨ l.rest = []) : keyEnds s =
    sending (s.tun.ext.waiting.map fun w =>
      { key := w.1, profile := s.tun.irProfile, rest := w.2.1, sentFor := w.2.2, cut := false }) none s := by
  rcases hw : s.tun.ext.waiting with _ | ⟨k, ks, owner⟩ <;> simp only [keyEnds, h, hw] <;> rcases hl with hl | hl <;>
    simp only [hl]
  · rfl
  · cases l.cut <;> rfl
  · rfl
  · cases l.cut <;> rfl

theorem irKeyComplete_last {l : IrList} (h : s.tun.ext.sending = some l)
    (hl : l.cut = true ∨ (l.rest = [] ∧ l.sentFor ≠ .record)) : irKeyComplete s = keyEnds s := by
  refine if_neg ?_
  rcases hl with hc | ⟨-, ho⟩
  · simp [State.irDoneDue, h, hc]
  · simp [State.irDoneDue, h, ho]

theorem irDone_waits {y : Session} (h : s.sch.session = some y) (h1 : y.state = .starting) (h2 : y.startPhase = .source)
    (h3 : y.source = .ext) : irDone s =
      { s with sch := { s.sch with session := some { y with startPhase := .irWait, irWait := some 2000 } } } := by
  simp only [irDone, h]
  exact (if_pos ⟨h1, h2, h3⟩).trans (modSession_some h _)

/-! ### The first speed of a session (R150, R151) -/

theorem minuteSeen_early (now : Nat) {m : Nat} (h : m < 36525 * 1440) : minuteSeen now m = m :=
  if_neg fun h' => absurd h'.1 (by unfold calendarDays; omega)

/-- What the rules of R150 give. -/
def Chooses (s : State) (y : Session) (speed : Speed) (auto : Bool) : Prop :=
  (y.origin = none ∧ speed = y.currentSpeed ∧ auto = false) ∨
  ∃ k t, y.origin = some k ∧ (s.timer k).defn = some t ∧
    ((t.speed = .one ∧ speed = .one ∧ auto = false) ∨ (t.speed = .two ∧ speed = .two ∧ auto = false) ∨
      (t.speed = .auto ∧ auto = true ∧
        ((s.sch.settledFigure = none ∧ speed = .one) ∨
          ∃ figure start stop, s.sch.settledFigure = some figure ∧ y.occurrence = some (start, stop) ∧
            stop < 36525 * 1440 ∧
            speed = if (stop * 60 - s.clk.now.seconds) * 25 ≤ figure then .one else .two)))

theorem chooseSpeed_of {y : Session} {speed : Speed} {auto : Bool} (h : Chooses s y speed auto) :
    s.chooseSpeed y = (speed, auto) := by
  rcases h with ⟨ho, rfl, rfl⟩ | ⟨k, t, ho, ht, h⟩
  · simp only [State.chooseSpeed, ho, Option.bind_none]
  · rcases h with ⟨hs, rfl, rfl⟩ | ⟨hs, rfl, rfl⟩ | ⟨hs, rfl, h⟩
    · simp only [State.chooseSpeed, ho, Option.bind_some, ht, hs]
    · simp only [State.chooseSpeed, ho, Option.bind_some, ht, hs]
    · rcases h with ⟨hf, rfl⟩ | ⟨figure, start, stop, hf, hocc, hstop, rfl⟩
      · simp only [State.chooseSpeed, ho, Option.bind_some, ht, hs, hf]
      · simp only [State.chooseSpeed, ho, Option.bind_some, ht, hs, hf, hocc, State.framesNeeded,
          minuteSeen_early _ hstop, State.nowSeconds]

/-! ### The loss timer (R169) -/

theorem evalCueLoss_before {y : Session} {start stop : Nat} (h : s.sch.session = some y) (ho : y.occurrence = some (start, stop))
    (hs : stop < 36525 * 1440) (hn : s.clk.now.seconds < stop * 60) : evalCueLoss s = s := by
  have before : s.sessionBefore stop = true := by
    simpa [State.sessionBefore, minuteSeen_early _ hs, State.nowSeconds] using hn
  simp only [evalCueLoss, h, ho, before]
  exact if_neg (by simp)

theorem evalCueLoss_after {y : Session} {start stop : Nat} (h : s.sch.session = some y) (ho : y.occurrence = some (start, stop))
    (hs : stop < 36525 * 1440) (hn : stop * 60 ≤ s.clk.now.seconds) (hr : y.stopRule = .label) (hc : y.cueLoss = true)
    (ht : y.lossTimer = none) : evalCueLoss s = beginClose .done s := by
  have past : ¬ s.sessionBefore stop = true := by
    simpa [State.sessionBefore, minuteSeen_early _ hs, State.nowSeconds] using hn
  simp only [evalCueLoss, h, ho]
  exact if_pos ⟨hr, hc, ht, past⟩

end

/-- Settles O60. -/
theorem cuesKeysAndSourcesRunOut : Obligations.CuesKeysAndSourcesRunOut := by
  intro s ha ready held chooses
  have row (f : State → State) : awake f s = f s := awake_apply ha f
  -- a source that is ready while the motors brake
  have readies {u : State} {y : Session} {speed : Speed} {auto : Bool} (hu : u.sch.session = some y) (h1 : y.state = .starting)
      (h2 : u.chooseSpeed y = (speed, auto)) (h3 : u.pins.endSensor = false) (h4 : u.trc.state = .stopped)
      (h5 : u.trc.atRestMark = true) (h6 : y.startPhase ≠ .lockup) : sourceReady u = ready y speed auto u :=
    sourceReady_held hu h1 h2 h3 h4 h5 h6
  refine ⟨fun x => ?_, fun y speed auto hset hzero howner ⟨hy, hstart, hend, hstop, hrest⟩ hphase hch => ?_, ?_, fun h => ?_,
    fun y speed auto ⟨hy, hstart, hend, hstop, hrest⟩ hphase hwait hch => ?_, fun h => ?_,
    fun y start stop hy htimer hocc hlim => ?_⟩
  · intro r
    refine ⟨fun h => ?_, fun hage hsome hfree => ?_, fun h => ?_, fun h1 h2 h3 => ?_⟩
    · refine congrArg Host.Outcome.next ((row _).trans (if_neg fun he => ?_))
      obtain ⟨he, hsome⟩ := (expired_iff _).1 he
      rcases h with h | ⟨hl, hc⟩
      · exact absurd he (Nat.not_le.2 h)
      · exact hsome.elim (fun h => h hl) (fun h => h hc)
    · exact congrArg Host.Outcome.next ((row _).trans
        ((if_pos ((expired_iff _).2 ⟨hage, hsome⟩)).trans (ageExpires_noSession hfree)))
    · exact congrArg Host.Outcome.next ((row _).trans (settleRunsOut_waits h))
    · refine congrArg Host.Outcome.next ((row _).trans ((settleRunsOut_ends h1 h2).trans (if_neg ?_)))
      rintro ⟨ht, ho⟩
      exact h3.elim (fun h => by simp [h] at ht) (fun h => h ho)
  · refine congrArg Host.Outcome.next ((row _).trans ((settleRunsOut_ends (x := .a) ?_ hzero).trans ((if_pos ⟨hset, howner⟩).trans
      (readies hy hstart (chooseSpeed_of hch) hend hstop hrest ?_))))
    · rw [hset]; decide
    · rw [hphase]; decide
  · intro sends e
    refine ⟨fun h => ?_, fun l key rest h hc hr => ?_, fun l h hl => ⟨fun hw => ?_, fun key rest owner hw => ?_⟩,
      fun l y h hc hr ho hw hy hst hph hsrc => ?_⟩
    · exact congrArg Host.Outcome.next ((row _).trans (irKeyComplete_idle h))
    · exact congrArg Host.Outcome.next ((row _).trans (irKeyComplete_next h hc hr))
    · refine congrArg Host.Outcome.next ((row _).trans ((irKeyComplete_last h hl).trans
        ((keyEnds_last h (hl.imp_right And.left)).trans ?_)))
      rw [show s.tun.ext.waiting = none from hw]
      rfl
    · refine congrArg Host.Outcome.next ((row _).trans ((irKeyComplete_last h hl).trans
        ((keyEnds_last h (hl.imp_right And.left)).trans ?_)))
      rw [show s.tun.ext.waiting = some (key, rest, owner) from hw]
      rfl
    · have due : s.irDoneDue = true := by
        have list : s.tun.ext.sending = some l := h
        simp [State.irDoneDue, list, hc, hr, ho]
      have ended : keyEnds s = sends none none := by
        rw [keyEnds_last h (.inr hr), show s.tun.ext.waiting = none from hw]
        rfl
      refine congrArg Host.Outcome.next ((row _).trans ((if_pos due).trans ((congrArg irDone ended).trans ?_)))
      exact irDone_waits (s := sends none none) hy hst hph hsrc
  · refine congrArg Host.Outcome.next ((row _).trans (if_neg ?_))
    simpa [Option.any_eq_true] using h
  · have waits : s.sch.session.any (fun y => y.irWait.isSome) = true := by simpa [hy] using hwait
    refine congrArg Host.Outcome.next ((row _).trans ((if_pos waits).trans
      (readies hy hstart (chooseSpeed_of hch) hend hstop hrest ?_)))
    rw [hphase]; decide
  · refine congrArg Host.Outcome.next ((row _).trans (if_neg ?_))
    simpa [Option.any_eq_true] using h
  · have runs : s.sch.session.any (fun y => y.lossTimer.isSome) = true := by simpa [hy] using htimer
    have ends : Machine.exec .cueLossTimerExpiry s =
        .next (evalCueLoss { s with sch := { s.sch with session := some { y with lossTimer := none } } }) :=
      congrArg Host.Outcome.next ((row _).trans ((if_pos runs).trans (congrArg evalCueLoss (modSession_some hy _))))
    refine ⟨fun hn => ?_, fun hn hr hc hst htrc hheld => ?_⟩
    · exact ends.trans (congrArg _ (evalCueLoss_before
        (s := { s with sch := { s.sch with session := some { y with lossTimer := none } } }) rfl hocc hlim hn))
    · refine ends.trans (congrArg _ ((evalCueLoss_after
        (s := { s with sch := { s.sch with session := some { y with lossTimer := none } } }) rfl hocc hlim hn hr hc rfl).trans ?_))
      exact beginClose_brakes (w := { s with sch := { s.sch with session := some { y with lossTimer := none } } })
        rfl (by show y.state ≠ .closing; rw [hst]; decide) (congrArg TState.isSession htrc) hheld .done

end Sys2Proof.Proofs.RunOuts
end

section
/-! PROOFS. The outbound fields: what MON and REC carry, and how their fields begin (R71 to R74, R76). -/

namespace Sys2Proof.Proofs.OutboundFields
open Sys2Proof.Machine
open Sys2Proof.Proofs.Headers
open Sys2Proof.Proofs.Searching

section
variable {u : State}

/-! ### A field that is still being sent (log 32) -/

/-- More of a field can come: its stream has not fallen SILENT. -/
def GoesOn (u : State) (source : Option Inbound) (sending : Bool) : Prop :=
  sending = true ∧ ∀ i, source = some i → (u.lpt.field i).presence ≠ .silent

theorem fieldGoesOn_iff (source : Option Inbound) (sending : Bool) :
    u.fieldGoesOn source sending = true ↔ GoesOn u source sending := by
  cases source <;> simp [State.fieldGoesOn, GoesOn]

theorem monSending_iff : u.monSending = true ↔ ∃ m, u.lpt.mon = some m ∧ GoesOn u m.source m.sending := by
  simp only [State.monSending, Option.any_eq_true, fieldGoesOn_iff]

theorem recSending_iff : u.recSending = true ↔ ∃ r, u.lpt.recField = some r ∧ GoesOn u r.source r.sending := by
  simp only [State.recSending, Option.any_eq_true, fieldGoesOn_iff]

theorem writesDirectory_iff : u.writesDirectory = true ↔ u.trc.state = .dirWrite ∧ u.trc.phase = .writing := by
  simp [State.writesDirectory]

/-! ### The fields that begin -/

/-- A REC field of a transport that does not write the directory (R73). -/
theorem beginRec_plain (h : u.writesDirectory = false) (p : Parity) (grade : Nat) (source : Option Inbound) :
    beginRec p grade source u = { u with lpt := { u.lpt with
      recField := some { parity := p, grade := grade, source := source, sending := source.isSome, frame := none
                         line9 := travels emptyDirLine, line10 := travels emptyDirLine, lines := [] } } } := by
  simp only [beginRec, h, Bool.false_eq_true, if_false]
  rfl

/-- A directory write that is complete goes on to the unthreading. -/
theorem dirWriteCompletes_unloads (u : State) : (dirWriteCompletes u).trc.state = .unloading := by
  unfold dirWriteCompletes beginUnloading
  dsimp only
  split
  · rw [State.setTrc, enter_rest_eq rfl (by decide)]
    rfl
  · rw [enter_rest_eq rfl (by decide)]
    rfl

theorem endDirWrite_written (h : u.lastFrameOnRec) : endDirWrite u = dirWriteCompletes u := if_pos (dirWritten_iff.2 h)

theorem endDirWrite_unwritten (h : ¬ u.lastFrameOnRec) : endDirWrite u = u := if_neg (mt dirWritten_iff.1 h)

/-! ### What MON carries while no tape is shown (R71) -/

/-- The view's stream, else the session's, else a blank field. -/
def idleChoice (u : State) : Choice :=
  match u.lpt.viewSource, u.lpt.sessionSource with
  | some v, _ => .stream (viewStream v)
  | none, some k => .stream (sessionStream k)
  | none, none => .blank

theorem monChoice_idle (ha : u.asleep = false) (hp : u.sto.power ≠ .standby)
    (h : ¬ (u.trc.state = .play ∨ u.trc.state = .playPause ∨ u.trc.state = .searchFwd ∨ u.trc.state = .searchBack ∨
      u.trc.state = .dirRead)) : u.monChoice = idleChoice u := by
  simp only [not_or] at h
  obtain ⟨h1, h2, h3, h4, h5⟩ := h
  simp only [State.monChoice, ha, hp, Bool.false_eq_true, if_false]
  cases hst : u.trc.state with
  | play => exact absurd hst h1
  | playPause => exact absurd hst h2
  | searchFwd => exact absurd hst h3
  | searchBack => exact absurd hst h4
  | dirRead => exact absurd hst h5
  | _ => rfl

/-! ### A header of a tuner that settles from a tune (R85) -/

theorem receiveHeader_lowers {x : TunerId} (howner : (u.tuner x).owner ≠ .none) (hset : u.settling x = .tune)
    (hs : 2 ≤ (u.tuner x).settle) (strong : Bool) (afc : Int) : receiveHeader x strong afc u =
      setTuner x { u.tuner x with settle := (u.tuner x).settle - 1 } u := by
  have lowers : settlingHeader x u = (setTuner x { u.tuner x with settle := (u.tuner x).settle - 1 } u, false) := by
    unfold settlingHeader
    exact if_neg (Nat.not_le.2 hs)
  rw [receiveHeader_marked (by rw [hset]; decide)]
  simp [tunerHeader, tunHeader, howner, lowers, hset]

/-- A header handed on to the tuner of its stream. -/
theorem handOn_tuner (x : TunerId) (h : Header) (real : Bool) :
    handOn (streamOf x) h real u = receiveHeader x (u.strongField h real) h.afc u := by cases x <;> rfl

end

/-- Settles O44: each row is one of the two beginnings, tested as the statement tests it. -/
theorem outboundFieldsBegin : Obligations.OutboundFieldsBegin := by
  intro s ha after sent monField recOf goesOn monBusy recBusy begun playing
  have parity (last : Option Parity) : blankParity last = after last := by rcases last with _ | _ | _ <;> rfl
  have mons (u : State) : u.monSending = true ↔ monBusy u := monSending_iff
  have recs (u : State) : u.recSending = true ↔ recBusy u := recSending_iff
  have monBegins (p : Parity) (grade : Nat) (source : Option Inbound) (u : State) : beginMon p grade source u =
      monField { parity := p, grade := grade, source := source, sending := source.isSome, lines := [] } u := rfl
  have recBegins (p : Parity) (grade : Nat) (source : Option Inbound) (u : State) : beginRec p grade source u =
      { u with lpt := { u.lpt with recField := some (recOf p grade source u) } } := by
    by_cases hw : u.trc.state = .dirWrite ∧ u.trc.phase = .writing
    · simp only [beginRec, writesDirectory_iff.2 hw, if_true, recOf, hw, and_self]
      rfl
    · simp only [beginRec, if_neg (mt writesDirectory_iff.1 hw), recOf, hw, if_false]
      rfl
  have outbound (i : Inbound) (h : Header) (real : Bool) (u : State) : outboundFields i h real u =
      begun i h.parity (if real then h.grade else 15) (if real then some i else none) u := by
    have mon : (if (u.fieldsEnded i).monChoice = .stream i ∧ ¬ (u.fieldsEnded i).monSending = true
        then beginMon h.parity (if real then h.grade else 15) (if real then some i else none) (u.fieldsEnded i)
        else u.fieldsEnded i) = _ := if_congr (and_congr Iff.rfl (not_congr (mons _))) (monBegins ..) rfl
    unfold outboundFields
    rw [finishFields_eq]
    refine (if_congr (and_congr Iff.rfl (not_congr (recs _))) (recBegins ..) rfl).trans ?_
    dsimp only
    rw [mon]
  have row (f : State → State) : awake f s = f s := awake_apply ha f
  have recRow : Machine.exec (.generatedBlankField .recStream) s = .next (if s.recSending = true then s
      else beginRec (blankParity (s.lpt.recField.map RecField.parity)) 15 none (endDirWrite s)) :=
    congrArg Host.Outcome.next (row _)
  refine ⟨?_, fun hb => ?_, fun hb hw => ?_, fun hb hw w hends => ?_, fun hp => ?_, fun hp hplay => ?_,
    fun hp hplay => ⟨fun v hv => ?_, fun k hv hk => ?_, fun hv hk => ?_⟩, fun i p grade afc => ?_, fun i hi hsil => ?_⟩
  · refine congrArg Host.Outcome.next ((row _).trans (if_congr (mons s) rfl ?_))
    rw [parity]
    exact monBegins ..
  · exact recRow.trans (congrArg _ (if_pos ((recs s).2 hb)))
  · refine recRow.trans (congrArg _ ((if_neg (mt (recs s).1 hb)).trans ?_))
    rw [endDirWrite_unwritten hw, parity]
    exact recBegins ..
  · have ends : w = dirWriteCompletes s :=
      (Host.Outcome.next.inj (hends.symm.trans (congrArg Host.Outcome.next (row endDirWrite)))).trans (endDirWrite_written hw)
    have next : blankParity (s.lpt.recField.map RecField.parity) = .first := by
      obtain ⟨-, -, -, r, n, hr, hsecond, -⟩ := hw
      rw [hr, Option.map_some, hsecond]
      rfl
    have unloads : w.writesDirectory = false := by
      rw [State.writesDirectory, ends, dirWriteCompletes_unloads]
      rfl
    refine recRow.trans (congrArg _ ((if_neg (mt (recs s).1 hb)).trans ?_))
    rw [endDirWrite_written hw, ← ends, next]
    exact beginRec_plain unloads ..
  · simp only [State.monChoice, ha, hp, Bool.false_eq_true, if_false, if_true]
  · have on : s.sto.power ≠ .standby := by simp [hp]
    simp only [State.monChoice, ha, on, Bool.false_eq_true, if_false]
    rcases hplay with h | h | h | h | h <;> rw [h]
  · rw [monChoice_idle ha (by simp [hp]) hplay, idleChoice, hv]
    cases v <;> rfl
  · rw [monChoice_idle ha (by simp [hp]) hplay, idleChoice, hv, hk]
    cases k <;> rfl
  · rw [monChoice_idle ha (by simp [hp]) hplay, idleChoice, hv, hk]
  · intro h opened gives
    have handed : gives (handOn i h true opened) := by
      refine (exec_fieldHeader ha p grade afc).trans (congrArg Host.Outcome.next ?_)
      exact outbound i h true (handOn i h true opened)
    refine ⟨handed, fun hi => ?_, fun x hx howner hset hs => ?_⟩
    · rcases hi with rfl | rfl <;> exact handed
    · subst hx
      have lowers : handOn (streamOf x) h true opened =
          setTuner x { s.tuner x with settle := (s.tuner x).settle - 1 } opened := by
        rw [handOn_tuner, receiveHeader_lowers]
        · cases x <;> rfl
        · cases x <;> exact howner
        · cases x <;> exact hset
        · cases x <;> exact hs
      rw [← lowers]
      exact handed
  · intro p h opened gives
    have handed : gives (handOn i h false opened) := by
      refine congrArg Host.Outcome.next ((row _).trans ((if_pos ⟨hsil, hi⟩).trans ?_))
      unfold substituteField
      dsimp only
      rw [parity]
      exact outbound i h false (handOn i h false opened)
    refine ⟨handed, fun hi => ?_, fun x hx howner hset hs => ?_⟩
    · rcases hi with rfl | rfl <;> exact handed
    · subst hx
      have lowers : handOn (streamOf x) h false opened =
          setTuner x { s.tuner x with settle := (s.tuner x).settle - 1 } opened := by
        rw [handOn_tuner, receiveHeader_lowers]
        · cases x <;> rfl
        · cases x <;> exact howner
        · cases x <;> exact hset
        · cases x <;> exact hs
      rw [← lowers]
      exact handed

end Sys2Proof.Proofs.OutboundFields
end

section
/-! PROOFS. The lines of the inbound streams: taken, carried outbound, and handed on (R47, R64, R67, R68, R113 to R117, R174, R175). -/

namespace Sys2Proof.Proofs.Lines
open Sys2Proof.Machine
open Sys2Proof.Proofs.Headers

section
variable {i : Inbound} {line : BitVec 16} {s : State}

/-! ### Taking a line (R64, R67) -/

/-- The field of the stream is open (log 51). -/
abbrev Opened (f : FieldRecord) : Prop := f.presence ≠ .awaiting ∧ f.header ≠ none

/-- The line fits its stream's open field. -/
abbrev Fits (f : FieldRecord) (line : BitVec 16) : Prop :=
  Opened f ∧ 1 ≤ line.toNat ∧ line.toNat ≤ 313 ∧ ∀ last ∈ f.lastLine, last < line.toNat

theorem isOpen_iff (f : FieldRecord) : f.isOpen = true ↔ Opened f := by
  simp [FieldRecord.isOpen, Opened, Option.isSome_iff_ne_none]

theorem lineFits_iff (f : FieldRecord) : lineFits f line.toNat = true ↔ Fits f line := by
  simp only [lineFits, Bool.and_eq_true, isOpen_iff, decide_eq_true_eq, Option.all_eq_true, Fits, and_assoc]
  rfl

/-- A byte and its parity bit hold an odd number of ones. -/
abbrev Odd (b : Byte × Bool) : Prop :=
  (((List.range 8).filter fun k => b.1.getLsbD k).length + (if b.2 then 1 else 0)) % 2 = 1

theorem passes_iff (bytes : List (Byte × Bool)) : passes (.data bytes) = true ↔ ∀ b ∈ bytes, Odd b := by
  simp only [passes, List.all_eq_true, oddParity, decide_eq_true_eq]
  rfl

theorem exec_linePacket (ha : s.asleep = false) (payload : Payload) : Machine.exec (.linePacket i line payload) s =
    .next (if lineFits (s.lpt.field i) line.toNat = true
      then lineTaken i line.toNat payload (setField i { s.lpt.field i with lastLine := some line.toNat } s)
      else if i = .ctrl ∧ (s.lpt.field i).isOpen = true then reportLine s else s) :=
  congrArg Host.Outcome.next (awake_apply ha _)

/-- A line that fits and passes is carried outbound and handed on. -/
theorem exec_passing (ha : s.asleep = false) (hf : Fits (s.lpt.field i) line) {payload : Payload} (hp : passes payload = true) :
    Machine.exec (.linePacket i line payload) s =
      .next (handLine i line.toNat payload (s.lineSeen i line.toNat payload)) := by
  rw [exec_linePacket ha, if_pos ((lineFits_iff _).2 hf), lineTaken, if_pos hp, lineSeen_eq]

/-- A line that fits and fails parity is discarded, on CTRL with a report. -/
theorem exec_failing (ha : s.asleep = false) (hf : Fits (s.lpt.field i) line) {payload : Payload}
    (hp : ¬ passes payload = true) : Machine.exec (.linePacket i line payload) s =
      .next (if i = .ctrl then reportLine (setField i { s.lpt.field i with lastLine := some line.toNat } s)
        else setField i { s.lpt.field i with lastLine := some line.toNat } s) := by
  rw [exec_linePacket ha, if_pos ((lineFits_iff _).2 hf), lineTaken, if_neg hp]

/-! ### The outbound fields (R70 to R73) -/

/-- The MON field carries no line of the stream. -/
abbrev MonQuiet (i : Inbound) (s : State) : Prop := ∀ m ∈ s.lpt.mon, m.source = some i → m.sending = false

/-- The REC field carries no line of the stream. -/
abbrev RecQuiet (i : Inbound) (s : State) : Prop := ∀ r ∈ s.lpt.recField, r.source = some i → r.sending = false

theorem setField_outbound (f : FieldRecord) :
    (setField i f s).lpt.mon = s.lpt.mon ∧ (setField i f s).lpt.recField = s.lpt.recField := by
  cases i <;> exact ⟨rfl, rfl⟩

theorem quiet_mon (h : MonQuiet i s) : ∀ m ∈ s.lpt.mon, ¬ (m.source = some i ∧ m.sending = true) := by
  rintro m hm ⟨hsrc, hsend⟩
  rw [h m hm hsrc] at hsend
  exact Bool.false_ne_true hsend

theorem quiet_rec (h : RecQuiet i s) : ∀ r ∈ s.lpt.recField, ¬ (r.source = some i ∧ r.sending = true) := by
  rintro r hr ⟨hsrc, hsend⟩
  rw [h r hr hsrc] at hsend
  exact Bool.false_ne_true hsend

/-- A line that no outbound field carries. -/
theorem lineSeen_uncarried (hm : MonQuiet i s) (hr : RecQuiet i s) (n : Nat) (payload : Payload) :
    s.lineSeen i n payload = setField i { s.lpt.field i with lastLine := some n } s := by
  obtain ⟨mon, recf⟩ := setField_outbound (i := i) (s := s) { s.lpt.field i with lastLine := some n }
  rw [← lineSeen_eq, monLine_uncarried mon (quiet_mon hm), recLine_uncarried recf (quiet_rec hr)]

/-- A line on MON alone. -/
theorem lineSeen_mon {m : MonField} (hm : s.lpt.mon = some m) (hsrc : m.source = some i) (hsend : m.sending = true)
    (hr : RecQuiet i s) (n : Nat) (payload : Payload) : s.lineSeen i n payload =
      (let taken := setField i { s.lpt.field i with lastLine := some n } s
       let blacked : Prop := (i = .ta ∧ s.settling .a = .tune) ∨ (i = .tb ∧ s.settling .b = .tune)
       { taken with lpt := { taken.lpt with
          mon := some { m with lines := m.lines ++ [if blacked then OutLine.black n else .passed n payload]
                               sending := n ≠ 313 } } }) := by
  have recs : (s.lpt.recField.map fun r =>
      if r.source = some i ∧ r.sending ∧ n ≠ 9 ∧ n ≠ 10 then
        { r with lines := r.lines ++ [.passed n payload], sending := n ≠ 313 } else r) = s.lpt.recField := by
    cases h : s.lpt.recField with
    | none => rfl
    | some r => exact congrArg some (if_neg fun ⟨h1, h2, _⟩ => quiet_rec hr r h ⟨h1, h2⟩)
  have kept := (setField_outbound (i := i) (s := s) { s.lpt.field i with lastLine := some n }).2
  unfold State.lineSeen
  simp only [recs]
  rw [hm, Option.map_some, if_pos ⟨hsrc, hsend⟩, ← kept]

/-- A line on REC alone; lines 9 and 10 are REC's own (R73). -/
theorem lineSeen_rec {r : RecField} (hr : s.lpt.recField = some r) (hsrc : r.source = some i) (hsend : r.sending = true)
    (hm : MonQuiet i s) (n : Nat) (payload : Payload) : s.lineSeen i n payload =
      (let taken := setField i { s.lpt.field i with lastLine := some n } s
       { taken with lpt := { taken.lpt with
          recField := if n = 9 ∨ n = 10 then some r
                      else some { r with lines := r.lines ++ [.passed n payload], sending := n ≠ 313 } } }) := by
  obtain ⟨mon, recf⟩ := setField_outbound (i := i) (s := s) { s.lpt.field i with lastLine := some n }
  rw [← lineSeen_eq, monLine_uncarried mon (quiet_mon hm)]
  unfold recLine
  simp only [recf, hr, hsrc, hsend]
  by_cases h : n = 9 ∨ n = 10
  · rw [if_neg (by omega), if_pos h, ← hr, ← recf]
  · rw [if_pos (by simpa using h), if_neg h]
    rfl

/-! ### The command lines of CTRL (R174, R175) -/

/-- A line that counts in its CTRL field, and leaves no line pending. -/
def lineCounted (u : State) : State := { u with clu := { u.clu with lineCount := u.clu.lineCount + 1, pendingLine := none } }

/-- A complete command whose bytes sum to 0 is the row of its code, and is reported otherwise. -/
theorem checkCommand_eq (tag code length check : Byte) (args : List Byte) (u : State) :
    (([tag, code, length] ++ args ++ [check]).sum = 0 →
      Host.Outcome.next (checkCommand tag code length check args u) = Machine.exec (rowOfCode code tag args) u) ∧
    (([tag, code, length] ++ args ++ [check]).sum ≠ 0 →
      checkCommand tag code length check args u = u.withSticky Sticky.checkFail.mask) := by
  refine ⟨fun h => ?_, fun h => ?_⟩
  · rw [exec_rowOfCode]
    exact congrArg Host.Outcome.next (if_pos ((sum_eq_sumBytes _).symm.trans h))
  · exact if_neg (by rw [← sum_eq_sumBytes]; exact h)

/-- A CMD line in the first two lines of its field, with none pending. -/
theorem ctrlData_first {u : State} (hc : u.clu.lineCount ≤ 1) (hp : u.clu.pendingLine = none) (tag code length check : Byte)
    (content : List Byte) : ctrlData ([4, tag, code, length, check] ++ content) u =
      firstLine tag code length check content (lineCounted u) := by
  have few : ¬ 2 < u.clu.lineCount + 1 := by omega
  have none_ : ¬ u.clu.pendingLine.isSome = true := by simp [hp]
  exact (if_neg few).trans (congrArg _ (if_neg none_))

theorem ctrlData_continuation {u : State} (hc : u.clu.lineCount ≤ 1) {head : List Byte} (hh : head.length = 4)
    (content : List Byte) : ctrlData (5 :: (head ++ content)) u =
      match u.clu.pendingLine with
      | none => (lineCounted u).withSticky Sticky.checkFail.mask
      | some p => checkCommand p.tag p.code p.length p.check (p.args ++ content.take (p.length.toNat - 16)) (lineCounted u) := by
  have few : ¬ 2 < u.clu.lineCount + 1 := by omega
  have rest : (5 :: (head ++ content)).drop 5 = content := by simp [hh]
  unfold ctrlData
  rw [rest]
  exact (if_neg (show ¬ (5 : Byte) = 4 by decide)).trans ((if_pos rfl).trans (if_neg few))

theorem ctrlData_other {u : State} {kind : Byte} (rest : List Byte) (h4 : kind ≠ 4) (h5 : kind ≠ 5) :
    ctrlData (kind :: rest) u = (lineCounted u).withSticky Sticky.checkFail.mask :=
  (if_neg h4).trans (if_neg h5)

/-! ### A tuner's cue line (R113 to R117) -/

theorem decodeCue_of {h l day month hour minute status : Byte} (rest : List Byte) (h1 : status.toNat ≤ 2)
    (h2 : 1 ≤ day.toNat) (h3 : day.toNat ≤ 31) (h4 : 1 ≤ month.toNat) (h5 : month.toNat ≤ 12) (h6 : hour.toNat ≤ 23)
    (h7 : minute.toNat ≤ 59) : decodeCue ([h, l, day, month, hour, minute, status] ++ rest) =
      some { network := h.toNat * 256 + l.toNat
             label := some { day := day.toNat, month := month.toNat, hour := hour.toNat, minute := minute.toNat }
             status := if status = 0 then .run else if status = 1 then .hold else .clear } := by
  have state : cueStatusOf status = some (if status = 0 then .run else if status = 1 then .hold else .clear) := by
    unfold cueStatusOf
    by_cases e0 : status = 0
    · rw [if_pos e0, if_pos e0]
    · by_cases e1 : status = 1
      · rw [if_neg e0, if_neg e0, if_pos e1, if_pos e1]
      · have e2 : status = 2 := by bv_omega
        rw [if_neg e0, if_neg e0, if_neg e1, if_neg e1, if_pos e2]
  have label : cueLabelOf day.toNat month.toNat hour.toNat minute.toNat =
      some (some { day := day.toNat, month := month.toNat, hour := hour.toNat, minute := minute.toNat }) := by
    rw [cueLabelOf, if_neg (by omega)]
    simp [Label.inRange, h2, h3, h4, h5, h6, h7]
  have network : numAt ([h, l, day, month, hour, minute, status] ++ rest) 1 2 = h.toNat * 256 + l.toNat := by
    simp [numAt, List.range_succ, byteAt]
  unfold decodeCue
  rw [network]
  simp only [byteAt, List.cons_append, List.getD_cons_succ, List.getD_cons_zero, Nat.reduceSub, List.nil_append, state, label]

/-- A valid CUE line at a tuner that takes its lines. -/
theorem cueLineTaken_cue {x : TunerId} {u : State} {content : List Byte} {cue : Cue} {c : Option Nat}
    (hc : (u.cueRecord x).tuning = some c) (ht : (u.cueRecord x).taking = true) (hd : decodeCue content = some cue) :
    cueLineTaken x 1 content u = takeCue x cue u := by
  unfold cueLineTaken
  rw [hd]
  exact (if_pos ⟨by rw [hc]; rfl, ht⟩).trans (if_pos rfl)

section
variable {x : TunerId} {u : State} {r : CueRecord} {cue : Cue}

theorem takeCue_other (hr : u.cueRecord x = r) (h : r.lastCue ≠ some cue) :
    takeCue x cue u = setCueRecord x { r with lastCue := some cue, age := 0 } u := by
  subst hr
  exact if_neg fun h' => h h'.1

/-- The content heard last, heard again. -/
theorem again_eq (h : r.lastCue = some cue) : ({ r with lastCue := some cue, age := 0 } : CueRecord) = { r with age := 0 } := by
  rw [← h]

theorem takeCue_current (hr : u.cueRecord x = r) (h : r.lastCue = some cue) (hc : r.current = some cue) :
    takeCue x cue u = setCueRecord x { r with age := 0 } u := by
  rw [← again_eq h]
  subst hr
  exact if_neg fun h' => h'.2 hc

theorem takeCue_confirms (hr : u.cueRecord x = r) (h : r.lastCue = some cue) (hc : r.current ≠ some cue) :
    takeCue x cue u = becomesCurrent x cue (setCueRecord x { r with age := 0 } u) := by
  rw [← again_eq h]
  subst hr
  exact if_pos ⟨h, hc⟩

/-- The tuner's cue becomes current, with nothing scheduled and no search. -/
theorem confirmed_idle {c : Option Nat} (hid : u.schedulerIdle) (hs : u.tun.search.state = .idle) (hc : r.tuning = some c) :
    becomesCurrent x cue (setCueRecord x { r with age := 0 } u) =
      (let v := setCueRecord x { r with age := 0, current := some cue } u
       if u.cue.ring.length < 8 then
         { v with cue := { v.cue with
             ring := u.cue.ring ++ [{ tuner := x, channel := c, cue := cue, at_ := u.clk.now, status := u.clk.status }] } }
       else v.withSticky Sticky.cueRingFull.mask) := by
  have idle := becomesCurrent_idle (x := x) (u := setCueRecord x { r with age := 0 } u) (cue := cue) (c := c)
    (by cases x <;> exact hid) (by cases x <;> exact hs) (by cases x <;> exact hc)
  rw [idle]
  cases x <;> rfl

end

/-- A CUE line heard whole by its tuner, no outbound field carrying it. -/
theorem exec_cue {x : TunerId} {bytes : List (Byte × Bool)} (hh : s.hears x line bytes) (hm : MonQuiet (streamOf x) s)
    (hr : RecQuiet (streamOf x) s) {head content : List Byte} (hb : bytes.map Prod.fst = 1 :: (head ++ content))
    (hl : head.length = 4) {cue : Cue} {c : Option Nat} (hc : (s.cueRecord x).tuning = some c)
    (ht : (s.cueRecord x).taking = true) (hd : decodeCue content = some cue) :
    Machine.exec (.linePacket (streamOf x) line (.data bytes)) s = .next (takeCue x cue
      (setField (streamOf x) { s.lpt.field (streamOf x) with lastLine := some line.toNat } s)) := by
  rw [exec_cueLine hh hb hl (.inl rfl), lineSeen_uncarried hm hr]
  refine congrArg Host.Outcome.next (cueLineTaken_cue (c := c) ?_ ?_ hd)
  · cases x <;> exact hc
  · cases x <;> exact ht

/-! ### The directory lines of PLAY (R47, R75) -/

/-- The place in the copy that begins with frame `first`. -/
def placeFrom (first frame sub : Nat) : Option Nat :=
  if first ≤ frame ∧ frame < first + 10 ∧ 4 * (frame - first) + sub < 25 then some (4 * (frame - first) + sub) else none

/-- The place within a frame's two lines of two fields. -/
def subPlace (p : Parity) (n : Nat) : Nat := (if p = .first then 0 else 2) + if n = 9 then 0 else 1

theorem placeFrom_iff {first frame sub j : Nat} : placeFrom first frame sub = some j ↔
    first ≤ frame ∧ frame < first + 10 ∧ 4 * (frame - first) + sub = j ∧ j < 25 := by
  unfold placeFrom
  split
  · rw [Option.some_inj]; omega
  · simp only [reduceCtorEq, false_iff]; omega

theorem placeFrom_none {first frame sub : Nat} (h : frame < first ∨ first + 10 ≤ frame) : placeFrom first frame sub = none :=
  if_neg (by omega)

theorem fragmentPlace_iff {frame n copy place : Nat} {p : Parity} : fragmentPlace frame p n = some (copy, place) ↔
    copy < 3 ∧ placeFrom (10 + 20 * copy) frame (subPlace p n) = some place := by
  have unfolded : fragmentPlace frame p n = match placeFrom 10 frame (subPlace p n), placeFrom 30 frame (subPlace p n),
      placeFrom 50 frame (subPlace p n) with
    | some j, _, _ => some (0, j)
    | none, some j, _ => some (1, j)
    | none, none, some j => some (2, j)
    | none, none, none => none := rfl
  rw [unfolded]
  constructor
  · intro h
    split at h <;> simp only [Option.some_inj, Prod.mk.injEq, reduceCtorEq] at h <;> obtain ⟨rfl, rfl⟩ := h
    · next h => exact ⟨by decide, h⟩
    · next h => exact ⟨by decide, h⟩
    · next h => exact ⟨by decide, h⟩
  · rintro ⟨hc, h⟩
    obtain ⟨h1, h2, -, -⟩ := placeFrom_iff.1 h
    interval_cases copy
    · simp only [show placeFrom 10 frame (subPlace p n) = some place from h]
    · simp only [placeFrom_none (first := 10) (sub := subPlace p n) (.inr (by omega) : frame < 10 ∨ _),
        show placeFrom 30 frame (subPlace p n) = some place from h]
    · simp only [placeFrom_none (first := 10) (sub := subPlace p n) (.inr (by omega) : frame < 10 ∨ _),
        placeFrom_none (first := 30) (sub := subPlace p n) (.inr (by omega) : frame < 30 ∨ _),
        show placeFrom 50 frame (subPlace p n) = some place from h]

/-- Where a fragment stands, by its frame, its field and its line (R47). -/
theorem fragmentPlace_spec {frame n copy place : Nat} {p : Parity} (hn : n = 9 ∨ n = 10) :
    fragmentPlace frame p n = some (copy, place) ↔ copy < 3 ∧ place ≤ 24 ∧ frame = 10 + 20 * copy + place / 4 ∧
      (p = .first ↔ place % 4 < 2) ∧ n = 9 + place % 2 := by
  rw [fragmentPlace_iff, placeFrom_iff]
  rcases hn with rfl | rfl <;> cases p <;> simp [subPlace] <;> omega

/-- The directory is being read, and collects what PLAY brings (R49, R75). -/
abbrev Reads (s : State) : Prop :=
  s.trc.state = .dirRead ∧ s.tcb.exact = true ∧ s.tcb.pulseSinceExact = true ∧ s.dir.collecting = true ∧ s.dir.blankTested = true

theorem playData_idle {u : State} {n : Nat} {mark : Byte} {l : List Byte}
    (h : ¬ Reads u ∨ carriesFragment mark = false ∨ (n ≠ 9 ∧ n ≠ 10)) : playData n (3 :: mark :: l) u = u := by
  unfold playData
  split
  · next hc =>
    obtain ⟨-, hn, hst, hex, hpulse, hmark⟩ := hc
    split
    · next hd frame _ _ =>
      unfold fileLine
      refine if_neg fun ⟨hcol, hblank⟩ => ?_
      rcases h with h | h | h
      · exact h ⟨hst, hex, hpulse, hcol, hblank⟩
      · exact Bool.false_ne_true (h.symm.trans hmark)
      · exact hn.elim h.1 h.2
    · rfl
  · rfl

/-- A DIR line of a read, in an open field, is filed where its fragment stands. -/
theorem playData_reads {u : State} {n : Nat} {mark : Byte} {l : List Byte} {p : Header} (h : Reads u)
    (hp : u.lpt.play.header = some p) (hm : carriesFragment mark = true) (hn : n = 9 ∨ n = 10) :
    playData n (3 :: mark :: l) u = match u.frameNumber with
      | none => u
      | some frame => match fragmentPlace frame p.parity n with
        | none => u
        | some (c, j) => { u with dir := { u.dir with
            copies := u.dir.copies.modify c fun places => places.set j (some ((3 :: mark :: l).drop 5)) } } := by
  obtain ⟨hst, hex, hpulse, hcol, hblank⟩ := h
  refine (if_pos ⟨rfl, hn, hst, hex, hpulse, hm⟩).trans ?_
  rw [hp]
  cases hfr : u.frameNumber with
  | none => rfl
  | some frame => exact if_pos ⟨hcol, hblank⟩

theorem frameNumber_some {u : State} {n : Nat} : u.frameNumber = some n ↔ u.tcb.absPos = n + 1 := by
  unfold State.frameNumber
  split
  · simp; omega
  · rw [Option.some_inj]; omega

end

/-- Settles O45. -/
theorem linesAreTakenAndHandedOn : Obligations.LinesAreTakenAndHandedOn := by
  intro i line s ha f opened fits taken one reported odd monQuiet recQuiet uncarried blacked onMon
  refine ⟨fun payload hf => ?_, fun content hf => ⟨fun hu => ?_, fun m hm hi hsrc hsend hr => ?_, fun r hr hi hsrc hsend hm => ?_⟩,
    fun bytes m hf hi hm hsrc hsend hr => ⟨fun hodd => ?_, fun hodd => ?_⟩, fun bytes hf hu => ⟨fun hodd => ?_, ?_, ?_, ?_⟩⟩
  · rw [exec_linePacket ha, if_neg (mt (lineFits_iff _).1 hf)]
    exact congrArg Host.Outcome.next (if_congr (and_congr Iff.rfl (isOpen_iff _)) rfl rfl)
  · rw [exec_passing ha hf rfl, lineSeen_uncarried hu.1 hu.2]
    rfl
  · rw [exec_passing ha hf rfl, lineSeen_mon hm hsrc hsend hr]
    exact congrArg Host.Outcome.next (if_neg hi)
  · rw [exec_passing ha hf rfl, lineSeen_rec hr hsrc hsend hm]
    exact congrArg Host.Outcome.next (if_neg hi)
  · rw [exec_passing ha hf ((passes_iff bytes).2 hodd), lineSeen_mon hm (hsrc.trans (congrArg some hi.symm)) hsend hr]
    subst hi
    rfl
  · rw [exec_failing ha hf (mt (passes_iff bytes).1 hodd)]
    exact congrArg Host.Outcome.next (if_neg (by rw [hi]; decide))
  · exact exec_failing ha hf (mt (passes_iff bytes).1 hodd)
  · intro hodd hi hfew
    have hands : Machine.exec (.linePacket i line (.data bytes)) s = .next (ctrlData (bytes.map Prod.fst) taken) := by
      rw [exec_passing ha hf ((passes_iff bytes).2 hodd), lineSeen_uncarried hu.1 hu.2]
      subst hi
      rfl
    have clu : taken.clu = s.clu := by simp only [taken]; cases i <;> rfl
    refine ⟨fun tag code length check content hb hlen hpend => ?_, fun head content hb hh => ⟨fun hpend => ?_, fun l hpend => ?_⟩,
      fun kind rest hb h4 h5 => ?_⟩
    · have first := hands.trans (congrArg Host.Outcome.next ((congrArg (ctrlData · taken) hb).trans
        (ctrlData_first (by rw [clu]; exact hfew) (by rw [clu]; exact hpend) tag code length check content)))
      have short (h : length.toNat ≤ 16) : firstLine tag code length check content (lineCounted taken) =
          checkCommand tag code length check (content.take length.toNat) (lineCounted taken) := if_pos h
      obtain ⟨runs, fails⟩ := checkCommand_eq tag code length check (content.take length.toNat) (lineCounted taken)
      refine ⟨fun h hsum => ?_, fun h hsum => ?_, fun h h' hzero => ?_, fun h => ?_⟩
      · rw [first, short h]; exact runs hsum
      · rw [first, short h, fails hsum]; rfl
      · refine first.trans (congrArg Host.Outcome.next ((if_neg (by omega)).trans ((if_pos ⟨h', ?_⟩).trans ?_)))
        · simp only [lineCounted, State.setClu, clu, hzero]
        · show taken.clu.lineCount + 1 = 1
          rw [clu, hzero]
      · refine first.trans (congrArg Host.Outcome.next ((if_neg (by omega)).trans ((if_neg ?_).trans rfl)))
        rintro ⟨hle, hcount⟩
        have : taken.clu.lineCount + 1 = 1 := hcount
        rw [clu] at this
        omega
    · rw [hands, hb, ctrlData_continuation (by rw [clu]; exact hfew) hh, clu, hpend]
      rfl
    · intro args
      have pending := hands.trans (congrArg Host.Outcome.next ((congrArg (ctrlData · taken) hb).trans
        (ctrlData_continuation (by rw [clu]; exact hfew) hh content)))
      rw [clu, hpend] at pending
      obtain ⟨runs, fails⟩ := checkCommand_eq l.tag l.code l.length l.check args (lineCounted taken)
      exact ⟨fun hsum => pending.trans (runs hsum), fun hsum => pending.trans (congrArg Host.Outcome.next (fails hsum))⟩
    · rw [hands, hb, ctrlData_other rest h4 h5]
      rfl
  · intro hodd x hi hline hset h l day month hour minute status head rest hb hlen h1 h2 h3 h4 h5 h6 h7 r c hc htaking cue
    subst hi
    have takes := exec_cue ⟨ha, hf.1.1, hf.1.2, hf.2.1, hf.2.2.1, hf.2.2.2, hodd, hline, hset⟩ hu.1 hu.2
      (content := [h, l, day, month, hour, minute, status] ++ rest) (by rw [hb, List.append_assoc]) hlen hc htaking
      (decodeCue_of rest h1 h2 h3 h4 h5 h6 h7)
    have record : taken.cueRecord x = r := by simp only [taken]; cases x <;> rfl
    have free : taken.cue.ring = s.cue.ring ∧ taken.clk = s.clk ∧ taken.sch = s.sch ∧ taken.tun = s.tun := by
      simp only [taken]; cases x <;> exact ⟨rfl, rfl, rfl, rfl⟩
    obtain ⟨ring, clk, sch, tun⟩ := free
    refine ⟨fun hlast => ?_, fun hlast hcur => ?_, fun hlast hcur hidle hsearch => ?_⟩
    · exact takes.trans (congrArg Host.Outcome.next (takeCue_other record hlast))
    · exact takes.trans (congrArg Host.Outcome.next (takeCue_current record hlast hcur))
    · have confirms := takes.trans (congrArg Host.Outcome.next ((takeCue_confirms record hlast hcur).trans
        (confirmed_idle (c := c) (by rw [State.schedulerIdle, sch]; exact hidle) (by rw [tun]; exact hsearch) hc)))
      rw [ring, clk] at confirms
      exact ⟨fun hfree => confirms.trans (congrArg Host.Outcome.next (if_pos hfree)),
        fun hfull => confirms.trans (congrArg Host.Outcome.next (if_neg (by omega)))⟩
  · intro hodd hi mark head content hb hlen read
    subst hi
    have hands : Machine.exec (.linePacket .play line (.data bytes)) s =
        .next (playData line.toNat (3 :: mark :: (head ++ content)) taken) := by
      rw [exec_passing ha hf ((passes_iff bytes).2 hodd), lineSeen_uncarried hu.1 hu.2, ← hb]
      rfl
    have rest : (3 :: mark :: (head ++ content)).drop 5 = content := by simp [hlen]
    refine ⟨fun h => ?_, fun copy place p hread hmark hc hp hhead hpos hpar hline => ?_, fun p hread hhead hno => ?_⟩
    · refine hands.trans (congrArg Host.Outcome.next (playData_idle ?_))
      exact h.imp id (Or.imp (fun h => by rw [h]; rfl) id)
    · have place_ : fragmentPlace (10 + 20 * copy + place / 4) p.parity line.toNat = some (copy, place) :=
        (fragmentPlace_spec (by omega)).2 ⟨hc, hp, rfl, hpar, hline⟩
      refine hands.trans (congrArg Host.Outcome.next ((playData_reads (u := taken) hread hhead (by rw [hmark]; rfl) (by omega)).trans ?_))
      rw [frameNumber_some.2 (show taken.tcb.absPos = 10 + 20 * copy + place / 4 + 1 from hpos), rest]
      dsimp only
      rw [place_]
      rfl
    · refine hands.trans (congrArg Host.Outcome.next ?_)
      by_cases hline : line.toNat = 9 ∨ line.toNat = 10
      · cases hmark : carriesFragment mark with
        | false => exact playData_idle (.inr (.inl hmark))
        | true =>
          refine (playData_reads (u := taken) hread hhead hmark hline).trans ?_
          cases hfr : taken.frameNumber with
          | none => rfl
          | some frame =>
            dsimp only
            cases hpl : fragmentPlace frame p.parity line.toNat with
            | none => rfl
            | some cj =>
              obtain ⟨hc, hp, hframe, hpar, hl⟩ := (fragmentPlace_spec hline).1 hpl
              refine absurd ⟨?_, hpar, hl⟩ (hno cj.1 cj.2 hc hp)
              have pos : s.tcb.absPos = frame + 1 := frameNumber_some.1 hfr
              omega
      · exact playData_idle (.inr (.inr (by omega)))

end Sys2Proof.Proofs.Lines
end

section
/-! PROOFS. The switches of the cassette and of the threading (R1 to R3, R19, R20). -/

namespace Sys2Proof.Proofs.Switches
open Sys2Proof.Machine

section
variable {s : State}

/-! ### Entering STOPPED and the motion states -/

/-- STOPPED entered with the tape at rest, or braking as it was. -/
theorem enter_stopped_eq (ph : Phase) (s : State) :
    enter .stopped ph s = s.transportTo { s.trc.restsIn .stopped ph with servoLocked := false } := rfl

/-- A motion state other than DIR_WRITE entered, the locate record and a seek as they stand. -/
theorem enter_motion_eq {st : TState} (hm : st.isMotion = true) (hw : st ≠ .dirWrite) (ph : Phase) (s : State) :
    enter st ph s = s.transportTo { s.trc.movesInto st ph with locate := s.trc.locate, seek := s.trc.seek } := by
  by_cases h : s.trc.state.isMotion <;>
  simp [enter, Trc.enter, watchOnEntry, hm, hw, h, State.transportTo, Trc.movesInto, Trc.noLimits, State.setTrc,
    State.setTcb, State.setDir]

theorem beginDirRead_eq (s : State) : beginDirRead s =
    { s.transportTo { s.trc.movesInto .dirRead .idle with locate := s.trc.locate, seek := s.trc.seek } with
      dir := { s.dir with
        collecting := decide (s.dir.state = .unknown)
        copies := if decide (s.dir.state = .unknown) then noFragments else s.dir.copies
        blankTest := none, blankTested := false, writeImage := none } } := by
  rw [beginDirRead, enter_motion_eq rfl (by decide)]
  rfl

/-! ### The cassette-in switch -/

theorem beginLoading_idle (h : s.trc.state.isMotion = false) : beginLoading s =
    s.transportTo { s.trc.restsIn .loading .idle with threadingLimit := if s.trc.atRestMark then none else some 8000 } := by
  have brakes : s.trc.brakingNow = s.trc.atRestMark := by rw [Trc.brakingNow, h, Bool.or_false]
  unfold beginLoading
  rw [enter_rest_eq rfl (by decide), brakes]
  cases hm : s.trc.atRestMark with
  | true =>
    refine (if_pos rfl).trans ?_
    simp [State.setTrc, State.transportTo, Trc.restsIn, Trc.noLimits, hm]
  | false =>
    refine (if_neg Bool.false_ne_true).trans ?_
    simp [runThreading, State.setTrc, State.transportTo, Trc.restsIn, Trc.noLimits]

theorem cassetteMoves_home (h : s.trc.state = .empty ∨ s.trc.state = .ejected) (was : CassettePos) :
    cassetteMoves was .home s = newCassette (beginLoading s) := by
  rcases h with h | h <;> simp only [cassetteMoves, h]

theorem cassetteMoves_slot (h : s.trc.state = .ejected) (was : CassettePos) :
    cassetteMoves was .slotOpen s = s.transportTo (s.trc.restsIn .empty .idle) := by
  rw [← enter_rest_eq rfl (by decide)]
  simp only [cassetteMoves, h]

theorem cassetteMoves_empty (h : s.trc.state = .empty) (was : CassettePos) {pos : CassettePos} (hp : pos ≠ .home) :
    cassetteMoves was pos s = s := by
  cases pos with
  | home => exact absurd rfl hp
  | slotOpen => simp only [cassetteMoves, h]
  | partway => simp only [cassetteMoves, h]

theorem cassetteMoves_out (h : s.trc.state = .unloading) (hp : s.trc.phase = .pushOut) (hl : s.trc.pushOutLimit.isSome)
    (was : CassettePos) : cassetteMoves was .partway s = completeHeld .done .none (enterEjected s) := by
  simp only [cassetteMoves, h]
  exact (if_pos ⟨trivial, hp⟩).trans (if_pos ⟨trivial, hl⟩)

/-- The cassette is out (R12, R19, R29, R42, R63). -/
theorem enterEjected_eq (s : State) : enterEjected s = { s with
    trc := { s.trc.restsIn .ejected .idle with endLatch := false, locate := none, seek := none, atRestMark := false }
    tcb := { s.tcb.closeWindow with exact := false, absPos := 0, pulseSinceExact := false, history := [], nearEnd := false }
    dir := { s.dir.lost with copies := noFragments, blankTested := false }
    sch := { s.sch with settledFigure := none } } := by
  unfold enterEjected
  rw [enter_rest_eq rfl (by decide)]
  rfl

/-! ### The threaded switch -/

theorem threadedMoves_loading (h : s.trc.state = .loading) (hl : s.trc.threadingLimit.isSome) :
    threadedMoves true s = threadingEnds s := (if_pos rfl).trans (if_pos ⟨h, hl⟩)

theorem threadedMoves_rethreading (h : s.trc.state = .dewHold) (hp : s.trc.phase = .dewRethread) :
    threadedMoves true s = positionUnknown (enter .stopped .idle s) := by
  refine (if_pos rfl).trans ((if_neg ?_).trans (if_pos ⟨h, hp⟩))
  rw [h]
  rintro ⟨h', -⟩
  exact absurd h' (by decide)

/-- Threading ends off the leader, with no record start held (R3). -/
theorem threadingEnds_off (hd : s.pins.dew = false) (hs : s.pins.startSensor = false) (hh : s.trc.heldStart = none) :
    threadingEnds s = { s with
      trc := { s.trc.restsIn .stopped .idle with servoLocked := false, heldHalt := false }
      tcb := { s.tcb.closeWindow with exact := false, pulseSinceExact := false }
      dir := s.dir.lost } := by
  have free : ∀ u : State, u.trc.heldStart = none → takeHeldStart u = u := fun u hu => by simp only [takeHeldStart, hu]
  unfold threadingEnds
  simp only [hd, Bool.false_eq_true, if_false]
  refine (if_neg (by rw [hs]; decide)).trans ?_
  rw [enter_stopped_eq]
  exact (free (dirUnknown _) (by exact hh)).trans rfl

/-- Threading ends on the leader: the directory is read (R3). -/
theorem threadingEnds_on (hd : s.pins.dew = false) (hs : s.pins.startSensor = true) (hn : s.sch.session = none) :
    threadingEnds s = beginDirRead (s.setTrc { s.trc with heldHalt := false }) := by
  have free : ¬ State.hasSession (s.setTrc { s.trc with heldHalt := false }) = true := by
    simp [State.hasSession, State.setTrc, hn]
  exact (if_neg (by rw [hd]; decide)).trans ((if_pos (by exact hs)).trans (if_neg free))

/-! ### The unthreaded switch -/

theorem unthreadedMoves_unloading (h : s.trc.state = .unloading) (hp : s.trc.phase = .unthread)
    (hl : s.trc.unthreadingLimit.isSome) : unthreadedMoves true s = beginPushOut s := by
  refine (if_pos ⟨rfl, hl⟩).trans ?_
  simp only [h, hp]

theorem unthreadedMoves_dew (h : s.trc.state = .dewHold) (hp : s.trc.phase = .dewUnthread)
    (hl : s.trc.unthreadingLimit.isSome) : unthreadedMoves true s = dewUnthreaded s := by
  refine (if_pos ⟨rfl, hl⟩).trans ?_
  simp only [h, hp]

theorem dewUnthreaded_ejects {id : Nat} (h : s.trc.held = some { id := id, code := 11 }) : dewUnthreaded s = beginPushOut s := by
  refine if_pos ?_
  simp [State.holds, h]

theorem dewUnthreaded_free (h : s.trc.held = none) :
    dewUnthreaded s = if s.pins.dew then s.setTrc { s.trc with phase := .dewWait, unthreadingLimit := none }
      else beginRethread s := by
  refine if_neg ?_
  simp [State.holds, h]

end

/-- Settles O47. -/
theorem switchesMoveTheCassette : Obligations.SwitchesMoveTheCassette := by
  intro s cassette threaded unthreaded pushedOut
  refine ⟨fun tab => rfl, fun ha => ⟨fun pos => ?_, fun b => ?_, fun b => ?_⟩, fun ha => ?_⟩
  · exact congrArg Host.Outcome.next (awake_asleep_pins ha _ _)
  · exact congrArg Host.Outcome.next (awake_asleep_pins ha _ _)
  · exact congrArg Host.Outcome.next (awake_asleep_pins ha _ _)
  have row (p : Pins) (f : State → State) : awake f { s with pins := p } = f { s with pins := p } := awake_apply_pins ha p f
  refine ⟨fun h => ?_, fun h => ?_, fun h pos hp => ?_, fun c h hp hl hc => ?_, fun h hl hd => ⟨fun hs hh => ?_, fun hs hn => ?_⟩,
    fun h hp => ?_, fun h hp hl => ?_, fun h hp hl => ⟨?_, fun hh hd => ?_, fun hh hd => ?_⟩⟩
  · have still : s.trc.state.isMotion = false := by rcases h with h | h <;> rw [h] <;> rfl
    refine congrArg Host.Outcome.next ((row _ _).trans ((cassetteMoves_home (s := cassette .home) h _).trans ?_))
    exact (congrArg newCassette (beginLoading_idle (s := cassette .home) still)).trans rfl
  · exact congrArg Host.Outcome.next ((row _ _).trans (cassetteMoves_slot (s := cassette .slotOpen) h _))
  · exact congrArg Host.Outcome.next ((row _ _).trans (cassetteMoves_empty (s := cassette pos) h _ hp))
  · refine congrArg Host.Outcome.next ((row _ _).trans ((cassetteMoves_out (s := cassette .partway) h hp hl _).trans ?_))
    rw [enterEjected_eq]
    exact completeHeld_letsGo hc rfl rfl
  · exact congrArg Host.Outcome.next ((row _ _).trans ((threadedMoves_loading (s := threaded true) h hl).trans
      (threadingEnds_off (s := threaded true) hd hs hh)))
  · intro unknown
    refine congrArg Host.Outcome.next ((row _ _).trans ((threadedMoves_loading (s := threaded true) h hl).trans
      ((threadingEnds_on (s := threaded true) hd hs hn).trans ((beginDirRead_eq _).trans ?_))))
    rfl
  · exact congrArg Host.Outcome.next ((row _ _).trans ((threadedMoves_rethreading (s := threaded true) h hp).trans rfl))
  · exact congrArg Host.Outcome.next ((row _ _).trans (unthreadedMoves_unloading (s := unthreaded true) h hp hl))
  · rintro ⟨id, hh⟩
    exact congrArg Host.Outcome.next ((row _ _).trans ((unthreadedMoves_dew (s := unthreaded true) h hp hl).trans
      (dewUnthreaded_ejects (s := unthreaded true) hh)))
  · exact congrArg Host.Outcome.next ((row _ _).trans ((unthreadedMoves_dew (s := unthreaded true) h hp hl).trans
      ((dewUnthreaded_free (s := unthreaded true) hh).trans (if_pos hd))))
  · exact congrArg Host.Outcome.next ((row _ _).trans ((unthreadedMoves_dew (s := unthreaded true) h hp hl).trans
      ((dewUnthreaded_free (s := unthreaded true) hh).trans (if_neg (by rw [show (unthreaded true).pins.dew = false from hd]; decide)))))

end Sys2Proof.Proofs.Switches
end

section
/-! PROOFS. The leader sensors and the dew sensor (R3, R12, R15, R18, R20, R28). -/

namespace Sys2Proof.Proofs.Sensors
open Sys2Proof.Machine

section
variable {s : State}

/-! ### Rows that only note their sensor -/

/-- A row that changes nothing while the part is awake changes nothing. -/
theorem awake_same {f : State → State} (h : s.asleep = false → f s = s) : awake f s = s := by
  cases ha : s.asleep with
  | true => exact awake_asleep ha f
  | false => exact (awake_apply ha f).trans (h ha)

/-- In STOPPED and in EMPTY the tape does not move. -/
theorem still_of (h : s.trc.state = .stopped ∨ s.trc.state = .empty) :
    s.trc.reverseMotion = false ∧ s.trc.forwardMotion = false ∧ s.trc.state ≠ .dewHold := by
  rcases h with h | h <;> refine ⟨?_, ?_, ?_⟩ <;> simp [Trc.reverseMotion, Trc.forwardMotion, TState.isMotion, h]

/-! ### The start sensor in reverse motion (R12) -/

/-- The tape is at its start: EXACT at 0, with TAPE_START. -/
def atStart (u : State) : State := { u with tcb := u.tcb.atZero }.withSticky Sticky.tapeStart.mask

theorem tapeStart_stops (h : s.trc.state = .windBack ∨ s.trc.state = .searchBack) :
    tapeStart s = completeHeld .failed .notReached ((atStart s).transportTo s.trc.stops) := by
  unfold tapeStart
  rcases h with h | h <;> simp only [h] <;> rfl

theorem tapeStart_lockup (h : s.trc.state = .lockup) (hc : s.trc.backspaceCount ≠ 0) :
    tapeStart s = setPhase .forwardRun (atStart s) := by
  unfold tapeStart
  simp only [h]
  exact if_neg hc

theorem tapeStart_dirWrite (h : s.trc.state = .dirWrite) : tapeStart s = setPhase .writeLead (atStart s) := by
  unfold tapeStart
  simp only [h]
  rfl

/-! ### The start sensor in forward motion (R28) -/

/-- The leader is left: EXACT at 0. -/
def offStart (u : State) : State := { u with tcb := u.tcb.atZero }

theorem leaveLeader_plain (h : s.trc.state = .play ∨ s.trc.state = .windFwd ∨ s.trc.state = .searchFwd ∨
    s.trc.state = .record) : leaveLeader s = offStart s := by
  unfold leaveLeader
  rcases h with h | h | h | h <;> simp only [h] <;> rfl

theorem leaveLeader_dirRead (h : s.trc.state = .dirRead) : leaveLeader s = startBlankTest (startReadLock (offStart s)) := by
  unfold leaveLeader
  simp only [h]
  rfl

theorem leaveLeader_lockup (h : s.trc.state = .lockup) (hp : s.trc.phase = .leaderClear) :
    leaveLeader s = { offStart s with trc := { s.trc with phase := .reserve, recordingSpeed := .one } } := by
  have near : (offStart s).tcb.exact = true ∧ (offStart s).tcb.absPos < 75 := ⟨rfl, Nat.succ_pos 74⟩
  have goes : leaveLeader s = afterLeader (exactAtZero s) := by
    unfold leaveLeader
    simp only [h, hp]
  exact goes.trans (if_pos near)

theorem leaveLeader_dirWrite (h : s.trc.state = .dirWrite) (hp : s.trc.phase = .writeLead) :
    leaveLeader s = leaveLeaderToWrite (offStart s) := by
  unfold leaveLeader
  simp only [h, hp]
  rfl

/-- The entries that a write carries are the closed ones. -/
theorem closed_filter (l : List DirEntry) : (l.filter fun e => ¬ e.isOpen) = l.filter fun e => e.length.isSome := by
  refine List.filter_congr fun e _ => ?_
  cases h : e.length <;> simp [DirEntry.isOpen, h]

/-! ### The end sensor in forward motion (R12) -/

/-- The tape stopped at its end, before its command is let go. -/
def atEnd (u : State) : State :=
  (u.readCut.transportTo { u.trc.stops with
    endLatch := true, pausePoint := none, markDue := false, rewindDue := u.sto.options.autoRewind }).withSticky
      Sticky.tapeEnd.mask

theorem tapeEnd_eq (s : State) : tapeEnd s = beginClose .tapeEnd (completeHeld .failed .notReached (atEnd s)) := by
  unfold tapeEnd
  rw [cutRead_eq, stopTape_eq, State.readCut_trc]
  rfl

theorem tapeEnd_free {c : Clu} (hn : s.sch.session = none) (hc : s.letsGo .failed .notReached c) : tapeEnd s =
    { s.readCut.transportTo { s.trc.stops with
        held := none, endLatch := true, pausePoint := none, markDue := false, rewindDue := s.sto.options.autoRewind } with
      clu := { c with sticky := s.clu.sticky ||| Sticky.tapeEnd.mask } } := by
  have free : (atEnd s).sch.session = none := by
    rw [show (atEnd s).sch = s.readCut.sch from rfl, State.readCut_sch, hn]
  rw [tapeEnd_eq, completeHeld_letsGo_sticky (t := atEnd s) hc rfl (m := s.clu.sticky ||| Sticky.tapeEnd.mask) (by
    simp only [atEnd, State.withSticky, State.transportTo, State.readCut_clu]), beginClose_none (by exact free)]
  rfl

/-- A close that finds the tape braking into STOPPED waits for the rest (R156). -/
theorem beginClose_braking {u : State} {x : Session} (hx : u.sch.session = some x) (hs : x.state ≠ .closing)
    (hst : u.trc.state = .stopped) (hm : u.trc.atRestMark = true) (hh : u.trc.held = none) (r : EndReason) :
    beginClose r u = { u with
      trc := { u.trc with heldHalt := false, heldStart := none, heldPause := false, heldResume := none }
      sch := { u.sch with session := some { x with state := .closing, closeReason := some r } } } := by
  have free : ∀ w : State, w.trc.held = none → w.trc.state = .stopped → orderStop w = w := fun w hw hst => by
    simp [orderStop, State.holds, hw, hst, TState.isSession]
  have takes : u.trc.state.takesStop = true := by rw [hst]; rfl
  unfold beginClose
  rw [hx]
  refine (if_neg hs).trans ?_
  dsimp only
  refine (if_pos (by exact takes)).trans ?_
  rw [free _ (by exact hh) (by exact hst)]
  exact if_pos (by exact hm)

/-- A session that has reached the end in RECORD is closed, the tape braking (R12, R156). -/
theorem tapeEnd_records {x : Session} (h : s.trc.state = .record) (hx : s.sch.session = some x) (hs : x.state ≠ .closing)
    (hh : s.trc.held = none) : tapeEnd s =
      ({ s.transportTo { s.trc.stops with
          endLatch := true, pausePoint := none, markDue := false, rewindDue := s.sto.options.autoRewind
          heldHalt := false, heldStart := none, heldPause := false, heldResume := none } with
        sch := { s.sch with session := some { x with state := .closing, closeReason := some .tapeEnd } } } : State).withSticky
          Sticky.tapeEnd.mask := by
  have uncut : s.readCut = s := State.readCut_other (by rw [h]; decide)
  have session : (atEnd s).sch.session = some x := by rw [show (atEnd s).sch = s.readCut.sch from rfl, uncut, hx]
  have rests : (atEnd s).trc.atRestMark = true := by
    show (s.trc.atRestMark || s.trc.state.isMotion) = true
    rw [h]; exact Bool.or_true _
  rw [tapeEnd_eq, completeHeld_none _ _ _ (by exact hh), beginClose_braking session hs rfl rests (by exact hh)]
  unfold atEnd
  rw [uncut]
  rfl

/-! ### The dew sensor (R20) -/

theorem threaded_of_takesOrder (h : s.trc.takesOrder) : s.trc.state.isThreaded = true := by
  rcases h with h | h | h | h | h | h | h | h | h <;> rw [h] <;> rfl

theorem dewActs_unthreaded (h : s.trc.state = .empty ∨ s.trc.state = .fault) : dewActs s = s := by
  unfold dewActs
  rcases h with h | h <;> simp [h, TState.isThreaded, TState.isMotion]

theorem dewActs_rethreading (h : s.trc.state = .dewHold) (hp : s.trc.phase = .dewRethread) : dewActs s =
    { s with trc := { s.trc with phase := .dewUnthread, unthreadingLimit := some 8000, threadingLimit := none } } := by
  refine (if_neg (by rw [h]; decide)).trans ((if_pos ⟨h, hp⟩).trans rfl)

/-- DEW_HOLD from a tape that moves or brakes: unthreading waits for the rest (R20). -/
theorem beginDewHold_brakes {u : State} (h : (u.trc.atRestMark || u.trc.state.isMotion) = true) : beginDewHold u =
    u.transportTo { u.trc.restsIn .dewHold .dewBrake with
      atRestMark := true, locate := none, seek := none, pausePoint := none } := by
  unfold beginDewHold
  rw [enter_rest_eq rfl (by decide)]
  exact if_pos h

theorem beginDewHold_rests {u : State} (h : ¬ (u.trc.atRestMark || u.trc.state.isMotion) = true) : beginDewHold u =
    u.transportTo { u.trc.restsIn .dewHold .dewUnthread with
      unthreadingLimit := some 8000, locate := none, seek := none, pausePoint := none } := by
  unfold beginDewHold
  rw [enter_rest_eq rfl (by decide)]
  exact if_neg h

theorem beginDewHold_sch (u : State) : (beginDewHold u).sch = u.sch := by
  by_cases h : (u.trc.atRestMark || u.trc.state.isMotion) = true
  · rw [beginDewHold_brakes h]; rfl
  · rw [beginDewHold_rests h]; rfl

theorem dewActs_stops {c : Clu} (ht : s.trc.takesOrder) (hn : s.sch.session = none) (hc : s.letsGo .failed .dew c) :
    dewActs s = beginDewHold { s.readCut with clu := c, trc := { s.trc with held := none } } := by
  have goes : completeHeld .failed .dew s.readCut = { s.readCut with clu := c, trc := { s.trc with held := none } } := by
    rw [completeHeld_letsGo hc (by rw [State.readCut_trc]) (by rw [State.readCut_clu]), State.readCut_trc]
  refine (if_pos (threaded_of_takesOrder ht)).trans ?_
  unfold dewStop
  rw [cutRead_eq, goes]
  refine reportClose_none ?_ _
  rw [beginDewHold_sch]
  show s.readCut.sch.session = none
  rw [State.readCut_sch, hn]

end

/-- Settles O48. -/
theorem sensorsStopTheTape : Obligations.SensorsStopTheTape := by
  intro s start endOf dew
  refine ⟨?_, fun h => ⟨?_, ?_, ?_, ?_⟩, fun h => ?_, fun ha => ?_⟩
  · exact congrArg Host.Outcome.next (awake_same (s := endOf false) fun _ => if_neg (by simp))
  · refine congrArg Host.Outcome.next (awake_same (s := start true) fun ha => ?_)
    obtain ⟨h1, -, -⟩ := still_of (h.resolve_left (by rw [show s.asleep = false from ha]; decide))
    exact if_neg (by rw [show (start true).trc = s.trc from rfl, h1]; decide)
  · refine congrArg Host.Outcome.next (awake_same (s := start false) fun ha => ?_)
    obtain ⟨-, h1, -⟩ := still_of (h.resolve_left (by rw [show s.asleep = false from ha]; decide))
    exact if_neg (by rw [show (start false).trc = s.trc from rfl, h1]; decide)
  · refine congrArg Host.Outcome.next (awake_same (s := endOf true) fun ha => ?_)
    obtain ⟨-, h1, -⟩ := still_of (h.resolve_left (by rw [show s.asleep = false from ha]; decide))
    exact if_neg (by rw [show (endOf true).trc = s.trc from rfl, h1]; decide)
  · refine congrArg Host.Outcome.next (awake_same (s := dew false) fun ha => ?_)
    obtain ⟨-, -, h1⟩ := still_of (h.resolve_left (by rw [show s.asleep = false from ha]; decide))
    exact if_neg fun hd => h1 hd.1
  · refine congrArg Host.Outcome.next (awake_same (s := dew true) fun ha => ?_)
    exact dewActs_unthreaded (s := dew true) (h.resolve_left (by rw [show s.asleep = false from ha]; decide))
  have row (p : Pins) (f : State → State) : awake f { s with pins := p } = f { s with pins := p } := awake_apply_pins ha p f
  -- the start sensor becoming active in reverse motion, and inactive in forward motion
  have comes (h : s.trc.reverseMotion = true) : Machine.exec .startSensorActive s = .next (tapeStart (start true)) :=
    congrArg Host.Outcome.next ((row _ _).trans (if_pos h))
  have goes (h : s.trc.forwardMotion = true) : Machine.exec .startSensorInactive s = .next (leaveLeader (start false)) :=
    congrArg Host.Outcome.next ((row _ _).trans (if_pos h))
  have ends (h : s.trc.forwardMotion = true) : Machine.exec (.endSensorActive true) s = .next (tapeEnd (endOf true)) :=
    congrArg Host.Outcome.next ((row _ _).trans (if_pos ⟨rfl, h⟩))
  refine ⟨fun c h hc => ?_, fun h hp hn => ?_, fun h hp => ?_, fun h => ?_, fun h => ?_, fun h hp => ?_, fun h hp hl => ?_,
    fun c h hp hl hc => ?_, fun c h hn hc => ?_, fun x h hx hs hh => ?_, fun c h hn hc => ?_, fun h => ⟨fun hp => ?_, fun hp => ?_⟩⟩
  · refine (comes ?_).trans (congrArg Host.Outcome.next ((tapeStart_stops (s := start true) h).trans ?_))
    · rcases h with h | h <;> simp [Trc.reverseMotion, Trc.forwardMotion, TState.isMotion, h]
    · exact completeHeld_letsGo_sticky hc rfl rfl
  · refine (comes ?_).trans (congrArg Host.Outcome.next ((tapeStart_lockup (s := start true) h hn).trans rfl))
    simp [Trc.reverseMotion, Trc.forwardMotion, TState.isMotion, h, hp]
  · refine (comes ?_).trans (congrArg Host.Outcome.next ((tapeStart_dirWrite (s := start true) h).trans rfl))
    simp [Trc.reverseMotion, Trc.forwardMotion, TState.isMotion, h, hp]
  · refine (goes ?_).trans (congrArg Host.Outcome.next (leaveLeader_plain (s := start false) h))
    rcases h with h | h | h | h <;> simp [Trc.forwardMotion, h]
  · refine (goes ?_).trans (congrArg Host.Outcome.next ((leaveLeader_dirRead (s := start false) h).trans ?_))
    · simp [Trc.forwardMotion, h]
    · unfold startBlankTest
      cases hb : s.dir.blankTested with
      | true => exact (if_pos hb).trans rfl
      | false => exact (if_neg (by rw [show (startReadLock (offStart (start false))).dir.blankTested = s.dir.blankTested from rfl, hb]; decide)).trans rfl
  · refine (goes ?_).trans (congrArg Host.Outcome.next ((leaveLeader_lockup (s := start false) h hp).trans rfl))
    simp [Trc.forwardMotion, h, hp]
  · refine (goes ?_).trans (congrArg Host.Outcome.next ((leaveLeader_dirWrite (s := start false) h hp).trans ((if_pos hl).trans ?_)))
    · simp [Trc.forwardMotion, h, hp]
    · rw [← closed_filter]
      rfl
  · refine (goes ?_).trans (congrArg Host.Outcome.next ((leaveLeader_dirWrite (s := start false) h hp).trans ((if_neg ?_).trans ?_)))
    · simp [Trc.forwardMotion, h, hp]
    · rw [show (offStart (start false)).trc = s.trc from rfl, hl]; decide
    · exact completeHeld_letsGo hc rfl rfl
  · refine (ends ?_).trans (congrArg Host.Outcome.next (tapeEnd_free (s := endOf true) hn hc))
    rcases h with h | h | h | h <;> simp [Trc.forwardMotion, h]
  · refine (ends ?_).trans (congrArg Host.Outcome.next (tapeEnd_records (s := endOf true) h hx hs hh))
    simp [Trc.forwardMotion, h]
  · intro holds
    refine congrArg Host.Outcome.next ((row _ _).trans ((dewActs_stops (s := dew true) h hn hc).trans ?_))
    by_cases hb : (s.trc.atRestMark || s.trc.state.isMotion) = true
    · rw [if_pos hb]
      exact beginDewHold_brakes (by exact hb)
    · rw [if_neg hb]
      exact beginDewHold_rests (by exact hb)
  · exact congrArg Host.Outcome.next ((row _ _).trans (dewActs_rethreading (s := dew true) h hp))
  · exact congrArg Host.Outcome.next ((row _ _).trans ((if_pos ⟨h, hp⟩).trans rfl))

end Sys2Proof.Proofs.Sensors
end

section
/-! PROOFS. Control pulses and reel pulses: the counters, the written end, the periods and the remaining-tape estimate
(R10, R15 to R17, R26 to R31, R38 to R44, R55, R153). -/

namespace Sys2Proof.Proofs.Pulses
open Sys2Proof.Machine
open Sys2Proof.Proofs.RunOuts

section
variable {s : State}

/-! ### One control pulse (R26 to R31) -/

/-- A count kept within ±n. -/
def clamp (n x : Int) : Int := max (-n) (min n x)

/-- The counter block after a pulse, as the rules count it. -/
def counted (t : Tcb) (dir : Direction) (mark : Bool) : Tcb :=
  let step : Int := match dir with | .forward => 1 | .reverse => -1
  { t with
    relCounter := clamp 899999 (t.relCounter + step)
    absPos := if t.exact then (match dir with | .forward => min 899999 (t.absPos + 1) | .reverse => t.absPos - 1) else t.absPos
    pulseSinceExact := t.exact || t.pulseSinceExact
    indexCount := if mark then clamp 99999 (t.indexCount + step) else t.indexCount
    blankFlag := false
    blankTimer := if t.steadyOpen then some 1000 else none }

theorem Tcb_pulse_eq {t : Tcb} (h : t.absPos ≤ 899999) (dir : Direction) (mark : Bool) : t.pulse dir mark = counted t dir mark := by
  have up : (if t.absPos < frameLimit then t.absPos + 1 else t.absPos) = min 899999 (t.absPos + 1) := by
    simp only [frameLimit]
    split <;> omega
  cases dir
  · simp only [Tcb.pulse, counted, clampInt_eq, stepOf, stepAbs, up]
    rfl
  · simp only [Tcb.pulse, counted, clampInt_eq, stepOf, stepAbs]
    rfl

/-- The state after a pulse that nothing waits for. -/
def pulsed (s : State) (dir : Direction) (mark : Bool) : State :=
  { s with tcb := counted s.tcb dir mark, dir := { s.dir with blankTest := none } }

theorem countPulse_plain (hp : s.tcb.absPos ≤ 899999) (h : s.trc.state ≠ .record) (dir : Direction) {marked mark : Bool}
    (hm : s.pulseMark marked = mark) : countPulse dir marked s = pulsed s dir mark := by
  unfold countPulse
  rw [hm, Tcb_pulse_eq hp]
  exact if_neg h

theorem pulseMark_follows (h : s.trc.writing = false) (marked : Bool) : s.pulseMark marked = marked :=
  if_neg (by rw [h]; exact Bool.false_ne_true)

/-- In RECORD the pulse written carries the mark that is due, and moves the written end up (R15, R55). -/
theorem countPulse_record (hp : s.tcb.absPos ≤ 899999) (h : s.trc.state = .record) (dir : Direction) (marked : Bool) :
    countPulse dir marked s =
      { pulsed s dir s.trc.markDue with
        trc := { s.trc with markDue := false }
        dir := { s.dir with
          blankTest := none
          range := s.dir.range.map fun r =>
            if s.tcb.exact then { r with writtenEnd := max r.writtenEnd (counted s.tcb dir false).absPos } else r } } := by
  have mark : s.pulseMark marked = s.trc.markDue := by simp [State.pulseMark, Trc.writing, h]
  unfold countPulse
  rw [mark, Tcb_pulse_eq hp]
  refine (if_pos h).trans ?_
  unfold followWriting
  have position : (counted s.tcb dir s.trc.markDue).absPos = (counted s.tcb dir false).absPos := rfl
  cases hr : s.dir.range with
  | none =>
    simp only [State.setTrc, State.setDir, State.setTcb, hr, Option.map_none]
    rw [← hr]
    rfl
  | some r =>
    simp only [State.setTrc, State.setDir, State.setTcb, hr, Option.map_some, position]
    cases he : s.tcb.exact with
    | false =>
      refine (if_neg (by rw [show (counted s.tcb dir s.trc.markDue).exact = s.tcb.exact from rfl, he]; simp)).trans ?_
      rw [if_neg Bool.false_ne_true, ← hr]
      rfl
    | true =>
      rw [if_pos rfl]
      by_cases hw : r.writtenEnd < (counted s.tcb dir false).absPos
      · refine (if_pos ⟨he, hw⟩).trans ?_
        rw [Nat.max_eq_right (Nat.le_of_lt hw)]
        rfl
      · refine (if_neg (fun h' => hw h'.2)).trans ?_
        rw [Nat.max_eq_left (Nat.le_of_not_lt hw), ← hr]
        rfl

/-! ### What a state does with its pulse -/

theorem controlPulse_plain (h : s.trc.state = .play ∨ s.trc.state = .stopped ∨ s.trc.state = .windFwd ∨ s.trc.state = .windBack ∨
    s.trc.state = .searchFwd ∨ s.trc.state = .searchBack) (dir : Direction) (mark : Bool) :
    controlPulse dir mark s = countPulse dir mark s := by
  rcases h with h | h | h | h | h | h <;> simp only [controlPulse, h]

theorem controlPulse_locate (h : s.trc.state = .locate) (dir : Direction) (mark : Bool) :
    controlPulse dir mark s = locatePulse mark (countPulse dir mark s) := by simp only [controlPulse, h]

theorem controlPulse_lockup (h : s.trc.state = .lockup) (dir : Direction) (mark : Bool) :
    controlPulse dir mark s = lockupPulse (countPulse dir mark s) := by simp only [controlPulse, h]

theorem controlPulse_record (h : s.trc.state = .record) (dir : Direction) (mark : Bool) :
    controlPulse dir mark s = takeHeldPause (countPulse dir mark s) := by simp only [controlPulse, h]

theorem locatePulse_counter {l : LocateTarget} (h : s.trc.state = .locate) (hp : s.trc.phase = .wind)
    (hl : s.trc.locate = some l) (hk : l.kind = .counter) (mark : Bool) : locatePulse mark s =
      if l.target = some s.tcb.relCounter then targetReached l s else s := by
  have uncounted : countMark mark s = s := by
    unfold countMark
    rw [hl]
    exact if_neg fun h' => by simp [hk] at h'
  unfold locatePulse
  rw [uncounted]
  dsimp only
  rw [hl]
  refine if_congr ?_ rfl rfl
  simp [State.targetStands, h, hp, hk]

theorem locatePulse_index {l : LocateTarget} (hl : s.trc.locate = some l) (hk : l.kind = .index) (hr : 2 ≤ l.remaining) :
    locatePulse true s = { s with trc := { s.trc with locate := some { l with remaining := l.remaining - 1 } } } := by
  have counts : countMark true s = { s with trc := { s.trc with locate := some { l with remaining := l.remaining - 1 } } } := by
    unfold countMark
    rw [hl]
    exact if_pos ⟨rfl, hk⟩
  unfold locatePulse
  rw [counts]
  refine if_neg ?_
  have more : l.remaining - 1 ≠ 0 := by omega
  simp [State.targetStands, hk, more]

/-- A pause order kept in RECORD is taken with the pulse of its frame (log 67). -/
theorem enterRecordPause_eq (s : State) : enterRecordPause s = s.transportTo
    { s.trc.restsIn .recordPause .idle with
      pausePoint := some s.tcb.relCounter, pauseTimer := some 300000, heldPause := false, heldResume := none } := by
  unfold enterRecordPause
  rw [enter_rest_eq rfl (by decide)]
  rfl

theorem orderResume_paused (h : s.trc.state = .recordPause) (speed : Speed) : orderResume speed s = s.transportTo
    { s.trc.movesInto .lockup .backspace with orderedSpeed := speed, orderedIndex := false, backspaceCount := 0 } := by
  refine (if_pos h).trans ?_
  unfold beginBackspace
  rw [beginMotion_eq rfl (by decide)]
  rfl

theorem lockupPulse_lock (h : s.trc.phase = .lock) : lockupPulse s = s := by simp only [lockupPulse, h]

theorem lockupPulse_reserve (h : s.trc.phase = .reserve) (hp : s.tcb.absPos < 75) : lockupPulse s = s := by
  simp only [lockupPulse, h]
  exact if_neg (by simp [State.reserveDone]; omega)

theorem lockupPulse_backspace (h : s.trc.phase = .backspace) (hc : s.trc.backspaceCount < 49) : lockupPulse s =
    { s with trc := { s.trc with backspaceCount := s.trc.backspaceCount + 1 } } := by
  have short : ¬ 50 ≤ s.trc.backspaceCount + 1 := by omega
  unfold lockupPulse
  split
  · next h' => rw [h] at h'; exact absurd h' (by decide)
  · exact if_neg short
  · next h' => rw [h] at h'; exact absurd h' (by decide)
  · next h' _ => exact absurd h h'

theorem lockupPulse_forwardRun (h : s.trc.phase = .forwardRun) (hc : 2 ≤ s.trc.backspaceCount) : lockupPulse s =
    { s with trc := { s.trc with backspaceCount := s.trc.backspaceCount - 1 } } := by
  have more : ¬ s.trc.backspaceCount - 1 = 0 := by omega
  unfold lockupPulse
  split
  · next h' => rw [h] at h'; exact absurd h' (by decide)
  · next h' => rw [h] at h'; exact absurd h' (by decide)
  · exact if_neg more
  · next _ h' => exact absurd h h'

theorem takeHeldPause_none (h : s.trc.heldPause = false) : takeHeldPause s = s :=
  if_neg (by rw [h]; exact Bool.false_ne_true)

theorem takeHeldPause_pauses (h : s.trc.heldPause = true) (hr : s.trc.heldResume = none) :
    takeHeldPause s = enterRecordPause s := by
  refine (if_pos h).trans ?_
  rw [hr]

theorem takeHeldPause_resumes (h : s.trc.heldPause = true) {speed : Speed} (hr : s.trc.heldResume = some speed) :
    takeHeldPause s = orderResume speed (enterRecordPause s) := by
  refine (if_pos h).trans ?_
  rw [hr]

/-! ### The reels (R21, R38 to R44) -/

theorem restartWatch_eq (t : Timer) : restartWatch t = t.map fun _ => 4096 := by
  cases t <;> rfl

/-- A take-up pulse restarts its watch; in the window its period is taken, and measured (R21, R38, R39). -/
theorem takeUpPulse_eq (ms : Nat) (s : State) : takeUpPulse ms s =
    (let w : State := { s with
       trc := { s.trc with takeUpWatch := s.trc.takeUpWatch.map fun _ => 4096 }, tcb := s.tcb.takeUpPulse ms }
     if w.tcb.steadyOpen then (match w.tcb.measure with | some e => takeMeasurement e w | none => w) else w) := by
  unfold takeUpPulse
  rw [restartWatch_eq]
  rfl

theorem takeUpPulse_closed {t : Tcb} (h : t.steadyOpen = false) (ms : Nat) : t.takeUpPulse ms = t :=
  if_neg (by rw [h]; exact Bool.false_ne_true)

theorem takeUpPulse_open {t : Tcb} (h : t.steadyOpen = true) (ms : Nat) : t.takeUpPulse ms =
    { t with takeUpPeriod := if t.takeUpSeen then some ms else none, takeUpSeen := true } := if_pos h

/-- A period that can be measured. -/
abbrev Usable (p : Nat) : Prop := 1 ≤ p ∧ p ≤ 4095

theorem periodUsable_iff (p : Nat) : periodUsable p = true ↔ Usable p := by simp [periodUsable]

/-- A measurement that R39 skips. -/
theorem measure_skipped {t : Tcb} {ms : Nat} (ht : t.takeUpPeriod = some ms)
    (h : t.supplyPeriod = none ∨ ¬ Usable ms ∨ (∃ ps, t.supplyPeriod = some ps ∧ ¬ Usable ps) ∨
      (t.profiles.getD t.selected Profile.empty).valid = false) : t.measure = none := by
  unfold Tcb.measure
  rw [ht]
  cases hs : t.supplyPeriod with
  | none => rfl
  | some ps =>
    refine if_neg ?_
    simp only [Bool.and_eq_true, periodUsable_iff]
    rintro ⟨⟨h1, h2⟩, h3⟩
    rcases h with h | h | ⟨p, hp, h⟩ | h
    · rw [hs] at h; exact absurd h (by simp)
    · exact h h2
    · rw [hs, Option.some_inj] at hp
      exact h (hp ▸ h1)
    · rw [h] at h3; exact Bool.false_ne_true h3

theorem measure_taken {t : Tcb} {ps ms : Nat} (ht : t.takeUpPeriod = some ms) (hs : t.supplyPeriod = some ps) (h1 : Usable ps)
    (h2 : Usable ms) (h3 : (t.profiles.getD t.selected Profile.empty).valid = true) :
    t.measure = some (interpolate (t.profiles.getD t.selected Profile.empty).points (1024 * ms / (ps + ms))) := by
  unfold Tcb.measure
  rw [ht, hs]
  exact if_pos (by rw [(periodUsable_iff ps).2 h1, (periodUsable_iff ms).2 h2, h3]; rfl)

/-! ### The estimate (R42 to R44, R153) -/

/-- The near-end test of fewer than eight values leaves the mark clear. -/
theorem nearEndTested_few (h : s.tcb.history.length < 8) (hn : s.tcb.nearEnd = false) : s.nearEndTested = s := by
  have no : ∀ v, nearEndAt s.tcb.history v = false := fun v => by
    simp only [nearEndAt, show ¬ 8 ≤ s.tcb.history.length by omega, false_and, decide_false]
  simp only [State.nearEndTested, no, Bool.false_and, Bool.false_eq_true, if_false]
  rw [← hn]

/-- A second near-end test finds what the first one left. -/
theorem nearEndTested_again {u : State} (h : u.tcb.nearEnd = nearEndAt u.tcb.history u.speedInForce) : u.nearEndTested = u := by
  have off : (u.tcb.nearEnd && !u.tcb.nearEnd) = false := Bool.and_not_self _
  simp only [State.nearEndTested, ← h, off, Bool.false_eq_true, if_false]

theorem estimateUpdate_partly (h0 : s.tcb.history ≠ []) (h : s.tcb.history.length < 8) : estimateUpdate s = s := by
  have some_ : s.tcb.history.length ≠ 0 := fun h => h0 (List.length_eq_zero_iff.1 h)
  have status : estimateStatus s.tcb.history = .partly := (if_neg some_).trans (if_pos h)
  simp only [estimateUpdate, status]

theorem estimateUpdate_settled (h : s.tcb.history.length = 8) : estimateUpdate s =
    autoSwitch (s.tcb.history.sum / 8) { s with sch := { s.sch with settledFigure := some (s.tcb.history.sum / 8) } } := by
  have status : estimateStatus s.tcb.history = .settled := (if_neg (by omega)).trans (if_neg (by omega))
  simp only [estimateUpdate, status, estimateOf, h]
  rfl

/-- The figure falls short of the frames still needed (R153). -/
abbrev Short (s : State) (m : Nat) (x : Session) : Prop :=
  ∃ start stop, x.occurrence = some (start, stop) ∧ m < (stop * 60 - s.clk.now.seconds) * 25

/-- An ACTIVE AUTO session at speed 1 that has not switched. -/
abbrev Auto (x : Session) : Prop := x.state = .active ∧ x.autoMark = true ∧ x.currentSpeed = .one ∧ x.switched = false

theorem framesNeeded_early {stop : Nat} (h : stop < 36525 * 1440) : s.framesNeeded stop = (stop * 60 - s.clk.now.seconds) * 25 := by
  simp only [State.framesNeeded, minuteSeen_early _ h, State.nowSeconds]

theorem autoSwitch_stays {m : Nat} (hocc : ∀ x ∈ s.sch.session, ∀ o ∈ x.occurrence, o.2 < 36525 * 1440)
    (h : ∀ x ∈ s.sch.session, ¬ (Auto x ∧ Short s m x)) : autoSwitch m s = s := by
  unfold autoSwitch
  cases hx : s.sch.session with
  | none => rfl
  | some x =>
    dsimp only
    cases ho : x.occurrence with
    | none => rfl
    | some o =>
      obtain ⟨start, stop⟩ := o
      refine if_neg ?_
      rintro ⟨h1, h2, h3, h4, h5⟩
      rw [framesNeeded_early (hocc x hx (start, stop) ho)] at h5
      exact h x hx ⟨⟨h1, h2, h3, by simpa using h4⟩, start, stop, ho, h5⟩

theorem autoSwitch_switches {m : Nat} {x : Session} (hx : s.sch.session = some x)
    (hocc : ∀ o ∈ x.occurrence, o.2 < 36525 * 1440) (ha : Auto x) (hs : Short s m x) (hst : s.trc.state = .record)
    (hp : s.trc.heldPause = false) : autoSwitch m s = { s.transportTo
      { s.trc.movesInto .lockup .backspace with
        supplyWatch := some 4096, takeUpWatch := some 4096, pausePoint := some s.tcb.relCounter
        orderedSpeed := .two, orderedIndex := false, backspaceCount := 0, heldPause := false, heldResume := none } with
      sch := { s.sch with session := some { x with switched := true, currentSpeed := .two } } } := by
  obtain ⟨start, stop, ho, hm⟩ := hs
  obtain ⟨h1, h2, h3, h4⟩ := ha
  have short : m < s.framesNeeded stop := by rw [framesNeeded_early (hocc (start, stop) ho)]; exact hm
  have pauses : ∀ u : State, u.trc.state = .record → u.trc.heldPause = false → orderPause u = enterRecordPause u :=
    fun u hu hup => (if_neg (by simp [hu, hup])).trans (if_pos hu)
  have switches : autoSwitch m s =
      orderResume .two (orderPause (modSession (fun y => { y with switched := true, currentSpeed := .two }) s)) := by
    unfold autoSwitch
    simp only [hx, ho]
    exact if_pos ⟨h1, h2, h3, by simp [h4], short⟩
  rw [switches, modSession_some hx, pauses _ (by exact hst) (by exact hp), enterRecordPause_eq, orderResume_paused (by rfl)]
  rfl

/-! ### A measurement joins the history (R42) -/

theorem takeMeasurement_few (h : s.tcb.history.length < 7) (hn : s.tcb.nearEnd = false) (e : Nat) : takeMeasurement e s =
    { s with tcb := { s.tcb with history := s.tcb.history ++ [e] } } := by
  have joined : appendHistory s.tcb.history e = s.tcb.history ++ [e] := if_pos (by omega)
  have few : (s.tcb.history ++ [e]).length < 8 := by rw [List.length_append]; exact Nat.succ_lt_succ h
  have same := nearEndTested_few (s := { s with tcb := { s.tcb with history := s.tcb.history ++ [e] } }) few hn
  unfold takeMeasurement
  rw [joined, evalNearEnd_eq, evalNearEnd_eq]
  refine (congrArg (fun u => (estimateUpdate u).nearEndTested) same).trans ?_
  dsimp only
  rw [estimateUpdate_partly (by simp) few, same]

theorem takeMeasurement_eighth {e1 : Nat} {rest : List Nat} (h : s.tcb.history = e1 :: rest) (hl : rest.length = 7) (e : Nat) :
    takeMeasurement e s = (autoSwitch ((rest ++ [e]).sum / 8)
      { State.nearEndTested { s with tcb := { s.tcb with history := rest ++ [e] } } with
        sch := { s.sch with settledFigure := some ((rest ++ [e]).sum / 8) } }).nearEndTested := by
  have joined : appendHistory s.tcb.history e = rest ++ [e] := by
    rw [h]
    refine (if_neg (by simp [hl])).trans ?_
    simp [hl]
  unfold takeMeasurement
  rw [joined, evalNearEnd_eq, evalNearEnd_eq]
  refine congrArg State.nearEndTested (estimateUpdate_settled (s := State.nearEndTested _) ?_)
  show (rest ++ [e]).length = 8
  simp [hl]

/-- What a take-up pulse in the window comes to. -/
theorem takeUpPulse_measured {t : Tcb} {ms : Nat} (ho : t.steadyOpen = true) (ht : s.tcb.takeUpPulse ms = t) :
    takeUpPulse ms s = match t.measure with
      | some e => takeMeasurement e
          { s with trc := { s.trc with takeUpWatch := s.trc.takeUpWatch.map fun _ => 4096 }, tcb := t }
      | none => { s with trc := { s.trc with takeUpWatch := s.trc.takeUpWatch.map fun _ => 4096 }, tcb := t } := by
  rw [takeUpPulse_eq, ht]
  exact if_pos ho

end

/-- Settles O49. -/
theorem pulsesCountAndMeasure : Obligations.PulsesCountAndMeasure := by
  intro s ha clamp_ counted_ pulse restarted
  have row (f : State → State) : awake f s = f s := awake_apply ha f
  refine ⟨fun dir mark hp => ?_, fun ms => ?_, fun ms => ?_⟩
  · -- a pulse that its state takes
    have counts (h : s.trc.state ≠ .record) {m : Bool} (hm : s.pulseMark mark = m) : countPulse dir mark s = pulse dir m :=
      countPulse_plain hp h dir hm
    have stated {v : State} (hv : controlPulse dir mark s = v) : Machine.exec (.controlPulse dir mark) s = .next v :=
      congrArg Host.Outcome.next ((row _).trans hv)
    refine ⟨fun h => stated ?_, fun h hph l hl hk => ⟨fun ht => stated ?_, fun c ht hc => stated ?_⟩,
      fun h hph l hl hk hr => ?_, fun h => ?_, fun h hph => stated ?_, fun h hph habs => stated ?_, fun h hph hn => stated ?_,
      fun h hph hn => stated ?_⟩
    · have unwritten : s.trc.writing = false := by rcases h with h | h | h | h | h | h <;> simp [Trc.writing, h]
      have plain : s.trc.state ≠ .record := by rcases h with h | h | h | h | h | h <;> simp [h]
      exact (controlPulse_plain h dir mark).trans (counts plain (pulseMark_follows unwritten mark))
    · rw [controlPulse_locate h, counts (by simp [h]) (pulseMark_follows (by simp [Trc.writing, h]) mark)]
      exact (locatePulse_counter (s := pulse dir mark) h hph hl hk mark).trans (if_neg ht)
    · rw [controlPulse_locate h, counts (by simp [h]) (pulseMark_follows (by simp [Trc.writing, h]) mark)]
      refine (locatePulse_counter (s := pulse dir mark) h hph hl hk mark).trans ((if_pos ht).trans ?_)
      unfold targetReached
      rw [takeEndAction_eq]
      have acts : (pulse dir mark).endAction l.endAction = (pulse dir mark).transportTo (s.trc.endsWith l.endAction) := by
        have moving : ¬ s.trc.state = .play ∧ ¬ s.trc.state = .playPause := by simp [h]
        cases l.endAction with
        | stop => rfl
        | play => exact (if_neg moving.1).trans (if_neg moving.2)
      rw [acts]
      refine completeHeld_letsGo hc ?_ rfl
      cases l.endAction <;> rfl
    · refine congrArg Host.Outcome.next ((row _).trans ?_)
      rw [controlPulse_locate h, countPulse_plain hp (by simp [h]) dir (pulseMark_follows (by simp [Trc.writing, h]) true)]
      exact locatePulse_index (s := pulse dir true) hl hk hr
    · intro written paused
      have writes : countPulse dir mark s = written := countPulse_record hp h dir mark
      refine ⟨fun hh => stated ?_, fun hh hr => stated ?_, fun speed hh hr => stated ?_⟩
      · rw [controlPulse_record h, writes]
        exact takeHeldPause_none hh
      · rw [controlPulse_record h, writes, takeHeldPause_pauses (s := written) hh hr, enterRecordPause_eq]
      · rw [controlPulse_record h, writes, takeHeldPause_resumes (s := written) hh hr, enterRecordPause_eq]
        exact orderResume_paused (s := paused) rfl speed
    · rw [controlPulse_lockup h, counts (by simp [h]) (pulseMark_follows (by simp [Trc.writing, h, hph]) mark)]
      exact lockupPulse_lock hph
    · rw [controlPulse_lockup h, counts (by simp [h]) (show s.pulseMark mark = false by simp [State.pulseMark, Trc.writing, h, hph])]
      exact lockupPulse_reserve hph habs
    · rw [controlPulse_lockup h, counts (by simp [h]) (pulseMark_follows (by simp [Trc.writing, h, hph]) mark)]
      exact lockupPulse_backspace hph hn
    · rw [controlPulse_lockup h, counts (by simp [h]) (pulseMark_follows (by simp [Trc.writing, h, hph]) mark)]
      exact lockupPulse_forwardRun hph hn
  · refine congrArg Host.Outcome.next ((row _).trans ?_)
    rw [Tcb.supplyPulse_eq, restartWatch_eq]
    rfl
  · intro watched
    have stated {v : State} (hv : takeUpPulse ms s = v) : Machine.exec (.takeUpReelPulse ms) s = .next v :=
      congrArg Host.Outcome.next ((row _).trans hv)
    refine ⟨fun ho => stated ?_, fun ho hseen => stated ?_, fun ho hseen => ?_⟩
    · rw [takeUpPulse_eq, takeUpPulse_closed ho]
      exact if_neg (by rw [ho]; exact Bool.false_ne_true)
    · rw [takeUpPulse_measured (t := { s.tcb with takeUpPeriod := none, takeUpSeen := true }) ho (by
        rw [takeUpPulse_open ho, hseen]; rfl)]
      have skipped : Tcb.measure { s.tcb with takeUpPeriod := none, takeUpSeen := true } = none := by
        unfold Tcb.measure
        cases s.tcb.supplyPeriod <;> rfl
      rw [skipped]
    · intro timed usable profile
      have measured := takeUpPulse_measured (s := s) (t := timed) (ms := ms) ho (by
        rw [takeUpPulse_open ho, hseen, if_pos rfl, ← hseen])
      have taken {ps : Nat} (hs : s.tcb.supplyPeriod = some ps) (h1 : usable ps) (h2 : usable ms) (h3 : profile.valid = true) :
          takeUpPulse ms s = takeMeasurement (interpolate profile.points (1024 * ms / (ps + ms))) { watched with tcb := timed } := by
        rw [measured, measure_taken (t := timed) rfl hs h1 h2 h3]; rfl
      refine ⟨fun h => stated ?_, fun ps hs h1 h2 h3 hlen hn => stated ?_, fun ps e1 rest hs h1 h2 h3 hh hl => ?_⟩
      · rw [measured, measure_skipped (t := timed) rfl h]
      · exact (taken hs h1 h2 h3).trans (takeMeasurement_few (s := { watched with tcb := timed }) hlen hn _)
      · intro history figure settled short auto hocc
        have eighth := (taken hs h1 h2 h3).trans (takeMeasurement_eighth (s := { watched with tcb := timed }) hh hl _)
        refine ⟨fun hno => stated (eighth.trans ?_), fun x hx ha hs hrec hpause => stated (eighth.trans ?_)⟩
        · refine (congrArg State.nearEndTested (autoSwitch_stays (s := settled) hocc hno)).trans ?_
          exact nearEndTested_again rfl
        · exact congrArg State.nearEndTested (autoSwitch_switches (s := settled) hx (hocc x hx) ha hs hrec hpause)

end Sys2Proof.Proofs.Pulses
end

section
/-! PROOFS. The faults of the transport: limits, stalls, switches and upsets (R1, R2, R19 to R23). -/

namespace Sys2Proof.Proofs.Faults
open Sys2Proof.Machine
open Sys2Proof.Proofs.Sensors

section
variable {s : State} {o : ReplyOutcome} {r : Reason} {c : Clu}

/-- The cut looks at no switch. -/
theorem readCut_withPins (s : State) (p : Pins) : State.readCut { s with pins := p } = { s.readCut with pins := p } := by
  by_cases hd : s.trc.state = .dirRead <;> simp [State.readCut, hd]

/-- The command held is let go of whatever events have been raised. -/
theorem letsGo_withSticky (h : s.letsGo o r c) (m : BitVec 18) :
    (s.withSticky m).letsGo o r { c with sticky := s.clu.sticky ||| m } := by
  obtain ⟨h1, rfl⟩ | ⟨f, h1, h2, rfl⟩ := h
  · exact .inl ⟨h1, rfl⟩
  · exact .inr ⟨f, h1, h2, rfl⟩

/-- A row whose limit runs. -/
theorem whenRunning_runs {t : Timer} (h : t.isSome) (f : State → State) (u : State) : whenRunning t f u = f u := if_pos h

theorem whenRunning_idle {t : Timer} (h : t = none) (f : State → State) (u : State) : whenRunning t f u = u := by
  rw [h]; rfl

/-- A fault at a switch whose new position is noted already. -/
theorem faultWith_pins (hn : s.sch.session = none) (hc : s.letsGo o r c) (p : Pins) : faultWith o r { s with pins := p } =
    { s.readCut.transportTo { s.trc.faults with held := none } with clu := c, pins := p } := by
  rw [faultWith_eq (s := { s with pins := p }) hn hc, readCut_withPins]
  rfl

theorem threadedMoves_opens (h : s.trc.takesOrder) : threadedMoves false s = faultWith .failed .fault s :=
  (if_neg Bool.false_ne_true).trans (if_pos (threaded_of_takesOrder h))

/-- A cassette that leaves its place in a threaded state or in LOADING. -/
theorem cassetteMoves_leaves (h : s.trc.takesOrder ∨ s.trc.state = .loading) {pos : CassettePos} (hp : pos ≠ .home) :
    cassetteMoves .home pos s = faultWith .failed .fault s := by
  have acts : ∀ st : TState, s.trc.state = st → st ≠ .empty → st ≠ .ejected → st ≠ .unloading →
      cassetteMoves .home pos s = faultWith .failed .fault s := by
    intro st hst h1 h2 h3
    unfold cassetteMoves
    split
    · next h => exact absurd (hst.symm.trans h) h1
    · next h => exact absurd (hst.symm.trans h) h2
    · next h => exact absurd (hst.symm.trans h) h2
    · next h _ => exact absurd (hst.symm.trans h) h1
    · next h _ _ => exact absurd (hst.symm.trans h) h2
    · refine (if_neg fun h => h3 (hst.symm.trans h.1)).trans (if_pos ⟨rfl, hp⟩)
  rcases h with h | h
  · rcases h with h | h | h | h | h | h | h | h | h <;> exact acts _ h (by decide) (by decide) (by decide)
  · exact acts _ h (by decide) (by decide) (by decide)

end

/-- Settles O51. -/
theorem faultsStopTheTransport : Obligations.FaultsStopTheTransport := by
  intro s ha faulted
  have row (f : State → State) : awake f s = f s := awake_apply ha f
  have pinned (p : Pins) (f : State → State) : awake f { s with pins := p } = f { s with pins := p } := awake_apply_pins ha p f
  have runs {t : Timer} (h : t.isSome) (f : State → State) : awake (whenRunning t f) s = f s :=
    (row _).trans (whenRunning_runs h f s)
  have idles {t : Timer} (h : t = none) (f : State → State) : awake (whenRunning t f) s = s :=
    (row _).trans (whenRunning_idle h f s)
  refine ⟨fun c hn hc => ?_, fun c hn hc => ⟨fun h => ?_, fun h => ?_⟩, fun c hn hc => ?_, ?_, fun h => ?_, fun h => ?_, fun h => ?_,
    fun h => ?_, fun h => ?_⟩
  · refine ⟨fun h => ?_, fun h => ?_, fun h => ?_, fun h => ?_, fun h hhome pos hpos => ?_⟩
    · exact congrArg Host.Outcome.next ((runs h _).trans (faultWith_eq hn hc))
    · exact congrArg Host.Outcome.next ((runs h _).trans (faultWith_eq hn hc))
    · exact congrArg Host.Outcome.next ((runs h _).trans (faultWith_eq hn hc))
    · exact congrArg Host.Outcome.next ((pinned _ _).trans
        ((threadedMoves_opens (s := { s with pins := { s.pins with threaded := false } }) h).trans (faultWith_pins hn hc _)))
    · refine congrArg Host.Outcome.next ((pinned _ _).trans ?_)
      rw [hhome]
      exact (cassetteMoves_leaves (s := { s with pins := { s.pins with cassette := pos } }) h hpos).trans (faultWith_pins hn hc _)
  · exact congrArg Host.Outcome.next ((runs h _).trans (faultWith_eq hn hc))
  · exact congrArg Host.Outcome.next ((runs h _).trans (faultWith_eq hn hc))
  · refine congrArg Host.Outcome.next ((row _).trans ?_)
    refine (faultWith_eq (s := s.withSticky Sticky.stateAbort.mask) hn (letsGo_withSticky hc _)).trans ?_
    rw [show s.withSticky Sticky.stateAbort.mask = { s with clu := { s.clu with sticky := s.clu.sticky ||| Sticky.stateAbort.mask } }
      from rfl, State.readCut_withClu]
    rfl
  · exact congrArg Host.Outcome.next (row _)
  · exact congrArg Host.Outcome.next (idles h _)
  · exact congrArg Host.Outcome.next (idles h _)
  · exact congrArg Host.Outcome.next (idles h _)
  · exact congrArg Host.Outcome.next (idles h _)
  · exact congrArg Host.Outcome.next (idles h _)

end Sys2Proof.Proofs.Faults
end

section
/-! PROOFS. The servo and the motors: LOCKED, motion-steady and at rest, and the first frame of a session (R4, R6 to R9, R13,
R15, R38, R54, R150, R165). -/

namespace Sys2Proof.Proofs.ServoMotors
open Sys2Proof.Machine

section
variable {s : State}

/-! ### RECORD entered -/

/-- RECORD entered from lock-up, with the steady window open (R15, R38). -/
def recording (s : State) : State :=
  { s.transportTo
      { s.trc.movesInto .record .idle with
        locate := s.trc.locate, seek := s.trc.seek, steadyAwaited := false
        recordingSpeed := s.trc.orderedSpeed, markDue := s.trc.orderedIndex, pausePoint := none } with
    tcb := { s.tcb with
      steadyOpen := true, supplyPeriod := none, takeUpPeriod := none, supplySeen := false, takeUpSeen := false
      blankTimer := some 1000, blankFlag := false } }

theorem noteSpeedChange_unswitched (h : ∀ x ∈ s.sch.session, x.switched = false) : noteSpeedChange s = s := by
  refine if_neg fun h' => ?_
  obtain ⟨x, hx, hs⟩ := (Option.any_eq_true _ _).1 h'.1
  rw [h x hx] at hs
  exact Bool.false_ne_true hs

/-- The session that starts becomes ACTIVE (R150). -/
def firstFrame (w : State) : State :=
  if w.sch.session.any fun x => decide (x.state = .starting) then activateSession w else w

/-- RECORD or PAUSE, if held, is done (R15, R17). -/
def recordDone (w : State) : State := if w.holds [2, 3] then completeHeld .done .none w else w

theorem enterRecord_eq {t : State} (h : noteSpeedChange s = t) (ht : t.trc = s.trc) :
    enterRecord s = recordDone (firstFrame (recording t)) := by
  have entered : openWindow ((enter .record .idle t).setTrc { (enter .record .idle t).trc with
      recordingSpeed := s.trc.orderedSpeed, markDue := s.trc.orderedIndex, pausePoint := none, steadyAwaited := false }) =
      recording t := by
    rw [Switches.enter_motion_eq rfl (by decide), ← ht]
    rfl
  unfold enterRecord
  rw [h]
  exact congrArg (fun w => recordDone (firstFrame w)) entered

theorem recordDone_eq {t : State} (hh : ∀ h ∈ t.trc.held, h.code = 2 ∨ h.code = 3) :
    recordDone t = completeHeld .done .none t := by
  unfold recordDone
  cases hs : t.trc.held with
  | none => rw [completeHeld_none _ _ _ hs, ite_self]
  | some h =>
    have code : h.code = 2 ∨ h.code = 3 := hh h hs
    exact if_pos (by simpa [State.holds, hs] using code)

/-! ### The open notice (R54) -/

/-- The state after the open notice: the session, its range, the directory and an event. -/
def opened (u : State) (y : Session) (range : SessionRange) (d : Dir) (raised : BitVec 18) : State :=
  { u with
    dir := { d with range := some range }
    sch := { u.sch with session := some y }
    clu := { u.clu with sticky := u.clu.sticky ||| raised } }

/-- An open notice that raises nothing. -/
theorem opened_silent (u : State) (y : Session) (range : SessionRange) (d : Dir) : opened u y range d 0 =
    { u with dir := { d with range := some range }, sch := { u.sch with session := some y } } := by simp [opened]

variable {u : State} {x y : Session} {network : Option Nat}

theorem openNotice_unknown (hy : u.sch.session = some y) (h : ¬ (u.tcb.exact = true ∧ u.dir.state ≠ .unknown)) :
    openNotice x network u =
      opened u { y with notIndexed := true } { start := none, writtenEnd := u.tcb.absPos, opened := false } u.dir 0 := by
  have unknown : ¬ u.tcb.exact = true ∨ u.dir.state = .unknown := by
    by_cases he : u.tcb.exact = true
    · exact .inr (Decidable.not_not.1 fun hd => h ⟨he, hd⟩)
    · exact .inl he
  refine (if_pos unknown).trans ?_
  exact (modSession_some (x := y) (by exact hy) _).trans (opened_silent _ _ _ _).symm

theorem openNotice_full (hy : u.sch.session = some y) (h : u.tcb.exact = true ∧ u.dir.state ≠ .unknown)
    (hf : 24 ≤ u.dir.image.length) : openNotice x network u =
      opened u y { start := some u.tcb.absPos, writtenEnd := u.tcb.absPos, opened := false } u.dir Sticky.dirFull.mask := by
  refine (if_neg (by simp [h.1, h.2])).trans ((if_pos hf).trans ?_)
  unfold opened
  rw [← hy]
  rfl

/-- The entry that a session opens at its first frame (R54). -/
def opens (u : State) (x : Session) (speed : Speed) (network : Option Nat) : DirEntry :=
  { start := u.tcb.absPos, length := none, firstSpeed := speed, switchFrame := none
    source := match x.source with | .ext => 100 | .air => x.channel
    network := network, label := x.label
    recordedAt := if u.clk.status = .unset then none else some u.clk.now, origin := x.origin, endedBy := none }

/-- An entry goes before the entries of no lower start. -/
theorem insertEntry_eq (e : DirEntry) (image : List DirEntry) : insertEntry e image =
    image.filter (fun x => x.start < e.start) ++ e :: image.filter (fun x => e.start ≤ x.start) := by
  simp only [insertEntry, Nat.not_lt]

theorem openNotice_inserts (hy : u.sch.session = some y) (h : u.tcb.exact = true ∧ u.dir.state ≠ .unknown)
    (hf : u.dir.image.length < 24) {speed : Speed} (hs : x.firstSpeed = some speed) :
    openNotice x network u =
      opened u
        { y with entryNo := openNumber (insertEntry (opens u x speed network) u.dir.image) }
        { start := some u.tcb.absPos, writtenEnd := u.tcb.absPos, opened := true }
        { u.dir with image := insertEntry (opens u x speed network) u.dir.image, dirty := true, changed := true } 0 := by
  refine (if_neg (by simp [h.1, h.2])).trans ((if_neg (Nat.not_le.2 hf)).trans ?_)
  have source : (if x.source = .ext then 100 else x.channel) = (match x.source with | .ext => 100 | .air => x.channel) := by
    cases x.source <;> rfl
  have entry (e : DirEntry) (he : e = opens u x speed network) :
      setImage (insertEntry e u.dir.image) (u.setDir { u.dir with
        range := some { start := some u.tcb.absPos, writtenEnd := u.tcb.absPos, opened := true } }) =
      opened u
        { y with entryNo := openNumber (insertEntry (opens u x speed network) u.dir.image) }
        { start := some u.tcb.absPos, writtenEnd := u.tcb.absPos, opened := true }
        { u.dir with image := insertEntry (opens u x speed network) u.dir.image, dirty := true, changed := true } 0 := by
    rw [he, opened_silent]
    exact modSession_some (x := y) (by exact hy) _
  refine entry _ ?_
  rw [source, hs]
  rfl

/-! ### The session becomes ACTIVE (R150, R165) -/

/-- The session's own entry may be WAITING, as long as no other is and nothing is watched. -/
abbrev Quiet (s : State) (k : Nat) : Prop :=
  (s.timer k).state ≠ .waiting ∨
    (s.sch.watch = none ∧ ∀ j e, j ≠ k → s.sch.timers[j]? = some e → e.state ≠ .waiting)

/-- The table with the entry of a session's origin in another state. -/
def followed (origin : Option Nat) (st : EntryState) (timers : List TimerEntry) : List TimerEntry :=
  match origin with
  | none => timers
  | some k => timers.modify k fun e => { e with state := st }

theorem setEntryState_alone {k : Nat} (h : Quiet s k) {st : EntryState} (hst : st ≠ .waiting) :
    setEntryState k st s = { s with sch := { s.sch with timers := s.sch.timers.modify k fun e => { e with state := st } } } := by
  rcases h with h | ⟨hw, ho⟩
  · exact setEntryState_quiet h hst
  · have still : State.watchesNothing (modTimer k (fun e => { e with state := st }) s) := by
      refine ⟨hw, fun e he => ?_⟩
      obtain ⟨j, hj, rfl⟩ := List.mem_iff_getElem.1 he
      simp only [modTimer, State.setSch, List.getElem_modify]
      split
      · exact hst
      · next hne => exact ho j _ (Ne.symm hne) (List.getElem?_eq_getElem _)
    unfold setEntryState
    dsimp only
    rw [reassessWatch_nothing still, ite_self]
    rfl

theorem timer_modified {k : Nat} {st : EntryState} (hst : st ≠ .waiting)
    (ht : u.sch.timers = s.sch.timers.modify k fun e => { e with state := st }) : (u.timer k).state ≠ .waiting := by
  simp only [State.timer, List.getD_eq_getElem?_getD, ht, List.getElem?_modify_eq]
  cases s.sch.timers[k]? with
  | none => exact EntryState.noConfusion
  | some e => exact hst

/-- The state after the first frame of a session, its entry RECORDING (R150). -/
def activated (u : State) (y : Session) (range : SessionRange) (d : Dir) (raised : BitVec 18) : State :=
  { opened u y range d raised with
    sch := { u.sch with session := some y, timers := followed y.origin .recording u.sch.timers }
    clu := { u.clu with sticky := u.clu.sticky ||| raised ||| Sticky.sessionOpen.mask } }

theorem activateSession_eq {range : SessionRange} {d : Dir} {raised : BitVec 18} (hx : u.sch.session = some x)
    (hn : openNotice x ((u.channel x.channel).bind Channel.network)
        { u with sch := { u.sch with session := some { x with state := .active, startedAt := some u.clk.now } } } =
      opened u y range d raised) (hy : y.origin = x.origin)
    (hq : ∀ k, x.origin = some k → Quiet u k) :
    activateSession u = checkCueLoss
      (if x.holdPending then takeHoldPending (activated u y range d raised) else activated u y range d raised) := by
  unfold activateSession
  simp only [hx]
  rw [modSession_some hx]
  have opens := hn
  simp only [State.setSch] at opens ⊢
  rw [opens]
  cases ho : x.origin with
  | none =>
    rw [show raise .sessionOpen (opened u y range d raised) = activated u y range d raised by
      unfold activated followed; rw [hy, ho]; rfl]
  | some k =>
    dsimp only
    rw [setEntryState_alone (s := opened u y range d raised) (hq k ho) (by decide)]
    rw [show raise .sessionOpen _ = activated u y range d raised by unfold activated followed; rw [hy, ho]; rfl]

theorem checkCueLoss_heard (hx : u.sch.session = some x) (h : x.stopRule = .label → u.channelCue x.channel ≠ none) :
    checkCueLoss u = u := by
  unfold checkCueLoss
  rw [hx]
  refine if_neg ?_
  rintro ⟨h1, _, h2⟩
  exact h h1 (Option.isNone_iff_eq_none.1 h2)

/-- A hold pending pauses the session at once, the pause order kept (R165, log 67). -/
theorem takeHoldPending_eq (hx : u.sch.session = some x) (hst : u.trc.state = .record)
    (hq : ∀ k, x.origin = some k → (u.timer k).state ≠ .waiting) :
    takeHoldPending u = { u with
      trc := { u.trc with heldPause := true, heldResume := none }
      sch := { u.sch with
        session := some { x with
          state := .paused, pauseCause := some .label, holdPending := false, cueLoss := false, lossTimer := none }
        timers := followed x.origin .paused u.sch.timers } } := by
  have pauses : ∀ w : State, w.trc.state = .record → w.trc.heldPause = true →
      orderPause w = { w with trc := { w.trc with heldPause := true, heldResume := none } } :=
    fun w h1 h2 => if_pos (.inr ⟨h1, h2⟩)
  unfold takeHoldPending labelPause
  rw [modSession_some hx]
  dsimp only
  rw [modSession_some (x := { x with holdPending := false }) (by rfl)]
  rw [pauses _ (by exact hst) (by rfl)]
  have entry := TapeOrders.originEntry_follows (t := { u with
      trc := { u.trc with heldPause := true, heldResume := none }
      sch := { u.sch with session := some { x with state := .paused, pauseCause := some .label, holdPending := false } } })
    .paused (by decide) rfl hq
  refine (congrArg clearCueLoss entry).trans ?_
  exact (modSession_some (x := { x with state := .paused, pauseCause := some .label, holdPending := false }) rfl _).trans rfl

/-! ### The first frame (R15, R150) -/

/-- The first frame of a session that starts: RECORD, with the command held DONE. -/
theorem enterRecord_first {c : Clu} (hx : s.sch.session = some x) (hst : x.state = .starting) (hsw : x.switched = false)
    (hl : s.letsGo .done .none c) (hh : ∀ h ∈ s.trc.held, h.code = 2) {t : State}
    (ht : activateSession (recording s) = t) (hheld : t.trc.held = s.trc.held) {m : BitVec 18}
    (hclu : t.clu = { s.clu with sticky := m }) :
    enterRecord s = { t with clu := { c with sticky := m }, trc := { t.trc with held := none } } := by
  have unswitched : noteSpeedChange s = s :=
    noteSpeedChange_unswitched fun z hz => by rw [Option.mem_def, hx, Option.some_inj] at hz; exact hz ▸ hsw
  have starts : (recording s).sch.session.any (fun x => decide (x.state = .starting)) = true := by
    rw [show (recording s).sch.session = some x from hx]
    simp [hst]
  rw [enterRecord_eq unswitched rfl]
  rw [show firstFrame (recording s) = t from (if_pos starts).trans ht]
  rw [recordDone_eq fun h hm => .inl (hh h (hheld ▸ hm))]
  exact completeHeld_letsGo_sticky hl hheld hclu

/-- The state after the first frame of a session, as its record, its entry and the directory come out of it. -/
def begunBy (s : State) (c : Clu) (y : Session) (st : EntryState) (range : SessionRange) (d : Dir) (raised : BitVec 18)
    (pausing : Bool) : State :=
  { s.transportTo
      { s.trc.movesInto .record .idle with
        locate := s.trc.locate, seek := s.trc.seek, steadyAwaited := false, servoLocked := true, held := none
        recordingSpeed := s.trc.orderedSpeed, markDue := s.trc.orderedIndex, pausePoint := none
        heldPause := s.trc.heldPause || pausing, heldResume := if pausing then none else s.trc.heldResume } with
    tcb := { s.tcb with
      steadyOpen := true, supplyPeriod := none, takeUpPeriod := none, supplySeen := false, takeUpSeen := false
      blankTimer := some 1000, blankFlag := false }
    dir := { d with writeImage := none, range := some range }
    sch := { s.sch with
      session := some { y with startedAt := some s.clk.now }, timers := followed y.origin st s.sch.timers }
    clu := { c with sticky := s.clu.sticky ||| raised ||| Sticky.sessionOpen.mask } }

/-- The session at its first frame, before the open notice. -/
def atFirstFrame (s : State) (x : Session) : State :=
  { recording s with
    sch := { s.sch with session := some { x with state := .active, startedAt := some s.clk.now } } }

/-- A lock-up that can reach its first frame: the session starts, and its channel is heard when its label asks for it. -/
structure Starts (s : State) (x : Session) (c : Clu) : Prop where
  session : s.sch.session = some x
  starting : x.state = .starting
  unswitched : x.switched = false
  heard : x.stopRule = .label → s.channelCue x.channel ≠ none
  quiet : ∀ k, x.origin = some k → Quiet s k
  letsGo : s.letsGo .done .none c
  held : ∀ h ∈ s.trc.held, h.code = 2

/-- The session paused by its label. -/
abbrev heldByLabel (y : Session) : Session :=
  { y with state := .paused, pauseCause := some .label, holdPending := false, cueLoss := false, lossTimer := none }

section
variable {c : Clu} {range : SessionRange} {d : Dir} {raised : BitVec 18}

theorem enterRecord_active (h : Starts s x c) (hp : x.holdPending = false) (hy : y.origin = x.origin)
    (hc : y.channel = x.channel) (hr : y.stopRule = x.stopRule)
    (hn : openNotice x ((s.channel x.channel).bind Channel.network) (atFirstFrame s x) =
      opened (recording s) { y with startedAt := some s.clk.now } range { d with writeImage := none } raised) :
    (enterRecord s).setTrc { (enterRecord s).trc with servoLocked := true } = begunBy s c y .recording range d raised false := by
  have active : activateSession (recording s) =
      activated (recording s) { y with startedAt := some s.clk.now } range { d with writeImage := none } raised := by
    rw [activateSession_eq (u := recording s) h.session hn hy h.quiet, if_neg (by rw [hp]; exact Bool.false_ne_true)]
    exact checkCueLoss_heard (x := { y with startedAt := some s.clk.now }) rfl fun h' => by
      rw [show ({ y with startedAt := some s.clk.now } : Session).channel = x.channel from hc]
      exact h.heard (hr.symm.trans h')
  rw [enterRecord_first h.session h.starting h.unswitched h.letsGo h.held active rfl rfl]
  unfold begunBy
  rw [Bool.or_false]
  rfl

/-- A mark for a HOLD taken before the first frame pauses the session with it (R165, log 67). -/
theorem enterRecord_holds (h : Starts s x c) (hp : x.holdPending = true) (hy : y.origin = x.origin)
    (hc : y.channel = x.channel) (hr : y.stopRule = x.stopRule)
    (hn : openNotice x ((s.channel x.channel).bind Channel.network) (atFirstFrame s x) =
      opened (recording s) { y with startedAt := some s.clk.now } range { d with writeImage := none } raised) :
    (enterRecord s).setTrc { (enterRecord s).trc with servoLocked := true } =
      begunBy s c (heldByLabel y) .paused range d raised true := by
  let z : Session := { y with startedAt := some s.clk.now }
  have twice (timers : List TimerEntry) : followed y.origin .paused (followed y.origin .recording timers) =
      followed y.origin .paused timers := by
    cases y.origin with
    | none => rfl
    | some k => exact modify_modify _ _ timers k
  have unwatched : ∀ k, y.origin = some k →
      ((activated (recording s) z range { d with writeImage := none } raised).timer k).state ≠ .waiting := fun k hk =>
    timer_modified (s := s) (st := .recording) (by decide) (congrArg (fun o => followed o .recording s.sch.timers) hk)
  have heard : checkCueLoss { activated (recording s) z range { d with writeImage := none } raised with
      trc := { (recording s).trc with heldPause := true, heldResume := none }
      sch := { s.sch with
        session := some (heldByLabel z), timers := followed y.origin .paused (followed y.origin .recording s.sch.timers) } } = _ :=
    checkCueLoss_heard (x := heldByLabel z) rfl fun h' => by
      rw [show (heldByLabel z).channel = x.channel from hc]
      exact h.heard (hr.symm.trans h')
  have active : activateSession (recording s) =
      { activated (recording s) z range { d with writeImage := none } raised with
        trc := { (recording s).trc with heldPause := true, heldResume := none }
        sch := { s.sch with
          session := some (heldByLabel z), timers := followed y.origin .paused s.sch.timers } } := by
    rw [activateSession_eq (u := recording s) h.session hn hy h.quiet, if_pos hp,
      takeHoldPending_eq (x := z) rfl rfl unwatched]
    exact heard.trans (by rw [twice])
  rw [enterRecord_first h.session h.starting h.unswitched h.letsGo h.held active rfl rfl]
  unfold begunBy
  rw [Bool.or_true]
  rfl

end

/-! ### The servo locks (R4, R6, R15) -/

/-- The transport with the servo LOCKED. -/
def locked (s : State) : State := { s with trc := { s.trc with servoLocked := true } }

theorem servoLocks_idle (h : s.trc.state = .windFwd ∨ s.trc.state = .searchBack ∨ s.trc.state = .dirWrite ∨
    s.trc.state = .record ∨ (s.trc.state = .play ∧ s.trc.playLock = none) ∨ (s.trc.state = .lockup ∧ s.trc.phase ≠ .lock)) :
    servoLocks s = locked s := by
  rcases h with h | h | h | h | ⟨h, hl⟩ | ⟨h, hp⟩ <;> simp only [servoLocks, locked, State.setTrc, h]
  · exact if_neg (by simp [hl])
  · exact if_neg fun h' => hp h'.1

theorem servoLocks_play (h : s.trc.state = .play) (hl : s.trc.playLock.isSome) : servoLocks s =
    (let t : State := { s with trc := { s.trc with servoLocked := true, playLock := none } }
     if t.holds [1] then completeHeld .done .none t else t) := by
  unfold servoLocks
  rw [h]
  exact if_pos hl

theorem servoLocks_lockup (h : s.trc.state = .lockup) (hp : s.trc.phase = .lock) (hl : s.trc.lockupLock.isSome) :
    servoLocks s = (enterRecord (locked s)).setTrc { (enterRecord (locked s)).trc with servoLocked := true } := by
  unfold servoLocks
  rw [h]
  exact if_pos ⟨hp, hl⟩

/-! ### The motors are steady (R7, R9, R38) -/

theorem motionSteady_plain (h : s.trc.steadyAwaited = true)
    (hst : s.trc.state = .locate ∨ s.trc.state = .dirRead ∨ s.trc.state = .lockup) :
    motionSteady s = { s with trc := { s.trc with steadyAwaited := false } } := by
  have unanswered (t : State) : t.holds [] = false := by
    unfold State.holds
    split <;> simp
  unfold motionSteady
  rw [if_pos h]
  rcases hst with hst | hst | hst <;>
  · simp only [hst, TState.measures, steadyCodes, unanswered]
    rfl

/-- The states that measure, each with the command that the motion-steady event completes. -/
theorem motionSteady_measures (h : s.trc.steadyAwaited = true) {code : Nat} {c : Clu}
    (hst : s.trc.state.measures = true) (hcode : code ∈ steadyCodes s.trc.state) (hl : s.letsGo .done .none c)
    (hh : ∀ h ∈ s.trc.held, h.code = code) : motionSteady s =
      { s with
        trc := { s.trc with steadyAwaited := false, held := none }
        tcb := { s.tcb with
          steadyOpen := true, supplyPeriod := none, takeUpPeriod := none, supplySeen := false, takeUpSeen := false
          blankTimer := some 1000 }
        clu := c } := by
  have done := completeHeld_letsGo (t := openWindow { s with trc := { s.trc with steadyAwaited := false } }) hl rfl rfl
  refine Eq.trans ?_ done
  unfold motionSteady
  rw [if_pos h]
  dsimp only
  rw [if_pos hst]
  cases hheld : s.trc.held with
  | none =>
    refine (if_neg (by simp [State.holds, openWindow, State.setTrc, State.setTcb])).trans ?_
    exact (completeHeld_none _ _ _ rfl).symm
  | some k =>
    have code : k.code = code := hh k hheld
    refine if_pos ?_
    simpa [State.holds, openWindow, State.setTrc, State.setTcb, hheld, code] using hcode

/-! ### At rest (R8, R12, R13, R19, R20) -/

/-- The state with the at-rest mark taken. -/
def rested (s : State) : State := { s with trc := { s.trc with atRestMark := false } }

theorem atRest_open (hst : s.trc.state = .stopped) (hc : ∀ x ∈ s.sch.session, x.state ≠ .closing) : atRest s =
    autoRewind (takeHeldStart (if (rested s).holds [4] then completeHeld .done .none (rested s) else rested s)) := by
  have not_closing : State.closing (s.setTrc { s.trc with atRestMark := false }) = false := by
    unfold State.closing
    rw [Option.any_eq_false]
    exact fun x hx => decide_eq_false (hc x hx)
  unfold atRest
  rw [hst]
  exact if_neg (by rw [not_closing]; exact Bool.false_ne_true)

theorem takeHeldStart_none (h : s.trc.heldStart = none) : takeHeldStart s = s := by
  unfold takeHeldStart
  rw [h]

theorem autoRewind_off (h : s.trc.rewindDue = false ∨ s.sch.session ≠ none ∨ s.trc.state ≠ .stopped) : autoRewind s = s := by
  refine if_neg ?_
  rintro ⟨h1, h2, _, h3⟩
  rcases h with h | h | h
  · rw [h] at h1; exact Bool.false_ne_true h1
  · exact h (Option.isNone_iff_eq_none.1 h3)
  · exact h h2

theorem autoRewind_winds (h : s.trc.rewindDue = true) (hst : s.trc.state = .stopped) (hm : s.trc.atRestMark = false)
    (hn : s.sch.session = none) : autoRewind s = s.transportTo (s.trc.movesInto .windBack .idle) := by
  refine (if_pos ⟨h, hst, by simp [hm], by simp [hn]⟩).trans ?_
  exact beginMotion_eq rfl (by decide) _ _

/-- The record start order held is taken: lock-up, in its lock phase where the tape is off the leader (R13, R15). -/
theorem takeHeldStart_locks {speed : Speed} {index : Bool} (h : s.trc.heldStart = some (speed, index))
    (hst : s.trc.state = .stopped) (he : s.tcb.exact = false) (hs : s.pins.startSensor = false) :
    takeHeldStart s = s.transportTo
      { s.trc.movesInto .lockup .lock with
        heldStart := none, orderedSpeed := speed, orderedIndex := index, lockupLock := some 3000 } := by
  unfold takeHeldStart
  rw [h]
  refine (if_pos hst).trans ?_
  unfold beginLockup
  rw [beginMotion_eq rfl (by decide)]
  refine (if_neg (by rw [hs]; exact Bool.false_ne_true)).trans ((if_neg fun h' => ?_).trans rfl)
  exact Bool.false_ne_true (he.symm.trans h'.1)

end

/-- Settles O50. -/
theorem servoAndMotorsAreFollowed : Obligations.ServoAndMotorsAreFollowed := by
  intro s ha lockedState
  have row (f : State → State) : awake f s = f s := awake_apply ha f
  have rests (h : s.trc.atRestMark = true) : awake (fun t => if t.trc.atRestMark then atRest t else t) s = atRest s :=
    (row _).trans (if_pos h)
  refine ⟨congrArg Host.Outcome.next (row _), fun h => ?_, fun h hl => ⟨fun hn => ?_, fun f c hf hc => ?_⟩, fun h => ?_, ?_, fun h => ?_,
    fun h => ⟨fun hst => ?_, fun code c hst hl hh => ?_⟩, ?_⟩
  · exact congrArg Host.Outcome.next ((row _).trans (servoLocks_idle h))
  · refine congrArg Host.Outcome.next ((row _).trans ((servoLocks_play h hl).trans (if_neg ?_)))
    simp [State.holds, hn]
  · refine congrArg Host.Outcome.next ((row _).trans ((servoLocks_play h hl).trans ((if_pos ?_).trans ?_)))
    · simp [State.holds, hf]
    · exact completeHeld_letsGo (t := { s with trc := { s.trc with servoLocked := true, playLock := none } }) hc rfl rfl
  · refine congrArg Host.Outcome.next ((row _).trans ?_)
    unfold servoLocks
    rw [h]
    rfl
  · intro x c h hp hl hx hst hsw hcue hq hc hh here begun known active becomes
    have starts : Starts (locked s) x c := ⟨hx, hst, hsw, hcue, hq, hc, hh⟩
    have enters : awake servoLocks s = (enterRecord (locked s)).setTrc { (enterRecord (locked s)).trc with servoLocked := true } :=
      (row _).trans (servoLocks_lockup h hp hl)
    have tells {y : Session} (hy : y.origin = x.origin) (st range d raised pausing) :
        begunBy (locked s) c y st range d raised pausing = begun y st range d raised pausing := by
      unfold begunBy
      rw [congrArg followed hy]
      rfl
    have records {y : Session} {range : SessionRange} {d : Dir} {raised : BitVec 18} (hn : x.holdPending = false)
        (hy : y.origin = x.origin) (hch : y.channel = x.channel) (hr : y.stopRule = x.stopRule)
        (hopen : openNotice x ((s.channel x.channel).bind Channel.network) (atFirstFrame (locked s) x) =
          opened (recording (locked s)) { y with startedAt := some s.clk.now } range { d with writeImage := none } raised) :
        becomes y .recording range d raised false :=
      congrArg Host.Outcome.next (enters.trans ((enterRecord_active starts hn hy hch hr hopen).trans (tells hy _ _ _ _ _)))
    refine ⟨fun hn => ⟨fun hk => ?_, fun hk hfull => ?_, ?_⟩, fun hhold hk => ?_⟩
    · exact records hn rfl rfl rfl (openNotice_unknown (u := atFirstFrame (locked s) x) rfl hk)
    · exact records hn rfl rfl rfl (openNotice_full (u := atFirstFrame (locked s) x) rfl hk hfull)
    · intro speed hk hroom hspeed entry image
      have inserts := openNotice_inserts (u := atFirstFrame (locked s) x) (x := x)
        (network := (s.channel x.channel).bind Channel.network) rfl hk hroom hspeed
      rw [insertEntry_eq] at inserts
      exact records hn rfl rfl rfl inserts
    · exact congrArg Host.Outcome.next (enters.trans ((enterRecord_holds (y := { active with notIndexed := true }) starts hhold rfl rfl rfl
        (openNotice_unknown (u := atFirstFrame (locked s) x) rfl hk)).trans (tells (y := heldByLabel { active with notIndexed := true }) rfl _ _ _ _ _)))
  · exact congrArg Host.Outcome.next ((row _).trans (if_neg (by rw [h]; exact Bool.false_ne_true)))
  · exact congrArg Host.Outcome.next ((row _).trans (motionSteady_plain h hst))
  · refine congrArg Host.Outcome.next ((row _).trans (motionSteady_measures h ?_ ?_ hl hh))
    · rcases hst with ⟨e, _⟩ | ⟨e, _⟩ | ⟨e, _⟩ | ⟨e, _⟩ | ⟨e, _⟩ <;> rw [e] <;> rfl
    · rcases hst with ⟨e, rfl⟩ | ⟨e, rfl⟩ | ⟨e, rfl⟩ | ⟨e, rfl⟩ | ⟨e, rfl⟩ <;> rw [e] <;> decide
  · intro restedState
    refine ⟨fun h => congrArg Host.Outcome.next ((row _).trans (if_neg (by rw [h]; exact Bool.false_ne_true))), fun h => ?_⟩
    refine ⟨fun hst => ?_, fun hst => ?_, fun hst => ?_, fun hst hs hn => ?_, ?_⟩
    · refine congrArg Host.Outcome.next ((rests h).trans ?_)
      unfold atRest
      rw [hst]
      rfl
    · refine congrArg Host.Outcome.next ((rests h).trans ?_)
      unfold atRest
      rw [hst]
      rfl
    · refine congrArg Host.Outcome.next ((rests h).trans ?_)
      unfold atRest
      rw [hst]
      rfl
    · have stands : ∀ x ∈ s.sch.session, x.state ≠ .closing := fun x hx => by rw [hn] at hx; exact absurd hx (by simp)
      have goes {t : State} (ht : (if (rested s).holds [4] then completeHeld .done .none (rested s) else rested s) = t)
          (hk : t.trc.heldStart = none) : exec .atRest s = .next (autoRewind t) := by
        refine congrArg Host.Outcome.next ((rests h).trans ((atRest_open hst stands).trans ?_))
        rw [ht, takeHeldStart_none hk]
      have unheld (hh : s.trc.held = none) :
          (if (rested s).holds [4] then completeHeld .done .none (rested s) else rested s) = rested s :=
        if_neg (by simp [State.holds, rested, hh])
      refine ⟨fun hr hh => ?_, fun f c hr hf hc => ?_, fun hr hh => ?_⟩
      · exact (goes (unheld hh) hs).trans (congrArg Host.Outcome.next (autoRewind_off (.inl hr)))
      · refine (goes (t := { rested s with trc := { (rested s).trc with held := none }, clu := c }) ?_ hs).trans ?_
        · exact (if_pos (by simp [State.holds, rested, hf])).trans (completeHeld_letsGo (t := rested s) hc rfl rfl)
        · exact congrArg Host.Outcome.next (autoRewind_off (.inl hr))
      · exact (goes (unheld hh) hs).trans (congrArg Host.Outcome.next (autoRewind_winds hr hst rfl hn))
    · intro speed index x hst hs hx hxs hh he hp
      have stands : ∀ y ∈ s.sch.session, y.state ≠ .closing := fun y hy => by
        rw [hx, Option.mem_def, Option.some_inj] at hy
        rw [← hy, hxs]
        decide
      refine congrArg Host.Outcome.next ((rests h).trans ((atRest_open hst stands).trans ?_))
      rw [if_neg (by simp [State.holds, rested, hh]), takeHeldStart_locks (s := rested s) hs hst he hp]
      exact autoRewind_off (.inr (.inr TState.noConfusion))

end Sys2Proof.Proofs.ServoMotors
end

section
/-! PROOFS. The transport's limits and the counts at their ends (R4, R6, R7, R10, R15 to R18, R31, R51, R52, R61). -/

namespace Sys2Proof.Proofs.Limits
open Sys2Proof.Machine
open Sys2Proof.Proofs.Faults

section
variable {s : State}

/-! ### The limits that stop the tape (R6, R7, R15, R16) -/

theorem pauseExpires_play (h : s.trc.state = .playPause) : pauseExpires s = s.transportTo s.trc.stops :=
  (if_neg (by rw [h]; decide)).trans (stopTape_eq s)

/-- The five minutes of a label's pause: the tape stops, and the session stands (R16, R167). -/
theorem pauseExpires_label (h : s.trc.state = .recordPause) {x : Session} (hx : s.sch.session = some x)
    (hc : x.pauseCause = some .label) : pauseExpires s = s.transportTo { s.trc.stops with pausePoint := none } := by
  have stands : Session.pausedManual x = false := by simp [Session.pausedManual, hc]
  unfold pauseExpires
  rw [stopTape_eq]
  refine (if_pos h).trans ((if_neg ?_).trans rfl)
  show ¬ s.sch.session.any Session.pausedManual = true
  rw [hx, Option.any_some, stands]
  exact Bool.false_ne_true

/-- The lock-up fails, and its session with it (R15, R155). -/
theorem lockupFails_eq (h : s.trc.state = .lockup) {x : Session} (hx : s.sch.session = some x) (hs : x.state ≠ .closing)
    {c : Clu} (hl : s.letsGo .failed .lock c) : lockupFails s =
      { s.transportTo { s.trc.stops with
          held := none, heldHalt := false, heldStart := none, heldPause := false, heldResume := none } with
        sch := { s.sch with session := some { x with state := .closing, closeReason := some .failedStart } }
        clu := c } := by
  have brakes : s.trc.stops.atRestMark = true := by
    show (s.trc.atRestMark || s.trc.state.isMotion) = true
    rw [h]; exact Bool.or_true _
  unfold lockupFails
  rw [stopTape_eq, completeHeld_letsGo hl (by rfl) (by rfl),
    Sensors.beginClose_braking (by exact hx) hs (by rfl) (by exact brakes) (by rfl)]
  rfl

/-! ### A directory read ends (R4, R11, R52) -/

theorem finishRead_plain (h : s.trc.seek = none) {ending : ReadEnding} {t : State} (ht : readEnds ending s = t) :
    finishRead ending s = t.transportTo t.trc.stops := by
  unfold finishRead
  rw [ht, h]
  exact stopTape_eq t

/-- A seek whose read is cut finds no directory (R11). -/
theorem finishRead_seeking {e : SeekEntry} (h : s.trc.seek = some e) {c : Clu} (hl : s.letsGo .failed .unreadable c) :
    finishRead .cut s = { s.transportTo { s.trc.stops with held := none } with dir := s.dir.lost, clu := c } := by
  have unread : continueSeek e (stopTape (dirUnknown s)) = completeHeld .failed .unreadable (stopTape (dirUnknown s)) := rfl
  unfold finishRead
  rw [h]
  refine unread.trans ?_
  rw [stopTape_eq, completeHeld_letsGo hl (by rfl) (by rfl)]
  rfl

/-- The directory as a read leaves it, before the tape stops (R52). -/
def readInto (s : State) (st : DirState) (image : List DirEntry) (profile generation : Nat) : State :=
  { s with dir := { s.dir.toUnknown with state := st, image := image, headerProfile := profile, generation := generation } }

theorem readEnds_idle (h : s.dir.collecting = false) {ending : ReadEnding} (he : ending ≠ .cut) :
    readEnds ending s = { s with dir := { s.dir with blankTest := none, collecting := false } } := by
  cases ending with
  | cut => exact absurd rfl he
  | blank => exact if_neg (by rw [h]; exact Bool.false_ne_true)
  | passed => exact if_neg (by rw [h]; exact Bool.false_ne_true)

theorem readEnds_blank (h : s.dir.collecting = true) : readEnds .blank s = readInto s .blank [] s.tcb.selected 0 := if_pos h

theorem readEnds_found (h : s.dir.collecting = true) {image : List DirEntry} {p g : Nat}
    (hj : s.dir.copies.findSome? judgeCopy = some (image, p, g)) :
    readEnds .passed s = selectProfile p (readInto s .valid image p g) := by
  refine (if_pos h).trans ?_
  rw [hj]
  rfl

theorem copies_some_iff : s.dir.copies.any (fun places => places.any Option.isSome) = true ↔
    ∃ places ∈ s.dir.copies, ∃ f ∈ places, f ≠ none := by
  simp [Option.isSome_iff_ne_none]

theorem readEnds_unread (h : s.dir.collecting = true) (hj : s.dir.copies.findSome? judgeCopy = none) :
    readEnds .passed s = readInto s (if s.dir.copies.any (fun places => places.any Option.isSome) then .damaged else .blank) []
      s.tcb.selected 0 := by
  refine (if_pos h).trans ?_
  rw [hj]
  dsimp only
  split <;> rfl

/-- The profile of the copy read is selected; another one clears the history (R37). -/
theorem selectProfile_same {p : Nat} (h : s.tcb.selected = p) : selectProfile p s = s := if_pos h

theorem selectProfile_other {p : Nat} (h : s.tcb.selected ≠ p) : selectProfile p s =
    { s with
      tcb := { s.tcb with selected := p, history := [], nearEnd := false }
      sch := { s.sch with settledFigure := none } } := if_neg h

/-! ### The seam (R17, R55, R153) -/

/-- The open entry has no switch frame yet. -/
abbrev Unmarked (s : State) : Prop := ∃ e ∈ s.dir.image, e.length = none ∧ e.switchFrame = none

theorem unmarked_iff : s.dir.image.any (fun e => e.isOpen && e.switchFrame.isNone) = true ↔ Unmarked s := by
  simp [DirEntry.isOpen, Unmarked]

/-- The image with the frame of the first picture at speed 2 in its open entry. -/
def markedImage (s : State) : List DirEntry :=
  s.dir.image.map fun e => if e.length = none then { e with switchFrame := some s.tcb.absPos } else e

/-- The speed changes with this frame, and an open entry is there to take it. -/
abbrev Notes (s : State) (x : Session) : Prop :=
  x.switched = true ∧ s.trc.recordingSpeed = .one ∧ s.trc.orderedSpeed = .two ∧ Unmarked s

variable {x : Session}

theorem noteSpeedChange_other (hx : s.sch.session = some x) (h : ¬ Notes s x) : noteSpeedChange s = s := by
  unfold noteSpeedChange
  split
  · next h' =>
    obtain ⟨h1, h2, h3⟩ := h'
    rw [hx, Option.any_some] at h1
    exact if_neg fun hu => h ⟨h1, h2, h3, unmarked_iff.1 hu⟩
  · rfl

theorem noteSpeedChange_marks (hx : s.sch.session = some x) (h : Notes s x) : noteSpeedChange s =
    { s with
      dir := { s.dir with image := markedImage s, dirty := true, changed := true }
      sch := { s.sch with
        session := some { x with switchFrame := some s.tcb.absPos, entryNo := openNumber (markedImage s) } } } := by
  obtain ⟨h1, h2, h3, h4⟩ := h
  have image : (s.dir.image.map fun e => if e.isOpen then { e with switchFrame := some s.tcb.absPos } else e) = markedImage s := by
    simp only [DirEntry.isOpen, Option.isNone_iff_eq_none, markedImage]
  unfold noteSpeedChange
  refine (if_pos ⟨by rw [hx]; exact h1, h2, h3⟩).trans ?_
  unfold noteSwitch
  refine (if_pos (unmarked_iff.2 h4)).trans ?_
  dsimp only
  rw [image]
  have numbered : setImage (markedImage s) s = { s with
      dir := { s.dir with image := markedImage s, dirty := true, changed := true }
      sch := { s.sch with session := some { x with entryNo := openNumber (markedImage s) } } } :=
    modSession_some (s := s.setDir { s.dir with image := markedImage s, dirty := true, changed := true }) hx _
  rw [numbered]
  exact (modSession_some (x := { x with entryNo := openNumber (markedImage s) }) (by rfl) _).trans rfl

/-- The seam is reached, LOCKED or not (R152). -/
def atSeam (s : State) (x : Session) : State :=
  { s with sch := { s.sch with session := some { x with seamUnlocked := !s.trc.servoLocked || x.seamUnlocked } } }

/-- The seam's first frame: RECORD again, the command that ordered it done; UNLOCKED is noted (R17, log 26). -/
theorem seam_eq {c : Clu} {y : Session} {d : Dir} (hx : s.sch.session = some x) (hs : x.state ≠ .starting)
    (hl : s.letsGo .done .none c) (hh : ∀ h ∈ s.trc.held, h.code = 2 ∨ h.code = 3)
    (hys : y.state = x.state)
    (hn : noteSpeedChange (atSeam s x) =
      { s with
        dir := d
        sch := { s.sch with session := some { y with seamUnlocked := !s.trc.servoLocked || x.seamUnlocked } } }) :
    seam s = { s.transportTo
        { s.trc.movesInto .record .idle with
          locate := s.trc.locate, seek := s.trc.seek, steadyAwaited := false, held := none
          recordingSpeed := s.trc.orderedSpeed, markDue := s.trc.orderedIndex, pausePoint := none } with
      tcb := { s.tcb with
        steadyOpen := true, supplyPeriod := none, takeUpPeriod := none, supplySeen := false, takeUpSeen := false
        blankTimer := some 1000, blankFlag := false }
      dir := { d with writeImage := none }
      sch := { s.sch with session := some { y with seamUnlocked := !s.trc.servoLocked || x.seamUnlocked } }
      clu := c } := by
  have seamed : (if s.trc.servoLocked then s else modSession (fun x => { x with seamUnlocked := true }) s) =
      atSeam s x := by
    unfold atSeam
    cases hlock : s.trc.servoLocked with
    | true =>
      refine (if_pos rfl).trans ?_
      rw [Bool.not_true, Bool.false_or]
      show s = { s with sch := { s.sch with session := some x } }
      rw [← hx]
    | false => exact (if_neg Bool.false_ne_true).trans (modSession_some hx _)
  unfold seam
  rw [seamed, ServoMotors.enterRecord_eq hn rfl]
  have runs (w : State) (hw : w.sch.session = some y ∨ ∃ b, w.sch.session = some { y with seamUnlocked := b }) :
      ServoMotors.firstFrame w = w := by
    refine if_neg ?_
    rcases hw with hw | ⟨b, hw⟩ <;> rw [hw, Option.any_some] <;> simpa [hys] using hs
  rw [runs _ (.inr ⟨_, rfl⟩)]
  rw [ServoMotors.recordDone_eq (by exact hh)]
  exact completeHeld_letsGo hl rfl rfl

/-! ### The directory is written, the locate is there (R10, R61) -/

theorem dirWriteCompletes_eq (h : s.trc.state = .dirWrite) : dirWriteCompletes s =
    { s.transportTo { s.trc.restsIn .unloading .unthreadWait with atRestMark := true } with
      dir := { s.dir with
        generation := (s.dir.generation + 1) % 256, state := .valid, dirty := s.dir.changed, writeImage := none } } := by
  have brakes : Trc.brakingNow s.trc = true := by rw [Trc.brakingNow, h]; exact Bool.or_true _
  unfold dirWriteCompletes beginUnloading
  refine (if_pos (by exact brakes)).trans ?_
  rw [enter_rest_eq rfl (by decide)]
  rfl

/-- The locate record's target stands (R10). -/
abbrev There (s : State) (l : LocateTarget) : Prop :=
  (l.kind = .counter ∧ l.target = some s.tcb.relCounter) ∨
    (l.kind = .absolute ∧ l.target = some (s.tcb.absPos : Int)) ∨ (l.kind = .index ∧ l.remaining = 0)

theorem locateReached_there (h : s.trc.state = .locate) (hp : s.trc.phase = .wind) {l : LocateTarget}
    (hl : s.trc.locate = some l) (ht : There s l) : locateReached s = targetReached l s := by
  unfold locateReached
  rw [hl]
  refine if_pos ?_
  rcases ht with ⟨hk, ht⟩ | ⟨hk, ht⟩ | ⟨hk, ht⟩ <;> simp [State.targetStands, h, hp, hk, ht]

theorem targetReached_locating (h : s.trc.state = .locate) (l : LocateTarget) {c : Clu} (hc : s.letsGo .done .none c) :
    targetReached l s = { s.transportTo { s.trc.endsWith l.endAction with held := none } with clu := c } := by
  have acts : s.endAction l.endAction = s.transportTo (s.trc.endsWith l.endAction) := by
    cases l.endAction with
    | stop => rfl
    | play => exact (if_neg (by simp [h])).trans (if_neg (by simp [h]))
  unfold targetReached
  rw [takeEndAction_eq, acts]
  refine completeHeld_letsGo hc ?_ rfl
  cases l.endAction <;> rfl

end

/-- Settles O52. -/
theorem limitsAndCountsRunOut : Obligations.LimitsAndCountsRunOut := by
  intro s ha stoppedWith judged readAs
  have row (f : State → State) : awake f s = f s := awake_apply ha f
  have runs {t : Timer} (h : t.isSome) {f : State → State} {v : State} (hv : f s = v) :
      (Host.Outcome.next (awake (whenRunning t f) s) : Host.Outcome State Fault Refusal) = .next v :=
    congrArg Host.Outcome.next ((row _).trans ((whenRunning_runs h f s).trans hv))
  have holds {p : State → Prop} [DecidablePred p] (h : p s) {f : State → State} {v : State} (hv : f s = v) :
      (Host.Outcome.next (awake (fun t => if p t then f t else t) s) : Host.Outcome State Fault Refusal) = .next v :=
    congrArg Host.Outcome.next ((row _).trans ((if_pos h).trans hv))
  refine ⟨fun h => ⟨fun hst => runs h (pauseExpires_play hst), fun x hst hx hc => runs h (pauseExpires_label hst hx hc)⟩,
    fun c h hl => runs h ?_, fun c x h hst hx hs hl => runs h (lockupFails_eq hst hx hs hl),
    fun h => ⟨fun hn => runs h ?_, fun e c he hl => runs h (finishRead_seeking he hl)⟩, fun h hst hn => runs h ?_,
    fun h ho hst => runs h ?_, fun hst => ⟨fun hp hpos => ?_, fun hp hc => ?_, ?_⟩, fun hst he hpos hn => ?_,
    fun h => ?_, fun h => ?_, fun l c h hp hl ht hc => ?_⟩
  · rw [stopTape_eq, completeHeld_letsGo hl (by rfl) (by rfl)]
    rfl
  · exact finishRead_plain hn rfl
  · refine (if_pos hst).trans ?_
    cases hc : s.dir.collecting with
    | true => exact finishRead_plain hn (readEnds_blank hc)
    | false => exact (finishRead_plain hn (readEnds_idle hc (by decide))).trans (by rw [if_neg Bool.false_ne_true, ← hc]; rfl)
  · refine if_pos ⟨ho, ?_⟩
    rcases hst with e | e | e | e | e <;> rw [e] <;> rfl
  · exact holds (p := fun t => t.trc.state = .lockup ∧ t.reserveDone) ⟨hst, by simp [State.reserveDone, hp, hpos]⟩ rfl
  · refine holds (p := fun t => t.trc.state = .lockup ∧ t.trc.phase = .backspace ∧ 50 ≤ t.trc.backspaceCount) ⟨hst, hp, hc⟩ ?_
    exact if_neg (by simp [setPhase, State.setTrc]; omega)
  · intro x c hp h0 hx hs hl hh resumed isOpen notes
    have seams {v : State} (hv : seam s = v) : exec .seamWriteFrame s = .next v :=
      holds (p := fun t => t.trc.state = .lockup ∧ t.trc.phase = .forwardRun ∧ t.trc.backspaceCount = 0) ⟨hst, hp, h0⟩ hv
    refine ⟨fun h => seams ?_, fun h => ?_⟩
    · exact seam_eq (y := x) (d := s.dir) hx hs hl hh rfl (noteSpeedChange_other (s := atSeam s x) rfl h)
    · exact seams (seam_eq (y := { x with
        switchFrame := some s.tcb.absPos, entryNo := openNumber (markedImage s) }) hx hs hl hh rfl
        (noteSpeedChange_marks (s := atSeam s x) rfl h))
  · have passes {v : State} (hv : finishRead .passed s = v) : exec .regionPassed s = .next v :=
      holds (p := fun t => t.regionPassed = true) (by simp [State.regionPassed, hst, he, hpos]) hv
    refine ⟨fun hc => passes (finishRead_plain hn (readEnds_idle hc (by decide))), fun hc =>
      ⟨fun image p g hj hp => ?_, fun image p g hj hp => ?_, fun hj => ?_⟩⟩
    · exact passes (finishRead_plain hn ((readEnds_found hc hj).trans (selectProfile_same hp)))
    · exact passes (finishRead_plain hn ((readEnds_found hc hj).trans (selectProfile_other hp)))
    · intro some_
      refine ⟨fun h => ?_, fun h => ?_⟩
      · exact passes (finishRead_plain hn ((readEnds_unread hc hj).trans (by rw [if_pos (copies_some_iff.2 h)])))
      · exact passes (finishRead_plain hn ((readEnds_unread hc hj).trans (by rw [if_neg (mt copies_some_iff.1 h)])))
  · exact congrArg Host.Outcome.next ((row _).trans (OutboundFields.endDirWrite_unwritten h))
  · exact congrArg Host.Outcome.next ((row _).trans ((OutboundFields.endDirWrite_written h).trans (dirWriteCompletes_eq h.1)))
  · exact congrArg Host.Outcome.next ((row _).trans ((locateReached_there h hp hl ht).trans (targetReached_locating h l hc)))

end Sys2Proof.Proofs.Limits
end

section
/-! PROOFS. The evaluation of the timer table at a whole minute: an occurrence opened, missed or deferred (R128, R143, R144,
R146, R149). -/

namespace Sys2Proof.Proofs.Evaluation
open Sys2Proof.Machine

section
variable {s : State} {k d : Nat} {e : TimerEntry} {t : TimerDef}

/-! ### The session at an evaluation -/

theorem evalSession_none (h : s.sch.session = none) : evalSession s = s := by
  unfold evalSession
  rw [h]

/-- A manual session without a deadline takes no part in an evaluation (R154). -/
theorem evalSession_manual {x : Session} (hx : s.sch.session = some x) (hr : x.stopRule = .manual) (hd : x.deadline = none) :
    evalSession s = s := by
  have cue : testSessionCue s = s := by
    unfold testSessionCue
    rw [hx]
    exact if_neg (by rw [hr]; simp)
  have loss : checkCueLoss s = s := by
    unfold checkCueLoss
    rw [hx]
    exact if_neg (by rw [hr]; simp)
  have stop : evalClockStop s = s := by
    unfold evalClockStop
    rw [hx]
    dsimp only
    rw [hr]
  have overrun : evalOverrun s = s := by
    unfold evalOverrun
    rw [hx]
    dsimp only
    rw [hd]
  have lost : evalCueLoss s = s := by
    unfold evalCueLoss
    rw [hx]
    dsimp only
    split
    · exact if_neg (by rw [hr]; simp)
    · rfl
  unfold evalSession
  rw [hx]
  dsimp only
  rw [cue, loss, stop, overrun, lost, ite_self]

/-! ### A clock-timed entry at an evaluation (R143, R159) -/

/-- The occurrence of a ONCE entry is missed: MISSED, with the outcome of the miss (R144). -/
theorem misses_once (hw : s.watchesNothing) (hk : s.sch.timers[k]? = some e) (hs : e.state = .armed) (ht : e.defn = some t)
    (hi : e.interrupted = false) {date : Date} (hrep : t.rep = .once date) (r : EndReason) :
    reassessWatch (missOccurrence k r s) = State.withSticky { s with sch := { s.sch with timers := s.sch.timers.modify k fun e =>
      { e with state := .missed, outcome := some (missedOutcome r s), deferred := false, interrupted := false } } }
      Sticky.entryMissed.mask := by
  have fresh : (s.sch.timers.modify k fun e =>
      { e with state := .missed, outcome := some (outcomeOfMiss r s e), deferred := false, interrupted := false }) =
      s.sch.timers.modify k fun e =>
      { e with state := .missed, outcome := some (missedOutcome r s), deferred := false, interrupted := false } :=
    modify_congr_at _ k fun e' he' => by
      rw [hk, Option.some_inj] at he'
      rw [← he', outcomeOfMiss_fresh r s hi]
  rw [missOccurrence_once r hk (by rw [hs]; decide) ht hrep, fresh]
  exact reassessWatch_nothing (watchesNothing_modified hw k (fun _ _ => EntryState.noConfusion) hw.1 rfl)

/-- The entry stands in the table, clock-timed, neither deferred nor interrupted. -/
structure ClockEntry (s : State) (k d : Nat) (e : TimerEntry) (t : TimerDef) : Prop where
  place : k < 16
  table : s.sch.timers = (List.replicate 16 TimerEntry.empty).set k e
  armed : e.state = .armed
  defn : e.defn = some t
  next : e.next = some d
  punctual : e.deferred = false
  whole : e.interrupted = false
  unlabelled : t.label = none
  unwatched : s.sch.watch = none
  clock : s.clk.status ≠ .unset

namespace ClockEntry

theorem quiet (h : ClockEntry s k d e t) : s.watchesNothing :=
  watchesNothing_single h.table h.unwatched (by rw [h.armed]; decide)

theorem stands (h : ClockEntry s k d e t) : s.sch.timers[k]? = some e := by
  rw [h.table, List.getElem?_set_self (by rw [List.length_replicate]; exact h.place)]

theorem timer (h : ClockEntry s k d e t) : s.timer k = e := by
  rw [State.timer, List.getD_eq_getElem?_getD, h.stands, Option.getD_some]

/-- The whole table at an evaluation is that entry, and then the watch. -/
theorem evaluates (h : ClockEntry s k d e t) (hs : evalSession s = s) (hr : s.runningEntry ≠ some k) :
    evaluateTable s = reassessWatch (evalClockEntry k (t.startOn d) (t.stopOn d) s) := by
  have occurs : e.occurrence = some (t.startOn d, t.stopOn d) := by simp [TimerEntry.occurrence, h.defn, h.next]
  rw [evaluateTable_single h.place h.table occurs hs h.clock, evalEntry_clock h.timer h.armed h.defn h.next h.unlabelled hr]

theorem evalClockEntry_eq (h : ClockEntry s k d e t) (start stop : Nat) : evalClockEntry k start stop s =
    if s.before start then s else if s.before stop then attempt k .clock s else missOccurrence k .clock s := by
  unfold evalClockEntry
  dsimp only
  rw [h.timer, h.punctual, h.whole, if_neg Bool.false_ne_true, if_neg Bool.false_ne_true]

theorem misses (h : ClockEntry s k d e t) {date : Date} (hrep : t.rep = .once date) (r : EndReason) :
    reassessWatch (missOccurrence k r s) = State.withSticky { s with sch := { s.sch with timers := s.sch.timers.modify k fun e =>
      { e with state := .missed, outcome := some (missedOutcome r s), deferred := false, interrupted := false } } }
      Sticky.entryMissed.mask := misses_once h.quiet h.stands h.armed h.defn h.whole hrep r

/-- While another session exists the entry is deferred (R146). -/
theorem defers (h : ClockEntry s k d e t) (hx : s.hasSession = true) : reassessWatch (attempt k .clock s) =
    { s with sch := { s.sch with timers := s.sch.timers.modify k fun e => { e with deferred := true } } } := by
  unfold attempt
  rw [if_neg h.clock, if_pos hx]
  exact reassessWatch_nothing (watchesNothing_modified h.quiet k (f := fun e => { e with deferred := true })
    (fun _ h => h) h.unwatched rfl)

end ClockEntry

end

/-- Settles O54. -/
theorem anOccurrenceOpensASession : Obligations.AnOccurrenceOpensASession := by
  intro k d e t ch f fine s hk ha hc hsec hdate hwatch htable hstate hdefn hnext hdef hint hlabel hch hair hview now ticked
    missedFor
  have entry : ClockEntry ticked k d e t :=
    ⟨hk, htable, hstate, hdefn, hnext, hdef, hint, hlabel, hwatch, hc⟩
  have still : reassessWatch ticked = ticked := reassessWatch_nothing entry.quiet
  have evaluated {v : State} (hs : evalSession ticked = ticked) (hr : ticked.runningEntry ≠ some k)
      (hv : reassessWatch (if ticked.before (t.startOn d) then ticked
        else if ticked.before (t.stopOn d) then attempt k .clock ticked else missOccurrence k .clock ticked) = v) :
      exec .secondEvent s = .next v := by
    refine (exec_secondEvent_minute hsec hdate).trans (congrArg Host.Outcome.next ((entry.evaluates hs hr).trans ?_))
    rw [entry.evalClockEntry_eq]
    exact hv
  have before {m : Nat} (h : now.seconds < m * 60) : ticked.before m = true := decide_eq_true h
  have reached {m : Nat} (h : m * 60 ≤ now.seconds) : ¬ ticked.before m = true := fun h' =>
    absurd (of_decide_eq_true h') (Nat.not_lt.2 h)
  have alone (hn : s.sch.session = none) : evalSession ticked = ticked ∧ ticked.runningEntry ≠ some k :=
    ⟨evalSession_none hn, by simp [State.runningEntry, ticked, hn]⟩
  refine ⟨fun x hx hr hdl ho => ?_, fun hn h => ?_, fun hn date hrep h1 h2 => ?_, fun hn h1 h2 => ⟨fun hst hrep => ?_, fun hst htab hl => ?_⟩⟩
  · have session : evalSession ticked = ticked := evalSession_manual hx hr hdl
    have other : ticked.runningEntry ≠ some k := by simpa [State.runningEntry, ticked, hx] using ho
    refine ⟨fun h => evaluated session other ?_, fun h1 h2 => evaluated session other ?_⟩
    · rw [if_pos (before h), still]
    · rw [if_neg (reached h1), if_pos (before h2)]
      exact entry.defers (by simp [State.hasSession, ticked, hx])
  · refine evaluated (alone hn).1 (alone hn).2 ?_
    rw [if_pos (before h), still]
  · refine evaluated (alone hn).1 (alone hn).2 ?_
    rw [if_neg (reached h1), if_neg (reached h2)]
    exact entry.misses hrep .clock
  · obtain ⟨date, hrep⟩ := hrep
    refine evaluated (alone hn).1 (alone hn).2 ?_
    have meets : attempt k .clock ticked = missOccurrence k .noCassette ticked := by
      have hinders : ticked.hindrance = some .noCassette := by
        have awakes : ticked.asleep = false := ha
        have out : ticked.trc.state = .empty := hst
        simp [State.hindrance, awakes, out]
      unfold attempt
      rw [if_neg entry.clock, if_neg (by simp [State.hasSession, ticked, hn]), hinders]
      exact if_neg (by simp)
    rw [if_neg (reached h1), if_pos (before h2), meets]
    exact entry.misses hrep .noCassette
  · have opens := openTimerSession_air (s := ticked) .clock entry.stands hdefn hnext hch hair hview hst entry.quiet
    have same : ticked.sch.timers.modify k (fun e => { e with deferred := false }) = ticked.sch.timers :=
      modify_id_at _ k fun e' he' => by
        rw [entry.stands, Option.some_inj] at he'
        rw [← he', ← hdef]
    have due : (if ticked.before (t.startOn d) then ticked
        else if ticked.before (t.stopOn d) then attempt k .clock ticked else missOccurrence k .clock ticked) =
        attempt k .clock ticked := by rw [if_neg (reached h1), if_pos (before h2)]
    have attempts := due.trans ((attempt_opens .clock entry.clock hn (hindrance_stopped ha hst htab hl)).trans opens)
    refine ⟨_, evaluated (alone hn).1 (alone hn).2 ((congrArg reassessWatch attempts).trans (reassessWatch_nothing
      (watchesNothing_modified entry.quiet k (f := fun e => { e with deferred := false }) (fun _ h => h) hwatch rfl))), ?_⟩
    refine ⟨rfl, ⟨timerSession k d t .clock, rfl, rfl, rfl, rfl, rfl, rfl, rfl, rfl, hlabel, rfl, ?_⟩, same, rfl, rfl, rfl, rfl, rfl, rfl⟩
    show t.speed.before = _
    cases t.speed <;> rfl

end Sys2Proof.Proofs.Evaluation
end

section
/-! PROOFS. The end of a close at rest: the directory told, tuner A released, the entry's outcome, the session removed, and a
deferred entry taken (R144, R147, R156, R157). -/

namespace Sys2Proof.Proofs.Closing
open Sys2Proof.Machine

section
variable {s u : State} {x : Session} {r : EndReason} {k : Nat}

/-! ### The directory is told, and tuner A released (R156, steps 3 and 4) -/

/-- The state with the at-rest mark taken. -/
abbrev rested (s : State) : State := { s with trc := { s.trc with atRestMark := false } }

/-- The state of the close when its directory is told and tuner A released, with a session record `y`. -/
def released (s : State) (r : EndReason) (y : Option Session) : State :=
  { rested s with
    dir := (closeNotice r (rested s)).1.dir
    tun := (s.untuned .a).tun
    cue := (s.untuned .a).cue
    lpt := { (s.untuned .a).lpt with sessionSource := none }
    sch := { s.sch with session := y } }

/-- The origin's entry at a close. -/
def entryClosed (x : Session) (entryNo : Option Nat) (u : State) : State :=
  match x.origin with
  | none => u
  | some k => closeEntryOf x entryNo k u

/-- A session that closes at rest on tuner A (R156). -/
structure ClosesAtRest (s : State) (x : Session) (r : EndReason) : Prop where
  awake : s.asleep = false
  marked : s.trc.atRestMark = true
  stopped : s.trc.state = .stopped
  session : s.sch.session = some x
  closing : x.state = .closing
  reason : x.closeReason = some r
  air : x.source = .air
  mains : x.byMains = false
  owner : s.tun.tunerA.owner = .record
  held : s.trc.held = none
  rewind : s.trc.rewindDue = false
  quiet : s.watchesNothing

/-- Every entry but the running one stands as it was until the session is removed. -/
theorem exec_atRest_closes (h : ClosesAtRest s x r) : ∃ y, exec .atRest s =
    .next (autoRewind (takeAllDeferred (removeSession (raise .sessionClose
      (entryClosed x (closeNotice r (rested s)).2 (released s r y)))))) := by
  obtain ⟨y, d, told⟩ := closeNotice_frame r (rested s)
  have directory : (closeNotice r (rested s)).1.dir = d := by rw [told]
  refine ⟨y, congrArg Host.Outcome.next ((awake_apply h.awake _).trans ((if_pos h.marked).trans ?_))⟩
  have closes : State.closing (rested s) = true := by
    show s.sch.session.any (fun x => decide (x.state = .closing)) = true
    rw [h.session, Option.any_some, decide_eq_true h.closing]
  have ends : atRest s = finishClose (rested s) := by
    unfold atRest
    rw [h.stopped]
    exact if_pos closes
  have free : releaseRecord .air (closeNotice r (rested s)).1 = clearTuner .a (closeNotice r (rested s)).1 := by
    rw [told]
    exact if_pos h.owner
  have still : reassessWatch (released s r y) = released s r y := reassessWatch_nothing h.quiet
  rw [ends]
  unfold finishClose
  rw [show (rested s).sch.session = some x from h.session]
  dsimp only
  rw [h.reason, Option.getD_some, h.air, free, clearTuner_eq]
  have base : State.setLpt (State.untuned (closeNotice r (rested s)).1 .a)
      { (State.untuned (closeNotice r (rested s)).1 .a).lpt with sessionSource := none } = released s r y := by
    unfold released
    rw [directory, told]
    rfl
  rw [base, still]
  unfold entryClosed
  cases x.origin <;> rfl

/-! ### The entry of the session (R157) -/

/-- What the close writes of a session (R157). -/
def closeOutcome (x : Session) (entryNo : Option Nat) (r : EndReason) (now : DateTime) : TimerOutcome :=
  { lastStart := x.startedAt, lastStop := now, reason := if x.startedAt = none ∧ r = .done then .clock else r
    entryNo := entryNo, notIndexed := x.notIndexed, seamUnlocked := x.seamUnlocked, switched := x.switched }

theorem closeOutcome_eq {entryNo : Option Nat} (hr : x.closeReason = some r) : closeOutcome x entryNo r u.clk.now =
    { lastStart := x.startedAt, lastStop := u.clk.now
      reason := if x.closeReason.getD .done = .done ∧ ¬ x.startedAt.isSome then .clock else x.closeReason.getD .done
      entryNo := entryNo, notIndexed := x.notIndexed, seamUnlocked := x.seamUnlocked, switched := x.switched } := by
  have unreached : ¬ x.startedAt.isSome = true ↔ x.startedAt = none := by cases x.startedAt <;> simp
  rw [hr, Option.getD_some]
  simp only [closeOutcome, unreached, and_comm]

/-- The table with one entry changed. -/
def withTimer (k : Nat) (f : TimerEntry → TimerEntry) (u : State) : State :=
  { u with sch := { u.sch with timers := u.sch.timers.modify k f } }

theorem withTimer_unwatched {f : TimerEntry → TimerEntry} (hf : ∀ e, e.state ≠ .waiting → (f e).state ≠ .waiting)
    (h : (u.timer k).state ≠ .waiting) : ((withTimer k f u).timer k).state ≠ .waiting := by
  simp only [withTimer, State.timer, List.getD_eq_getElem?_getD, List.getElem?_modify_eq] at h ⊢
  cases ht : u.sch.timers[k]? with
  | none => exact EntryState.noConfusion
  | some e =>
    rw [ht] at h
    exact hf e h

/-- A session that the host did not clear and no unit reset closed: its entry was served, or its occurrence missed. -/
theorem closeEntryOf_ends (hn : x.clearNote = false) (hu : x.byUnitReset = false) (hm : x.byMains = false)
    (hr : x.closeReason = some r) (hw : (u.timer k).state ≠ .waiting) (entryNo : Option Nat) :
    closeEntryOf x entryNo k u =
      (let v := withTimer k (fun e => afterOccurrence x.startedAt.isSome u.nowSeconds
        { e with outcome := some (closeOutcome x entryNo r u.clk.now) }) u
       if x.startedAt = none then v.withSticky Sticky.entryMissed.mask else v) := by
  have unwatched : ((withTimer k (fun e => { e with outcome := some (closeOutcome x entryNo r u.clk.now) }) u).timer k).state ≠
      .waiting := withTimer_unwatched (fun _ h => h) hw
  have ends : closeEntryOf x entryNo k u = occurrenceEnds k x.startedAt.isSome
      (withTimer k (fun e => { e with outcome := some (closeOutcome x entryNo r u.clk.now) }) u) := by
    unfold closeEntryOf
    dsimp only
    rw [if_neg (by rw [hn]; exact Bool.false_ne_true), if_neg (by rw [hu, hm]; exact Bool.false_ne_true), closeOutcome_eq hr]
    rfl
  rw [ends]
  unfold occurrenceEnds
  dsimp only
  rw [if_neg unwatched]
  simp only [withTimer, modTimer, State.setSch, modify_modify]
  cases x.startedAt with
  | none => rfl
  | some _ => rfl

theorem closeEntryOf_cleared (h : x.clearNote = true) (entryNo : Option Nat) : closeEntryOf x entryNo k u =
    reassessWatch (markRecord (.timer k) (withTimer k (fun _ => TimerEntry.empty) u)) := if_pos h

theorem closeEntryOf_reset (hn : x.clearNote = false) (hu : x.byUnitReset = true) (hr : x.closeReason = some r)
    (hw : (u.timer k).state ≠ .waiting) (entryNo : Option Nat) : closeEntryOf x entryNo k u =
      withTimer k (fun e => { e with
        state := .armed, interrupted := true, outcome := some (closeOutcome x entryNo r u.clk.now) }) u := by
  have unwatched : ((withTimer k (fun e => { e with interrupted := true })
      (withTimer k (fun e => { e with outcome := some (closeOutcome x entryNo r u.clk.now) }) u)).timer k).state ≠ .waiting :=
    withTimer_unwatched (fun _ h => h) (withTimer_unwatched (fun _ h => h) hw)
  have ends : closeEntryOf x entryNo k u = setEntryState k .armed (withTimer k (fun e => { e with interrupted := true })
      (withTimer k (fun e => { e with outcome := some (closeOutcome x entryNo r u.clk.now) }) u)) := by
    unfold closeEntryOf
    dsimp only
    rw [if_neg (by rw [hn]; exact Bool.false_ne_true), if_pos (by rw [hu]; exact Bool.true_or _), closeOutcome_eq hr]
    rfl
  rw [ends, setEntryState_quiet unwatched (by decide)]
  simp only [withTimer, modTimer, State.setSch, modify_modify]

/-! ### The session is removed (R156, step 6) -/

/-- The session removed and SESSION_CLOSE raised. -/
def removed (u : State) : State :=
  State.nearEndTested { u with
    sch := { u.sch with session := none }, clu := { u.clu with sticky := u.clu.sticky ||| Sticky.sessionClose.mask } }

/-- The control path after a near-end test. -/
def nearEndClu (u : State) (c : Clu) : Clu :=
  if nearEndAt u.tcb.history u.speedInForce && !u.tcb.nearEnd then { c with sticky := c.sticky ||| Sticky.nearEnd.mask } else c

theorem nearEndTested_withClu (u : State) (c : Clu) :
    State.nearEndTested { u with clu := c } = { State.nearEndTested u with clu := nearEndClu u c } := rfl

theorem nearEndClu_sticky (u : State) (c : Clu) (m : BitVec 18) :
    nearEndClu u { c with sticky := c.sticky ||| m } = { nearEndClu u c with sticky := (nearEndClu u c).sticky ||| m } := by
  unfold nearEndClu
  split
  · simp only [BitVec.or_assoc, BitVec.or_comm m]
  · rfl

theorem nearEndClu_completed (u : State) (c : Clu) (f : InFlight) (o : ReplyOutcome) (r : Reason) :
    nearEndClu u (c.completed f o r) = (nearEndClu u c).completed f o r := by
  unfold nearEndClu
  split <;> rfl

theorem nearEndTested_withSticky (u : State) (m : BitVec 18) :
    State.nearEndTested (u.withSticky m) = (State.nearEndTested u).withSticky m := by
  refine (nearEndTested_withClu u _).trans ?_
  rw [nearEndClu_sticky]
  rfl

theorem removed_withSticky (u : State) (m : BitVec 18) : removed (u.withSticky m) = (removed u).withSticky m := by
  unfold removed
  rw [← nearEndTested_withSticky]
  simp only [State.withSticky]
  rw [BitVec.or_assoc, BitVec.or_comm m, ← BitVec.or_assoc]

/-- Nothing is deferred, and no rewind due: the close is at its end. -/
theorem close_ends (hd : ∀ e ∈ u.sch.timers, e.deferred = false) (hr : u.trc.rewindDue = false) :
    autoRewind (takeAllDeferred u) = u := by
  have nothing : (u.entriesByStart fun _ e => e.deferred) = [] := entriesByStart_none fun j => by
    rcases u.timer_mem j with hm | hm
    · exact hd _ hm
    · rw [hm]; rfl
  unfold takeAllDeferred
  rw [nothing]
  exact ServoMotors.autoRewind_off (.inl hr)

/-- CLEAR TIMER waited on the close: it is done (R156). -/
theorem removeSession_completes (hh : u.trc.held = none) {f : InFlight} (hc : u.sch.clears = [f.id])
    (hf : u.clu.inFlight.find? (fun g => g.id = f.id) = some f) : removeSession (raise .sessionClose u) =
      { removed u with
        sch := { (removed u).sch with clears := [] }, clu := (removed u).clu.completed f .done .none } := by
  have waits : completeWaiting { raise .sessionClose u with sch := { u.sch with session := none } } =
      complete f.id .done .none { raise .sessionClose u with sch := { u.sch with session := none, clears := [] } } := by
    have unheld : State.holds { raise .sessionClose u with sch := { u.sch with session := none } } [codeStop] = false := by
      simp [State.holds, raise, State.setClu, hh]
    unfold completeWaiting
    rw [if_neg (by rw [unheld]; exact Bool.false_ne_true)]
    dsimp only
    rw [hc]
    rfl
  have done := complete_mem (s := { raise .sessionClose u with sch := { u.sch with session := none, clears := [] } }) hf
    .done .none
  unfold removeSession
  refine (congrArg evalNearEnd (waits.trans done)).trans ?_
  rw [evalNearEnd_eq]
  refine (nearEndTested_withClu { raise .sessionClose u with sch := { u.sch with session := none, clears := [] } } _).trans ?_
  rw [nearEndClu_completed]
  rfl

/-- With no command waiting and nothing deferred the close is at its end with the session removed. -/
theorem exec_atRest_ends (h : ClosesAtRest s x r) (hc : s.sch.clears = []) {v : Option Session → State}
    (hv : ∀ y, entryClosed x (closeNotice r (rested s)).2 (released s r y) = v y)
    (hheld : ∀ y, (v y).trc = (rested s).trc) (hclears : ∀ y, (v y).sch.clears = s.sch.clears)
    (hd : ∀ y, ∀ e ∈ (v y).sch.timers, e.deferred = false) : ∃ y, exec .atRest s = .next (removed (v y)) := by
  obtain ⟨y, hy⟩ := exec_atRest_closes h
  refine ⟨y, hy.trans (congrArg Host.Outcome.next ?_)⟩
  rw [hv y]
  exact removeSession_quiet (by rw [hheld]; exact h.held) ((hclears y).trans hc) (hd y) (by rw [hheld]; exact h.rewind)

/-! ### An occurrence ends (R144) -/

variable {e : TimerEntry} {t : TimerDef}

theorem afterOccurrence_once (ht : e.defn = some t) {d : Date} (hr : t.rep = .once d) (started : Option DateTime) (now : Nat) :
    afterOccurrence started.isSome now e =
      { e with state := if started = none then .missed else .done, deferred := false, interrupted := false } := by
  cases started <;> simp only [afterOccurrence, ht, hr] <;> rfl

theorem afterOccurrence_repeats (ht : e.defn = some t) (hr : ∀ d, t.rep ≠ .once d) (served : Bool) (now : Nat) :
    afterOccurrence served now e =
      { e with
        state := .armed, next := t.occurrenceAfter (e.next.getD 0) now, deferred := false, interrupted := false } := by
  simp only [afterOccurrence, ht]

theorem afterOccurrence_deferred (h : e.deferred = false) (served : Bool) (now : Nat) :
    (afterOccurrence served now e).deferred = false := by
  unfold afterOccurrence
  split
  · exact h
  · split <;> rfl

/-- The entry of a session whose occurrence ended, with the session removed. -/
theorem exec_atRest_occurrence (h : ClosesAtRest s x r) (hn : x.clearNote = false) (hu : x.byUnitReset = false)
    (hc : s.sch.clears = []) (hd : ∀ e ∈ s.sch.timers, e.deferred = false) (ho : x.origin = some k)
    {g : TimerEntry → TimerEntry}
    (hg : ∀ e, s.sch.timers[k]? = some e → afterOccurrence x.startedAt.isSome s.nowSeconds
      { e with outcome := some (closeOutcome x (closeNotice r (rested s)).2 r s.clk.now) } = g e) :
    ∃ y, exec .atRest s = .next
      (if x.startedAt = none then (removed (withTimer k g (released s r y))).withSticky Sticky.entryMissed.mask
       else removed (withTimer k g (released s r y))) := by
  let ends (y : Option Session) : State := withTimer k (fun e => afterOccurrence x.startedAt.isSome s.nowSeconds
    { e with outcome := some (closeOutcome x (closeNotice r (rested s)).2 r s.clk.now) }) (released s r y)
  have unwatched (y) : ((released s r y).timer k).state ≠ .waiting := by
    rcases (released s r y).timer_mem k with hm | hm
    · exact h.quiet.2 _ hm
    · rw [hm]; exact EntryState.noConfusion
  have closes (y) : entryClosed x (closeNotice r (rested s)).2 (released s r y) =
      if x.startedAt = none then (ends y).withSticky Sticky.entryMissed.mask else ends y := by
    unfold entryClosed
    rw [ho]
    exact closeEntryOf_ends (u := released s r y) hn hu h.mains h.reason (unwatched y) _
  have punctual (y) : ∀ e ∈ (ends y).sch.timers, e.deferred = false :=
    modify_all (P := fun e : TimerEntry => e.deferred = false) (fun e he => afterOccurrence_deferred (by exact he) _ _) _ k hd
  have changed (y) : ends y = withTimer k g (released s r y) := by
    exact congrArg (fun l => ({ released s r y with sch := { (released s r y).sch with timers := l } } : State))
      (modify_congr_at s.sch.timers k hg)
  obtain ⟨y, hy⟩ := exec_atRest_ends h hc closes (fun y => by split <;> rfl) (fun y => by split <;> rfl)
    (fun y => by split <;> exact punctual y)
  refine ⟨y, hy.trans (congrArg Host.Outcome.next ?_)⟩
  rw [← changed]
  split
  · exact removed_withSticky _ _
  · rfl

/-! ### A deferred entry is taken (R147) -/

theorem takeAllDeferred_one {d : Nat} (hk : k < 16) (ht : u.sch.timers = (List.replicate 16 TimerEntry.empty).set k e)
    (he : e.deferred = true) (hdefn : e.defn = some t) (hnext : e.next = some d) (hl : t.label = none) (hx : u.sch.session = none) :
    takeAllDeferred u = if u.before (t.stopOn d) then attempt k .clock u else missOccurrence k .overlap u := by
  have occurs : e.occurrence = some (t.startOn d, t.stopOn d) := by simp [TimerEntry.occurrence, hdefn, hnext]
  have entry : u.timer k = e := by rw [timer_single hk ht, if_pos rfl]
  have plain : ¬ TimerEntry.labelled e = true := by simp [TimerEntry.labelled, hdefn, hl]
  unfold takeAllDeferred
  rw [entriesByStart_one hk ht occurs, if_pos he, List.foldl_cons, List.foldl_nil]
  unfold takeDeferred
  rw [entry, if_neg (by simp [he, State.hasSession, hx]), occurs]
  exact if_neg plain

/-- A deferred entry opens its session on tuner A of a stopped tape (R149). -/
theorem attempt_takes {d f : Nat} {ch : Channel} {fine : Int} (ha : u.asleep = false) (hc : u.clk.status ≠ .unset)
    (hx : u.sch.session = none) (hst : u.trc.state = .stopped) (htab : u.pins.tab = .tabIn) (hl : u.trc.endLatch = false)
    (hr : u.trc.rewindDue = false) (hk : u.sch.timers[k]? = some e) (hdefn : e.defn = some t) (hnext : e.next = some d)
    (hch : u.channel t.channel = some ch) (hair : ch.tuning = .air f fine) (hv : u.tun.view = none) (hw : u.watchesNothing) :
    ∃ v, attempt k .clock u = v ∧ v.sch.session = some (timerSession k d t .clock) ∧
      v.sch.timers = u.sch.timers.modify k (fun e => { e with deferred := false }) ∧
      (let tuned := u.tuned .a .record (some t.channel) f fine (u.lineOf ch)
       v.tun = tuned.tun ∧ v.cue = tuned.cue ∧ v.lpt = tuned.lpt) ∧
      v.trc = u.trc ∧ v.dir = u.dir ∧ v.pins = u.pins ∧ v.sto = u.sto ∧ v.clk = u.clk := by
  have opens := openTimerSession_air .clock hk hdefn hnext hch hair hv hst hw
  have same : ({ u.trc with rewindDue := false } : Trc) = u.trc := by rw [← hr]
  exact ⟨_, (attempt_opens .clock hc hx (hindrance_stopped ha hst htab hl)).trans opens, rfl, rfl, ⟨rfl, rfl, rfl⟩, same, rfl, rfl,
    rfl, rfl⟩

end

/-- Settles O53. -/
theorem atRestACloseEnds : Obligations.AtRestACloseEnds := by
  intro x r s ha hm hst hx hcl hr hair hmains howner hheld hrew hw restedState told outcome plain nothingDeferred closed
  have h : ClosesAtRest s x r := ⟨ha, hm, hst, hx, hcl, hr, hair, hmains, howner, hheld, hrew, hw⟩
  have unwatched (y k) : ((released s r y).timer k).state ≠ .waiting := by
    rcases (released s r y).timer_mem k with hm | hm
    · exact hw.2 _ hm
    · rw [hm]; exact EntryState.noConfusion
  refine ⟨fun ⟨hn, hu, hc⟩ hd ho => ?_, fun k t ⟨hn, hu, hc⟩ hd ho ht => ?_, fun k f hd ho hn hc hf => ?_,
    fun k hd ho hn hu hc => ?_, fun k d e t ⟨hn, hu, hc⟩ ho hk htab hsta hdef ht hnext hl hclk => ?_⟩
  · obtain ⟨y, hy⟩ := exec_atRest_ends h hc (v := released s r) (fun y => by unfold entryClosed; rw [ho]) (fun _ => rfl)
      (fun _ => rfl) (fun _ => hd)
    exact hy
  · intro ended
    have stands := timer_of_defn ht
    have occurs {g : TimerEntry → TimerEntry}
        (hg : ∀ e, e.defn = some t → afterOccurrence x.startedAt.isSome s.nowSeconds
          { e with outcome := some (closeOutcome x (closeNotice r (rested s)).2 r s.clk.now) } = g e) :
        ended (closed (s.sch.timers.modify k g)) := by
      obtain ⟨y, hy⟩ := exec_atRest_occurrence h hn hu hc hd ho fun e he => hg e (by
        rw [stands, Option.some_inj] at he
        rw [← he, ht])
      exact hy
    refine ⟨fun ⟨d, hrep⟩ => occurs fun e he => ?_, fun hrep => occurs fun e he => ?_⟩
    · exact afterOccurrence_once (by exact he) hrep x.startedAt _
    · exact afterOccurrence_repeats (by exact he) hrep _ _
  · intro emptied
    obtain ⟨y, hy⟩ := exec_atRest_closes h
    let w : State := withTimer k (fun _ => TimerEntry.empty) (released s r y)
    have marks : markRecord (.timer k) w = w.setSto (markRecord (.timer k) w).sto := Marking.markRecord_frame _ _
    have clears : entryClosed x (closeNotice r (rested s)).2 (released s r y) = markRecord (.timer k) w := by
      unfold entryClosed
      rw [ho]
      dsimp only
      rw [closeEntryOf_cleared hn, show withTimer k (fun _ => TimerEntry.empty) (released s r y) = w from rfl, marks]
      exact reassessWatch_nothing
        (watchesNothing_modified hw k (f := fun _ => TimerEntry.empty) (fun _ _ => EntryState.noConfusion) hw.1 rfl)
    have empties : removed (markRecord (.timer k) w) = emptied := by
      refine Eq.trans ?_ (Marking.markRecord_same (s := w) (t := removed w) ⟨rfl, rfl, rfl, rfl, fun _ => rfl⟩ (.timer k)).symm
      rw [marks]
      rfl
    refine hy.trans (congrArg Host.Outcome.next ?_)
    rw [clears, removeSession_completes (f := f) (by rw [marks]; exact hheld) (by rw [marks]; exact hc) (by rw [marks]; exact hf),
      empties]
    refine close_ends ?_ ?_
    · rw [← empties, marks]
      exact modify_all (P := fun e : TimerEntry => e.deferred = false) (fun _ _ => rfl) _ k hd
    · rw [← empties, marks]
      exact hrew
  · have closes (y) : entryClosed x (closeNotice r (rested s)).2 (released s r y) = withTimer k (fun e => { e with
        state := .armed, interrupted := true
        outcome := some (closeOutcome x (closeNotice r (rested s)).2 r s.clk.now) }) (released s r y) := by
      unfold entryClosed
      rw [ho]
      exact closeEntryOf_reset (u := released s r y) hn hu hr (unwatched y k) _
    obtain ⟨y, hy⟩ := exec_atRest_ends h hc closes (fun _ => rfl) (fun _ => rfl)
      (fun _ => by
        refine modify_all (P := fun e : TimerEntry => e.deferred = false) ?_ _ k hd
        exact fun _ he => he)
    exact hy
  · intro freed
    have taken : exec .atRest s = .next (autoRewind
        (if freed.before (t.stopOn d) then attempt k .clock freed else missOccurrence k .overlap freed)) := by
      obtain ⟨y, hy⟩ := exec_atRest_closes h
      refine hy.trans (congrArg (fun w => Host.Outcome.next (autoRewind w)) ?_)
      have free : entryClosed x (closeNotice r (rested s)).2 (released s r y) = released s r y := by unfold entryClosed; rw [ho]
      rw [free, removeSession_free (by exact hheld) (by exact hc)]
      exact takeAllDeferred_one (u := freed) hk htab hdef ht hnext hl rfl
    have quiet : freed.watchesNothing := hw
    have stands : freed.sch.timers[k]? = some e := by
      rw [show freed.sch.timers = s.sch.timers from rfl, htab,
        List.getElem?_set_self (by rw [List.length_replicate]; exact hk)]
    refine ⟨fun date hrep hlate => ?_, fun ch f fine hearly hch hair hview htab' hlatch => ?_⟩
    · intro unserved missed
      have late : ¬ freed.before (t.stopOn d) = true := fun h' => absurd (of_decide_eq_true h') (Nat.not_lt.2 hlate)
      rw [taken, if_neg late, missOccurrence_once .overlap stands (by rw [hsta]; decide) ht hrep]
      rw [ServoMotors.autoRewind_off (.inl (by exact hrew))]
      refine congrArg (fun l => Host.Outcome.next
        (State.withSticky { freed with sch := { freed.sch with timers := l } } Sticky.entryMissed.mask)) ?_
      refine modify_congr_at _ k fun e' he' => ?_
      have outcome_eq : outcomeOfMiss .overlap freed e' = missed := by
        rw [show e' = e from Option.some_inj.1 (he'.symm.trans stands)]
        show outcomeOfMiss .overlap freed e = _
        unfold outcomeOfMiss
        rfl
      rw [outcome_eq]
    · have early : freed.before (t.stopOn d) = true := decide_eq_true hearly
      obtain ⟨v, attempts, session, timers, tuned, trc, dir, pins, sto, clk⟩ :=
        attempt_takes (u := freed) ha hclk rfl hst htab' hlatch hrew stands ht hnext hch hair hview quiet
      rw [if_pos early, attempts, ServoMotors.autoRewind_off (.inl (by rw [trc]; exact hrew))] at taken
      exact ⟨v, taken, ⟨_, session, rfl, rfl, rfl, rfl, rfl, rfl, rfl, hl, rfl⟩, timers, tuned, trc, dir, pins, sto, clk⟩

end Sys2Proof.Proofs.Closing
end

section
/-! PROOFS. Label control: an entry waits for its cue and opens by it, its session's cues, its loss and its overrun (R116, R160
to R170). -/

namespace Sys2Proof.Proofs.Labels
open Sys2Proof.Machine

section
variable {s u : State} {k d f : Nat} {e : TimerEntry} {t : TimerDef} {ch : Channel} {fine : Int} {cue : Cue}

/-! ### The watch of one entry (R162) -/

/-- One entry stands in the table, its channel an AIR channel of the table. -/
structure AirEntry (u : State) (k d : Nat) (e : TimerEntry) (t : TimerDef) (ch : Channel) (f : Nat) (fine : Int) : Prop where
  place : k < 16
  table : u.sch.timers = (List.replicate 16 TimerEntry.empty).set k e
  defn : e.defn = some t
  next : e.next = some d
  channel : u.channel t.channel = some ch
  air : ch.tuning = .air f fine

namespace AirEntry

theorem stands (h : AirEntry u k d e t ch f fine) : u.sch.timers[k]? = some e := by
  rw [h.table, List.getElem?_set_self (by rw [List.length_replicate]; exact h.place)]

theorem timer (h : AirEntry u k d e t ch f fine) : u.timer k = e := by
  rw [State.timer, List.getD_eq_getElem?_getD, h.stands, Option.getD_some]

theorem occurs (h : AirEntry u k d e t ch f fine) : e.occurrence = some (t.startOn d, t.stopOn d) := by
  simp [TimerEntry.occurrence, h.defn, h.next]

theorem notExt (h : AirEntry u k d e t ch f fine) : u.channelIsExt t.channel = false := by
  simp [State.channelIsExt, h.channel, Channel.isExt, h.air]

theorem needs (h : AirEntry u k d e t ch f fine) (he : e.state = .waiting) : u.needsWatch e = !u.servedElsewhere t.channel := by
  simp [State.needsWatch, he, h.defn, h.channel, Channel.isExt, h.air]

theorem needing (h : AirEntry u k d e t ch f fine) (he : e.state = .waiting) :
    (u.entriesByStart fun _ e => u.needsWatch e) = if u.servedElsewhere t.channel then [] else [k] := by
  rw [entriesByStart_one h.place h.table h.occurs, h.needs he]
  cases u.servedElsewhere t.channel <;> rfl

/-- Nobody serves the channel: WATCH takes tuner B for it (R95, R162). -/
theorem watchBegins (h : AirEntry u k d e t ch f fine) (ha : u.asleep = false) (he : e.state = .waiting)
    (hw : u.sch.watch = none) (hs : u.servedElsewhere t.channel = false) (hb : u.tun.tunerB.owner = .none) :
    reassessWatch u = State.tuned { u with sch := { u.sch with watch := some t.channel } } .b .watch (some t.channel) f fine
      (u.lineOf ch) := by
  have named : u.timerChannel k = some t.channel := by simp [State.timerChannel, h.timer, h.defn]
  have grants : grantWatch t.channel { u with sch := { u.sch with watch := some t.channel } } =
      tuneChannel .b .watch t.channel { u with sch := { u.sch with watch := some t.channel } } := by
    unfold grantWatch
    rw [show State.tun { u with sch := { u.sch with watch := some t.channel } } = u.tun from rfl, hb]
  unfold reassessWatch
  rw [h.needing he, if_neg (by rw [ha]; exact Bool.false_ne_true), hs, if_neg Bool.false_ne_true]
  dsimp only
  rw [if_neg (by rw [hw]; exact Bool.false_ne_true), named]
  exact grants.trans (tuneChannel_air (s := { u with sch := { u.sch with watch := some t.channel } }) h.channel h.air .b .watch)

/-- The channel watched already is watched on. -/
theorem watchStays (h : AirEntry u k d e t ch f fine) (he : e.state = .waiting) (hw : u.sch.watch = some t.channel)
    (hs : u.servedElsewhere t.channel = false) : reassessWatch u = u := by
  have named : u.timerChannel k = some t.channel := by simp [State.timerChannel, h.timer, h.defn]
  unfold reassessWatch
  rw [h.needing he, hs, if_neg Bool.false_ne_true]
  split
  · rfl
  · exact if_pos (by simp [hw, named])

/-- Tuner A serves the channel: WATCH gives tuner B back (R95, R162). -/
theorem watchEnds (h : AirEntry u k d e t ch f fine) (ha : u.asleep = false) (he : e.state = .waiting)
    (hw : u.sch.watch = some t.channel) (hs : u.servedElsewhere t.channel = true) (hb : u.tun.tunerB.owner = .watch)
    (hi : u.tun.search.state = .idle) : reassessWatch u = State.untuned { u with sch := { u.sch with watch := none } } .b := by
  have frees : releaseWatch { u with sch := { u.sch with watch := none } } =
      clearTuner .b { u with sch := { u.sch with watch := none } } := by
    refine (if_pos (by exact hb)).trans (if_neg ?_)
    show ¬ u.tun.search.state = .suspended
    rw [hi]
    decide
  unfold reassessWatch
  rw [h.needing he, if_neg (by rw [ha]; exact Bool.false_ne_true), hs, if_pos rfl]
  dsimp only
  rw [List.any_nil, Bool.and_false, if_neg Bool.false_ne_true, if_pos (by rw [hw]; rfl)]
  exact frees.trans (clearTuner_eq _ _)

end AirEntry

/-! ### A label-controlled entry at an evaluation (R160, R163) -/

theorem evalEntry_label (h : AirEntry u k d e t ch f fine) (hs : e.state = .armed) (hl : t.label.isSome)
    (hr : u.runningEntry ≠ some k) : evalEntry k u = evalLabelEntry k (t.startOn d) (t.stopOn d) u := by
  unfold evalEntry
  rw [if_neg hr]
  simp only [h.timer, hs, h.occurs, TimerEntry.labelled, h.defn, Option.any_some, hl, if_true]

/-- Before its window an ARMED entry stands (R160). -/
theorem evalLabelEntry_early (h : AirEntry u k d e t ch f fine) (hs : e.state = .armed) {start stop : Nat}
    (h1 : u.before (start - 15) = true) (h2 : u.before (stop + 180) = true) : evalLabelEntry k start stop u = u := by
  unfold evalLabelEntry
  dsimp only
  rw [if_neg (by rw [waitLimit, h2]; simp), if_pos (by exact h1), h.timer, if_neg (by rw [hs]; decide)]

/-- In its window the entry waits, and is tested (R160). -/
theorem evalLabelEntry_waits {start stop : Nat} (h1 : ¬ u.before (start - 15) = true) (h2 : u.before (stop + 180) = true) :
    evalLabelEntry k start stop u = testWaiting k (setEntryState k .waiting u) := by
  unfold evalLabelEntry
  dsimp only
  rw [if_neg (by rw [waitLimit, h2]; simp), if_neg (by exact h1)]

/-- Past the wait limit the occurrence is missed LATE (R172). -/
theorem evalLabelEntry_late (h : AirEntry u k d e t ch f fine) (hd : e.deferred = false) (hi : e.interrupted = false)
    {start stop : Nat} (h2 : ¬ u.before (stop + 180) = true) : evalLabelEntry k start stop u = missOccurrence k .late u := by
  unfold evalLabelEntry
  dsimp only
  rw [if_pos (by exact h2), h.timer, hd, hi, if_neg Bool.false_ne_true, if_neg Bool.false_ne_true]

/-- A WAITING entry without a cue waits on before its start (R163). -/
theorem testWaiting_noCue (h : AirEntry u k d e t ch f fine) (hc : u.channelCue t.channel = none)
    (hb : u.before (t.startOn d) = true) : testWaiting k u = u := by
  unfold testWaiting
  rw [h.timer, h.defn, h.occurs]
  dsimp only
  rw [hc]
  exact if_neg fun h' => h'.1 hb

/-! ### A cue that matches (R161) -/

/-- The cue matches a label of a channel of the table. -/
abbrev Matched (ch : Channel) (cue : Cue) (label : Option Label) : Prop :=
  label.isSome ∧ cue.label = label ∧ ∀ n, ch.network = some n → cue.network = n

theorem cueMatches_iff {c : Nat} (hc : u.channel c = some ch) (label : Option Label) :
    cueMatches u c label cue = true ↔ Matched ch cue label := by
  simp only [cueMatches, hc, Option.bind_some, Bool.and_eq_true, decide_eq_true_eq, Matched, and_assoc]
  cases ch.network <;> simp

theorem cueChangeNotice_eq (c : Nat) : cueChangeNotice (some c) cue u = waitingCueChange c cue (sessionCueChange c cue u) := rfl

/-- With no entry WAITING a cue has the session alone to tell. -/
theorem waitingCueChange_none (h : ∀ e ∈ u.sch.timers, e.state ≠ .waiting) (c : Nat) : waitingCueChange c cue u = u := by
  have nobody : (u.entriesByStart fun k e => decide (e.state = .waiting) && decide (u.runningEntry ≠ some k) &&
      decide (u.timerChannel k = some c)) = [] := entriesByStart_none fun j => by
    have stands : (u.timer j).state ≠ .waiting := by
      rcases u.timer_mem j with hm | hm
      · exact h _ hm
      · rw [hm]; exact EntryState.noConfusion
    simp [stands]
  unfold waitingCueChange
  rw [nobody]
  exact ite_self _

/-- The one entry that waits on the channel is attempted by a matching RUN (R164). -/
theorem waitingCueChange_one (h : AirEntry u k d e t ch f fine) (he : e.state = .waiting) (hx : u.sch.session = none) :
    waitingCueChange t.channel cue u =
      if cueMatches u t.channel t.label cue ∧ cue.status = .run then attempt k .label u else u := by
  have idle : u.runningEntry ≠ some k := by simp [State.runningEntry, hx]
  have named : u.timerChannel k = some t.channel := by simp [State.timerChannel, h.timer, h.defn]
  have label : (e.defn.bind TimerDef.label) = t.label := by rw [h.defn]; rfl
  unfold waitingCueChange
  rw [if_neg (by rw [h.notExt]; exact Bool.false_ne_true), entriesByStart_one h.place h.table h.occurs,
    if_pos (by simp [he, idle, named]), List.foldl_cons, List.foldl_nil, h.timer, label]
  exact if_congr (by simp [he, idle]) rfl rfl

theorem sessionCueChange_none (hx : u.sch.session = none) (c : Nat) : sessionCueChange c cue u = u := by
  unfold sessionCueChange
  rw [hx]

/-! ### A timer session opens by its cue (R149, R164) -/

/-- A timer session of an AIR channel opens on a stopped tape with no view; the watch is looked at again after it. -/
theorem openTimerSession_grants (rule : StopRule) (h : AirEntry u k d e t ch f fine) (hv : u.tun.view = none)
    (hst : u.trc.state = .stopped) :
    let w : State := State.nearEndTested { u with sch := { u.sch with
      session := some (timerSession k d t rule)
      timers := u.sch.timers.modify k fun e => { e with deferred := false } } }
    openTimerSession k rule u = reassessWatch
      (State.tuned { w with trc := { u.trc with rewindDue := false } } .a .record (some t.channel) f fine (u.lineOf ch)) := by
  intro w
  have air : u.sourceKind t.channel = .air := by rw [State.sourceKind, h.notExt]; rfl
  have halts : orderHalt w = { w with trc := { u.trc with rewindDue := false } } := by
    have still : w.trc = u.trc := rfl
    simp [orderHalt, still, hst, TState.isUserMode, State.setTrc]
  have unviewed : displaceViewFromA { w with trc := { u.trc with rewindDue := false } } =
      { w with trc := { u.trc with rewindDue := false } } := by
    have none : w.tun.view = none := hv
    simp [displaceViewFromA, none]
  have grants : grantRecord .air t.channel { w with trc := { u.trc with rewindDue := false } } =
      State.tuned { w with trc := { u.trc with rewindDue := false } } .a .record (some t.channel) f fine (u.lineOf ch) := by
    show tuneChannel .a .record t.channel (displaceViewFromA _) = _
    rw [unviewed]
    exact tuneChannel_air (s := { w with trc := { u.trc with rewindDue := false } }) h.channel h.air .a .record
  unfold openTimerSession
  rw [h.timer, h.defn, h.occurs]
  dsimp only
  rw [air]
  show openSession (timerSession k d t rule) _ = _
  unfold openSession
  rw [evalNearEnd_eq]
  exact congrArg reassessWatch ((congrArg (grantRecord .air t.channel) halts).trans grants)

/-- A matching RUN opens the session of the entry that waits: tuner A is tuned for it, and tuner B given back. -/
theorem attempt_label (h : AirEntry u k d e t ch f fine) (he : e.state = .waiting) (ha : u.asleep = false)
    (hc : u.clk.status ≠ .unset) (hx : u.sch.session = none) (hst : u.trc.state = .stopped) (htab : u.pins.tab = .tabIn)
    (hl : u.trc.endLatch = false) (hv : u.tun.view = none) (hw : u.sch.watch = some t.channel)
    (hb : u.tun.tunerB.owner = .watch) (hi : u.tun.search.state = .idle) :
    ∃ v, attempt k .label u = v ∧ v.sch.session = some (timerSession k d t .label) ∧
      v.sch.timers = u.sch.timers.modify k (fun e => { e with deferred := false }) ∧ v.sch.watch = none ∧
      v.tun = ((u.tuned .a .record (some t.channel) f fine (u.lineOf ch)).untuned .b).tun := by
  let w : State := State.nearEndTested { u with sch := { u.sch with
      session := some (timerSession k d t .label)
      timers := u.sch.timers.modify k fun e => { e with deferred := false } } }
  let v : State := State.tuned { w with trc := { u.trc with rewindDue := false } } .a .record (some t.channel) f fine (u.lineOf ch)
  have entry : AirEntry v k d { e with deferred := false } t ch f fine :=
    ⟨h.place, by
      show u.sch.timers.modify k _ = _
      rw [h.table, set_modify _ _ _ _ (by rw [List.length_replicate]; exact h.place)], h.defn, h.next, h.channel, h.air⟩
  have served : v.servedElsewhere t.channel = true := by
    show (decide (some t.channel = some t.channel) || _) = true
    rw [decide_eq_true rfl, Bool.true_or]
  have opens : attempt k .label u = reassessWatch v :=
    (attempt_opens .label hc hx (hindrance_stopped ha hst htab hl)).trans (openTimerSession_grants .label h hv hst)
  exact ⟨_, opens.trans (entry.watchEnds ha he hw served hb hi), rfl, rfl, rfl, rfl⟩

/-! ### A cue at the session (R165, R166, R168) -/

section
variable {y : Session} {c : Nat}

/-- The session of the channel hears the cue, under its label or under the clock. -/
theorem sessionCueChange_hears (hx : u.sch.session = some y) (hc : y.channel = c) (hl : y.label.isSome)
    (hn : u.channelIsExt c = false) : sessionCueChange c cue u =
      match y.stopRule with
      | .label => labelContent cue u
      | .clock => clockContent cue u
      | .manual => u := by
  unfold sessionCueChange
  rw [hx]
  exact if_pos ⟨hc, hl, by rw [hn]; exact Bool.false_ne_true⟩

theorem labelContent_ends (hx : u.sch.session = some y) (hs : y.state ≠ .closing)
    (h : ¬ cueMatches u y.channel y.label cue = true ∨ cue.status = .clear) : labelContent cue u = beginClose .doneLabel u := by
  unfold labelContent
  rw [hx]
  exact (if_neg hs).trans (if_pos h)

/-- The session keeps its label's cue. -/
abbrev keeps (y : Session) : Session := { y with cueLoss := false, lossTimer := none }

/-- What a cue of a status does to a session in a state that is under its label (R166). -/
def statusTaken (st : SessionState) (status : CueStatus) (y : Session) (v : State) : State :=
  match st, status with
  | .starting, .hold => modSession (fun y => { y with holdPending := true }) v
  | .starting, _ => modSession (fun y => { y with holdPending := false }) v
  | .active, .hold => labelPause v
  | .paused, .run => if y.pauseCause = some .label then labelResume v else v
  | _, _ => v

/-- What a matching cue that is no CLEAR does to a session under its label. -/
theorem labelContent_matches {st : SessionState} {status : CueStatus} (hx : u.sch.session = some y) (hst : y.state = st)
    (hc : cue.status = status) (hs : st ≠ .closing) (hm : cueMatches u y.channel y.label cue = true) (hr : status ≠ .clear) :
    labelContent cue u =
      statusTaken st status y { u with sch := { u.sch with session := some (keeps y) } } := by
  have cleared : clearCueLoss u = { u with sch := { u.sch with session := some (keeps y) } } := modSession_some hx _
  unfold labelContent
  rw [hx]
  refine (if_neg (by rw [hst]; exact hs)).trans ((if_neg (by rw [hc]; rintro (h | h); exacts [h hm, hr h])).trans ?_)
  rw [cleared]
  subst hst hc
  rfl

theorem clockContent_other (hx : u.sch.session = some y)
    (h : ¬ (cueMatches u y.channel y.label cue = true ∧ cue.status ≠ .clear)) : clockContent cue u = u := by
  unfold clockContent
  rw [hx]
  exact if_neg fun h' => h h'.2

theorem clockContent_matches (hx : u.sch.session = some y) (hs : y.state ≠ .closing)
    (h : cueMatches u y.channel y.label cue = true ∧ cue.status ≠ .clear) : clockContent cue u =
      labelContent cue { u with sch := { u.sch with session := some { keeps y with stopRule := .label } } } := by
  unfold clockContent
  rw [hx]
  refine (if_pos ⟨hs, h⟩).trans (congrArg (labelContent cue) ?_)
  exact (modSession_some hx _).trans rfl

/-- A HOLD pauses the session that records (R166). -/
theorem labelPause_eq (hx : u.sch.session = some y) (hst : u.trc.state = .record) (hp : u.trc.heldPause = false)
    (hw : ∀ k, y.origin = some k → (u.timer k).state ≠ .waiting) : labelPause u =
      { u.transportTo
          { u.trc.restsIn .recordPause .idle with
            pausePoint := some u.tcb.relCounter, pauseTimer := some 300000, heldPause := false, heldResume := none } with
        sch := { u.sch with
          session := some { y with state := .paused, pauseCause := some .label }
          timers := ServoMotors.followed y.origin .paused u.sch.timers } } := by
  have pauses : ∀ w : State, w.trc.state = .record → w.trc.heldPause = false → orderPause w = enterRecordPause w :=
    fun w h1 h2 => (if_neg (by simp [h1, h2])).trans (if_pos h1)
  unfold labelPause
  rw [modSession_some hx, pauses _ (by exact hst) (by exact hp), Pulses.enterRecordPause_eq]
  exact TapeOrders.originEntry_follows (t := State.transportTo
      { u with sch := { u.sch with session := some { y with state := .paused, pauseCause := some .label } } } _)
    (x := { y with state := .paused, pauseCause := some .label }) .paused (by decide) rfl hw

/-- A RUN after a label's pause resumes the session (R166, R17). -/
theorem labelResume_eq (hx : u.sch.session = some y) (hst : u.trc.state = .recordPause)
    (hw : ∀ k, y.origin = some k → (u.timer k).state ≠ .waiting) : labelResume u =
      { u.transportTo
          { u.trc.movesInto .lockup .backspace with
            orderedSpeed := y.currentSpeed, orderedIndex := false, backspaceCount := 0 } with
        sch := { u.sch with
          session := some { y with state := .active, pauseCause := none }
          timers := ServoMotors.followed y.origin .recording u.sch.timers } } := by
  have speed : u.currentSpeed = y.currentSpeed := by simp [State.currentSpeed, hx]
  unfold labelResume
  rw [modSession_some hx, Pulses.orderResume_paused (by exact hst), speed]
  exact TapeOrders.originEntry_follows (t := State.transportTo
      { u with sch := { u.sch with session := some { y with state := .active, pauseCause := none } } } _)
    (x := { y with state := .active, pauseCause := none }) .recording (by decide) rfl hw

end

/-! ### The cue is lost (R116, R169) -/

theorem ageExpires_lost {x : TunerId} {c : Nat} (ht : (s.cueRecord x).tuning = some (some c))
    (hc : (s.cueRecord x).current.isSome) : ageExpires x s =
      cueAbsentNotice (some c) (setCueRecord x { s.cueRecord x with lastCue := none, current := none } s) := by
  obtain ⟨cue, hcue⟩ := Option.isSome_iff_exists.1 hc
  have record : (setCueRecord x { s.cueRecord x with lastCue := none } s).cueRecord x = { s.cueRecord x with lastCue := none } := by
    cases x <;> rfl
  have twice (r r' : CueRecord) : setCueRecord x r (setCueRecord x r' s) = setCueRecord x r s := by cases x <;> rfl
  unfold ageExpires cueLost
  dsimp only
  rw [record, hcue]
  dsimp only
  rw [ht, twice]
  rfl

theorem cueAbsentNotice_session {y : Session} {c : Nat} (hx : u.sch.session = some y) (hc : y.channel = c) :
    cueAbsentNotice (some c) u = checkCueLoss u := by
  unfold cueAbsentNotice
  rw [hx]
  exact if_pos hc

theorem checkCueLoss_lost {y : Session} (hx : u.sch.session = some y) (hr : y.stopRule = .label) (hs : y.state ≠ .closing)
    (hc : u.channelCue y.channel = none) : checkCueLoss u =
      { u with sch := { u.sch with
        session := some (if y.cueLoss then y else { y with cueLoss := true, lossTimer := some 300000 }) } } := by
  unfold checkCueLoss
  rw [hx]
  exact (if_pos ⟨hr, hs, by rw [hc]; rfl⟩).trans (modSession_some hx _)

/-! ### The overrun deadline (R170) -/

/-- The running entry alone stands in the table, so an evaluation has no entry to start. -/
theorem evaluateTable_running {k : Nat} {e : TimerEntry} {v : State} (hc : s.clk.status ≠ .unset) (hv : evalSession s = v)
    (ht : v.sch.timers = (List.replicate 16 TimerEntry.empty).set k e) (hr : v.runningEntry = some k) (hw : v.watchesNothing) :
    evaluateTable s = v := by
  have stands (j : Nat) : evalEntry j v = v := by
    unfold evalEntry
    dsimp only
    split
    · rfl
    · next hj =>
      have other : v.timer j = TimerEntry.empty := by
        have ne : k ≠ j := fun h => hj (h ▸ hr)
        rw [State.timer, ht, List.getD_eq_getElem?_getD, List.getElem?_set_ne ne, List.getElem?_replicate]
        split <;> rfl
      rw [other]
      rfl
  have all (l : List Nat) : l.foldl (fun acc k => evalEntry k acc) v = v := by
    induction l with
    | nil => rfl
    | cons j l ih => rw [List.foldl_cons, stands j]; exact ih
  unfold evaluateTable
  rw [if_neg hc]
  dsimp only
  rw [hv, all]
  exact reassessWatch_nothing hw

/-- A session under its label, its channel heard and nothing lost, meets its deadline alone at an evaluation. -/
theorem evalSession_label {y : Session} {deadline : Nat} (hx : s.sch.session = some y) (hst : y.state = .active)
    (hr : y.stopRule = .label) (hl : y.cueLoss = false) (hc : s.channelCue y.channel ≠ none) (hd : y.deadline = some deadline)
    (hlim : deadline < 36525 * 1440) : evalSession s =
      if s.clk.now.seconds < deadline * 60 then s else evalCueLoss (beginClose .doneOverrun s) := by
  have cue : testSessionCue s = s := by
    unfold testSessionCue
    rw [hx]
    exact if_neg (by rw [hr]; simp)
  have loss : checkCueLoss s = s := ServoMotors.checkCueLoss_heard hx fun _ => hc
  have stop : evalClockStop s = s := TimerOrders.evalClockStop_waits hx (.inl (by rw [hr]; decide))
  have overrun : evalOverrun s = if s.clk.now.seconds < deadline * 60 then s else beginClose .doneOverrun s := by
    unfold evalOverrun
    rw [hx]
    dsimp only
    rw [hd]
    simp only [State.sessionBefore, RunOuts.minuteSeen_early _ hlim, State.nowSeconds, decide_eq_true_eq]
  have kept : evalCueLoss s = s := by
    unfold evalCueLoss
    rw [hx]
    dsimp only
    split
    · exact if_neg (by rw [hl]; simp)
    · rfl
  unfold evalSession
  rw [hx]
  refine (if_neg (by rw [hst]; decide)).trans ?_
  rw [cue, loss, stop, overrun]
  split
  · exact kept
  · rfl

theorem evalCueLoss_unlost {y : Session} (hx : u.sch.session = some y) (hl : y.cueLoss = false) : evalCueLoss u = u := by
  unfold evalCueLoss
  rw [hx]
  dsimp only
  split
  · exact if_neg (by rw [hl]; simp)
  · rfl

/-! ### What a tuner heard (R114, R115) -/

/-- The state with another line port, other cue records and another control path. -/
abbrev heardAs (s : State) (l : Lpt) (c : CueBlock) (k : Clu) : State := { s with lpt := l, cue := c, clu := k }

/-- A confirmed cue leaves all but the line port, the cue records and the sticky events. -/
theorem cueHeard_frame (x : TunerId) (line : BitVec 16) (bytes : List (Byte × Bool)) (cue : Cue) (s : State) :
    ∃ l c k, s.cueHeard x line bytes cue = heardAs s l c k := by
  unfold State.cueHeard
  dsimp only
  split <;> cases x <;> exact ⟨_, _, _, rfl⟩

/-- A cue that no search waits for is known to the scheduler alone. -/
theorem exec_confirms_scheduled {x : TunerId} {line : BitVec 16} {bytes : List (Byte × Bool)} {c : Nat}
    (h : s.confirms x line bytes cue) (hc : (s.cueRecord x).tuning = some (some c)) (hs : s.tun.search.state ≠ .running) :
    exec (.linePacket (streamOf x) line (.data bytes)) s =
      .next (waitingCueChange c cue (sessionCueChange c cue (s.cueHeard x line bytes cue))) := by
  have silent : s.searchNaming x = false := by simp [State.searchNaming, hs]
  refine (exec_confirms h hc).trans (congrArg Host.Outcome.next ?_)
  unfold cueToSearch
  rw [silent, Bool.false_and]
  exact if_neg Bool.false_ne_true

end

/-- Settles O55. -/
theorem labelsControlTheRecording : Obligations.LabelsControlTheRecording := by
  unfold Obligations.LabelsControlTheRecording
  intro closes
  refine ⟨?_, ?_, ?_, ?_⟩
  · -- the entry before its window, in it, and past its wait limit
    intro k d e t ch f fine s hk ha hc hsec hdate hn hw htab hst hdefn hnext hdef hint hl hch hair hA hcA hB now ticked
    have entry : AirEntry ticked k d e t ch f fine := ⟨hk, htab, hdefn, hnext, hch, hair⟩
    have quiet : ticked.watchesNothing := watchesNothing_single htab hw (by rw [hst]; decide)
    have evaluated {v : State} (hv : evalLabelEntry k (t.startOn d) (t.stopOn d) ticked = v) :
        exec .secondEvent s = .next (reassessWatch v) := by
      refine (exec_secondEvent_minute hsec hdate).trans (congrArg Host.Outcome.next ?_)
      have idle : ticked.runningEntry ≠ some k := by simp [State.runningEntry, ticked, hn]
      show evaluateTable ticked = _
      rw [evaluateTable_single (s := ticked) hk htab entry.occurs (Evaluation.evalSession_none hn) hc, evalEntry_label entry hst hl idle, hv]
    have before {m : Nat} (h : now.seconds < m * 60) : ticked.before m = true := decide_eq_true h
    have reached {m : Nat} (h : m * 60 ≤ now.seconds) : ¬ ticked.before m = true := fun h' =>
      absurd (of_decide_eq_true h') (Nat.not_lt.2 h)
    refine ⟨fun h1 h2 => ?_, fun h1 h2 h3 => ?_, fun date hrep h => ?_⟩
    · rw [evaluated (evalLabelEntry_early entry hst (before h1) (before h2)), reassessWatch_nothing quiet]
    · let waiting : State := modTimer k (fun e => { e with state := .waiting }) ticked
      let watched : State := State.tuned { waiting with sch := { waiting.sch with watch := some t.channel } } .b .watch
        (some t.channel) f fine (s.lineOf ch)
      have table : waiting.sch.timers = (List.replicate 16 TimerEntry.empty).set k { e with state := .waiting } := by
        show ticked.sch.timers.modify k _ = _
        rw [entry.table, set_modify _ _ _ _ (by rw [List.length_replicate]; exact hk)]
      have entry1 : AirEntry waiting k d { e with state := .waiting } t ch f fine := ⟨hk, table, hdefn, hnext, hch, hair⟩
      have entry2 : AirEntry watched k d { e with state := .waiting } t ch f fine := ⟨hk, table, hdefn, hnext, hch, hair⟩
      have unserved : waiting.servedElsewhere t.channel = false := by
        show (decide (s.tun.tunerA.channel = some t.channel) || (decide (s.tun.tunerB.owner = .view) && _)) = false
        rw [hB, decide_eq_false hA]
        rfl
      have unserved2 : watched.servedElsewhere t.channel = false := by
        show (decide (s.tun.tunerA.channel = some t.channel) || (decide (Owner.watch = .view) && _)) = false
        rw [decide_eq_false hA]
        rfl
      have becomes : setEntryState k .waiting ticked = watched := by
        unfold setEntryState
        dsimp only
        rw [entry.timer, if_pos ⟨by rw [hst]; decide, .inr rfl⟩]
        exact entry1.watchBegins ha rfl hw unserved hB
      have silent : watched.channelCue t.channel = none := by
        have noA : watched.cue.a.cueOf t.channel = none := if_neg hcA
        have noB : watched.cue.b.cueOf t.channel = none := ite_self _
        unfold State.channelCue
        rw [entry2.notExt, noA, noB]
        rfl
      have waits : evalLabelEntry k (t.startOn d) (t.stopOn d) ticked = watched := by
        rw [evalLabelEntry_waits (reached h1) (before h3), becomes]
        exact testWaiting_noCue entry2 silent (before h2)
      rw [evaluated waits, entry2.watchStays rfl rfl unserved2]
      rfl
    · intro outcome
      rw [evaluated (evalLabelEntry_late entry hdef hint (reached h)),
        Evaluation.misses_once quiet entry.stands hst hdefn hint hrep .late]
      rfl
  · -- the cues of the channel
    intro x line bytes cue c ch f fine s hconf htun hch hair hsearch heard gives matched
    obtain ⟨l, cu, kl, frame⟩ := cueHeard_frame x line bytes cue s
    have hears {v : State} (hv : waitingCueChange c cue (sessionCueChange c cue heard) = v) : gives v :=
      (exec_confirms_scheduled hconf htun hsearch).trans (congrArg Host.Outcome.next hv)
    replace frame : heard = (heardAs s l cu kl) := frame
    clear_value heard
    subst frame
    have matches_ (label : Option Label) : cueMatches (heardAs s l cu kl) c label cue = true ↔
        matched label := cueMatches_iff hch label
    have notExt : State.channelIsExt (heardAs s l cu kl) c = false := by
      simp [State.channelIsExt, show State.channel (heardAs s l cu kl) c = some ch from hch, Channel.isExt,
        hair]
    refine ⟨fun k d e t hk hx hclk htab hwait hdefn hnext hc => ?_, ?_⟩
    · subst hc
      have entry : AirEntry (heardAs s l cu kl) k d e t ch f fine := ⟨hk, htab, hdefn, hnext, hch, hair⟩
      have notified := (congrArg (waitingCueChange t.channel cue) (sessionCueChange_none (u := heardAs s l cu kl) (cue := cue)
        hx t.channel)).trans (waitingCueChange_one entry hwait hx)
      refine ⟨fun hm => hears (notified.trans (if_neg fun h => hm ⟨(matches_ _).1 h.1, h.2⟩)),
        fun hm hrun hst htab' hl hv hw hB hi => ?_⟩
      obtain ⟨v, opens, session, timers, watch, tun⟩ :=
        attempt_label entry hwait hconf.1.1 hclk hx hst htab' hl hv hw hB hi
      exact ⟨v, hears (notified.trans ((if_pos ⟨(matches_ _).2 hm, hrun⟩).trans opens)),
        ⟨_, session, rfl, rfl, rfl, rfl, rfl, rfl, rfl, rfl, if_pos hm.1, rfl, rfl⟩, timers, watch, tun⟩
    · intro y hx hyc hl hw hwk hheld timers told kept
      subst hyc
      have only {v : State} (hs : sessionCueChange y.channel cue (heardAs s l cu kl) = v)
          (hv : ∀ e ∈ v.sch.timers, e.state ≠ .waiting) : gives v :=
        hears ((congrArg (waitingCueChange y.channel cue) hs).trans (waitingCueChange_none hv _))
      have told_hears := sessionCueChange_hears (cue := cue) (u := heardAs s l cu kl) hx rfl hl notExt
      have clock (hr : y.stopRule = .clock) : sessionCueChange y.channel cue (heardAs s l cu kl) =
          clockContent cue (heardAs s l cu kl) := told_hears.trans (by rw [hr])
      have label (hr : y.stopRule = .label) : sessionCueChange y.channel cue (heardAs s l cu kl) =
          labelContent cue (heardAs s l cu kl) := told_hears.trans (by rw [hr])
      have unwatched (st : EntryState) (hst : st ≠ .waiting) : ∀ e ∈ timers st, e.state ≠ .waiting := by
        show ∀ e ∈ ServoMotors.followed y.origin st s.sch.timers, e.state ≠ .waiting
        unfold ServoMotors.followed
        cases y.origin with
        | none => exact hw.2
        | some k => exact modify_all (P := fun e : TimerEntry => e.state ≠ .waiting) (fun _ _ => hst) _ k hw.2
      have takes {st : SessionState} {status : CueStatus} (hr : y.stopRule = .label) (hst : y.state = st)
          (hc : cue.status = status) (hs : st ≠ .closing) (hm : matched y.label) (hcl : status ≠ .clear) :=
        (label hr).trans (labelContent_matches (u := heardAs s l cu kl) hx hst hc hs ((matches_ _).2 hm) hcl)
      refine ⟨fun hr hs hm => ?_, fun hr hact hm hrun => ?_, fun hr hst hm hc => ?_, fun hr hact hm => ⟨fun hrun => ?_,
        fun hhold hrec hp => ?_⟩, fun hr hpa hcause hm => ⟨fun hhold => ?_, fun hrun hrec => ?_⟩, fun hr hst hm htrc => ?_⟩
      · refine only ((clock hr).trans (clockContent_other hx ?_)) hw.2
        rw [matches_]
        exact hm
      · have hs : y.state ≠ .closing := by rw [hact]; decide
        have hc : cue.status ≠ .clear := by rw [hrun]; decide
        exact only ((clock hr).trans ((clockContent_matches (u := heardAs s l cu kl) hx hs ⟨(matches_ _).2 hm, hc⟩).trans
          (labelContent_matches
            (u := { heardAs s l cu kl with sch := { s.sch with session := some { keeps y with stopRule := .label } } })
            (y := { keeps y with stopRule := .label }) rfl hact hrun (by decide) ((matches_ _).2 hm) (by decide)))) hw.2
      · cases hcs : cue.status with
        | run => exact only (takes hr hst hcs (by decide) hm (by decide)) hw.2
        | hold => exact only (takes hr hst hcs (by decide) hm (by decide)) hw.2
        | clear => exact absurd hcs hc
      · exact only (takes hr hact hrun (by decide) hm (by decide)) hw.2
      · exact only ((takes hr hact hhold (by decide) hm (by decide)).trans (labelPause_eq (y := keeps y) rfl hrec hp hwk))
          (unwatched .paused (by decide))
      · exact only (takes hr hpa hhold (by decide) hm (by decide)) hw.2
      · exact only ((takes hr hpa hrun (by decide) hm (by decide)).trans
          ((if_pos hcause).trans (labelResume_eq (y := keeps y) rfl hrec hwk))) (unwatched .recording (by decide))
      · have hs : y.state ≠ .closing := by rcases hst with h | h <;> rw [h] <;> decide
        have own : s.trc.state.isSession = true := by rcases htrc with h | h <;> rw [h] <;> rfl
        refine only ((label hr).trans ((labelContent_ends (u := heardAs s l cu kl) hx hs ?_).trans
          (TimerOrders.beginClose_brakes (w := heardAs s l cu kl) hx hs own hheld .doneLabel))) hw.2
        rw [matches_]
        exact hm
  · -- the channel loses its cue
    intro x c y s ha r lost hage ht hcur hx hyc hr hs
    have due : r.expired = true := (RunOuts.expired_iff r).2 ⟨hage, .inr (Option.isSome_iff_ne_none.1 hcur)⟩
    have expires : exec (.cueAgeExpiry x) s = .next (checkCueLoss lost) := by
      have session : lost.sch.session = some y := by cases x <;> exact hx
      refine congrArg Host.Outcome.next ((awake_apply ha _).trans ((if_pos due).trans ((ageExpires_lost ht hcur).trans ?_)))
      exact cueAbsentNotice_session session hyc
    have session : lost.sch.session = some y := by cases x <;> exact hx
    refine ⟨fun h => ?_, fun h => ?_⟩
    · rw [expires, checkCueLoss_lost session hr hs (by rw [hyc]; exact h)]
      cases x <;> rfl
    · rw [expires, ServoMotors.checkCueLoss_heard session fun _ => by rw [hyc]; exact h]
  · -- the overrun deadline
    intro k deadline e y s ha hc hsec hdate htab hst hw hx ho hr hact hloss hcue hd hlim hrec hheld now ticked
    have quiet : ticked.watchesNothing := watchesNothing_single htab hw hst
    have meets := evalSession_label (s := ticked) hx hact hr hloss hcue hd hlim
    have running {v : State} {z : Session} (hv : v.sch.session = some z) (hz : z.origin = some k) : v.runningEntry = some k := by
      simp [State.runningEntry, hv, hz]
    have evaluated {v : State} (hv : evalSession ticked = v) (ht : v.sch.timers = s.sch.timers) (hvw : v.sch.watch = none)
        (hr : v.runningEntry = some k) : exec .secondEvent s = .next v :=
      (exec_secondEvent_minute hsec hdate).trans (congrArg Host.Outcome.next
        (evaluateTable_running hc hv (ht.trans htab) hr ⟨hvw, by rw [ht]; exact quiet.2⟩))
    refine ⟨fun h => evaluated (meets.trans (if_pos h)) rfl hw (running hx ho), fun h => ?_⟩
    have ends : beginClose .doneOverrun ticked = closes y .doneOverrun ticked :=
      TimerOrders.beginClose_brakes (w := ticked) hx (by rw [hact]; decide) (congrArg TState.isSession hrec) hheld _
    refine evaluated (meets.trans ((if_neg (Nat.not_lt.2 h)).trans ?_)) rfl hw (running (v := closes y .doneOverrun ticked) rfl ho)
    rw [ends]
    exact evalCueLoss_unlost rfl hloss

end Sys2Proof.Proofs.Labels
end

section
/-! PROOFS. The supply: mains failure and return, the reset input, the cold start, and a session closed and taken up again
(R25, R63, R77, R111, R123, R158, R159, R193 to R195). -/

namespace Sys2Proof.Proofs.Supply
open Sys2Proof.Machine

section
variable {s u : State}

/-! ### Failure (R193, R194) -/

theorem mainsLow_iff (s : State) : s.mainsLow = true ↔ s.pins.mainsSense < 900 + 100 * s.sto.options.mainsLevel :=
  decide_eq_true_iff

/-- The sense falls below the threshold out of BACKUP: the part enters BACKUP. -/
theorem exec_mainsFailure_fails {mv : Nat} (hl : mv < 900 + 100 * s.sto.options.mainsLevel) (hp : s.sto.power ≠ .backup) :
    exec (.mainsFailure mv) s = .next (mainsFails { s with pins := { s.pins with mainsSense := mv } }) :=
  congrArg Host.Outcome.next (if_pos ⟨(mainsLow_iff _).2 hl, hp⟩)

theorem exec_mainsReturn_returns {mv : Nat} (hl : ¬ mv < 900 + 100 * s.sto.options.mainsLevel) (hp : s.sto.power = .backup) :
    exec (.mainsReturn mv) s = .next (mainsReturns { s with pins := { s.pins with mainsSense := mv } }) :=
  congrArg Host.Outcome.next (if_pos ⟨fun h => hl ((mainsLow_iff _).1 h), hp⟩)

/-- A directory read is cut alike whatever the inputs and the store hold. -/
theorem readCut_dir_congr (ht : u.trc = s.trc) (hd : u.dir = s.dir) : u.readCut.dir = s.readCut.dir := by
  unfold State.readCut
  rw [ht]
  split
  · dsimp only
    rw [hd]
  · exact hd

/-- The search record after a mains failure (R111). -/
theorem searchFails_eq (u : State) : searchFails u = { u with tun := { u.tun with
    search := Search.reset, searchCut := u.tun.searchCut || decide (u.tun.search.state ≠ .idle) } } := rfl

theorem searchCancelled_idle (h : u.tun.search.state = .idle) : searchCancelled u = u :=
  if_neg (by simp [Search.isRunning, h])

/-! ### Return (R194) -/

/-- What a start leaves of the blocks (R194). -/
theorem returnBlocks_eq (u : State) : returnBlocks u = { u with
    trc := Trc.started u.pins u.trc.endLatch u.trc.speedSetting
    tcb := { u.tcb.closeWindow with
      supplyPeriod := none, takeUpPeriod := none, staging := { header := none, slots := List.replicate 33 none } }
    dir := { u.dir with
      copies := noFragments, collecting := false, blankTest := none, blankTested := false, writeImage := none }
    lpt := Lpt.reset
    tun := { u.tun with
      tunerA := Tuner.cleared, tunerB := Tuner.cleared, ext := ExtRecord.cleared, staging := none, view := none }
    cue := { a := CueRecord.untuned, b := CueRecord.untuned, ring := [] }
    sch := { u.sch with staging := none, watch := none, settledFigure := none, clears := [] }
    clu := { lineCount := 0, pendingLine := none, inFlight := [], ready := [], reserved := [], sticky := u.clu.sticky,
             nextId := u.clu.nextId } } := by
  unfold returnBlocks
  dsimp only
  rw [SettingOrders.clearSources_eq]
  rfl

theorem searchReturns_whole (h : u.tun.searchCut = false) : searchReturns u = { u with tun := { u.tun with search := Search.reset } } :=
  if_neg (by rw [h]; exact Bool.false_ne_true)

theorem searchReturns_cut (h : u.tun.searchCut = true) : searchReturns u = State.withSticky
    { u with tun := { u.tun with search := { Search.reset with result := .mains }, searchCut := false } } Sticky.searchEnd.mask :=
  if_pos h

/-! ### An interrupted occurrence at an evaluation (R159) -/

/-- The interrupted clock-timed entry stands alone in the table, without a session. -/
structure InterruptedEntry (s : State) (k d : Nat) (e : TimerEntry) (t : TimerDef) : Prop where
  place : k < 16
  table : s.sch.timers = (List.replicate 16 TimerEntry.empty).set k e
  armed : e.state = .armed
  defn : e.defn = some t
  next : e.next = some d
  punctual : e.deferred = false
  interrupted : e.interrupted = true
  unlabelled : t.label = none
  unwatched : s.sch.watch = none
  free : s.sch.session = none
  clock : s.clk.status ≠ .unset

namespace InterruptedEntry
variable {k d : Nat} {e : TimerEntry} {t : TimerDef} {o : TimerOutcome} {date : Date}

theorem quiet (h : InterruptedEntry s k d e t) : s.watchesNothing :=
  watchesNothing_single h.table h.unwatched (by rw [h.armed]; decide)

theorem stands (h : InterruptedEntry s k d e t) : s.sch.timers[k]? = some e := by
  rw [h.table, List.getElem?_set_self (by rw [List.length_replicate]; exact h.place)]

theorem timer (h : InterruptedEntry s k d e t) : s.timer k = e := by
  rw [State.timer, List.getD_eq_getElem?_getD, h.stands, Option.getD_some]

/-- The whole table at an evaluation: the occurrence is attempted again before its stop, and ends at it. -/
theorem evaluates (h : InterruptedEntry s k d e t) : evaluateTable s =
    reassessWatch (if s.before (t.stopOn d) then attempt k .clock s else interruptedEnds k s) := by
  have occurs : e.occurrence = some (t.startOn d, t.stopOn d) := by simp [TimerEntry.occurrence, h.defn, h.next]
  have other : s.runningEntry ≠ some k := by simp [State.runningEntry, h.free]
  rw [evaluateTable_single h.place h.table occurs (Evaluation.evalSession_none h.free) h.clock,
    evalEntry_clock h.timer h.armed h.defn h.next h.unlabelled other]
  unfold evalClockEntry
  dsimp only
  rw [h.timer, h.punctual, h.interrupted, if_neg Bool.false_ne_true, if_pos rfl]

/-- An occurrence whose session reached ACTIVE is served at its stop. -/
theorem serves (h : InterruptedEntry s k d e t) (hr : t.rep = .once date) (ho : e.outcome = some o) (hs : o.lastStart.isSome) :
    reassessWatch (interruptedEnds k s) = { s with sch := { s.sch with timers := s.sch.timers.modify k fun e =>
      { e with state := .done, outcome := some o, deferred := false, interrupted := false } } } := by
  have ends : interruptedEnds k s = { s with sch := { s.sch with timers := s.sch.timers.modify k fun e =>
      { e with state := .done, outcome := some o, deferred := false, interrupted := false } } } := by
    have started : (s.timer k).outcome.any (fun o => o.lastStart.isSome) = true := by
      rw [h.timer, ho]
      exact hs
    have armed : (s.timer k).state ≠ .waiting := by
      rw [h.timer, h.armed]
      decide
    have served : s.sch.timers.modify k (afterOccurrence true s.nowSeconds) = s.sch.timers.modify k fun e =>
        { e with state := .done, outcome := some o, deferred := false, interrupted := false } :=
      modify_congr_at _ k fun e' he' => by
        rw [h.stands, Option.some_inj] at he'
        rw [← he']
        simp only [afterOccurrence, h.defn, hr, ho, if_true]
    unfold interruptedEnds
    rw [if_pos started]
    unfold occurrenceEnds
    dsimp only
    rw [if_neg armed, if_pos rfl, modTimer, served]
    rfl
  rw [ends]
  exact reassessWatch_nothing (watchesNothing_modified h.quiet k
    (f := fun e => { e with state := .done, outcome := some o, deferred := false, interrupted := false })
    (fun _ _ => EntryState.noConfusion) h.unwatched rfl)

/-- An occurrence whose session did not reach ACTIVE is missed MAINS at its stop, its outcome kept (log 66). -/
theorem misses (h : InterruptedEntry s k d e t) (hr : t.rep = .once date) (ho : e.outcome = some o) (hs : o.lastStart = none) :
    reassessWatch (interruptedEnds k s) = State.withSticky { s with sch := { s.sch with timers := s.sch.timers.modify k fun e =>
      { e with state := .missed, outcome := some { o with reason := .mains }, deferred := false, interrupted := false } } }
      Sticky.entryMissed.mask := by
  have unstarted : ¬ (s.timer k).outcome.any (fun o => o.lastStart.isSome) = true := by
    rw [h.timer, ho]
    simp [hs]
  have kept : (s.sch.timers.modify k fun e =>
      { e with state := .missed, outcome := some (outcomeOfMiss .mains s e), deferred := false, interrupted := false }) =
      s.sch.timers.modify k fun e =>
      { e with state := .missed, outcome := some { o with reason := .mains }, deferred := false, interrupted := false } :=
    modify_congr_at _ k fun e' he' => by
      rw [h.stands, Option.some_inj] at he'
      rw [← he']
      simp only [outcomeOfMiss, h.interrupted, ho]
  unfold interruptedEnds
  rw [if_neg unstarted, missOccurrence_once .mains h.stands (by rw [h.armed]; decide) h.defn hr, kept]
  exact reassessWatch_nothing (watchesNothing_modified h.quiet k
    (f := fun e => { e with state := .missed, outcome := some { o with reason := .mains }, deferred := false, interrupted := false })
    (fun _ _ => EntryState.noConfusion) h.unwatched rfl)

end InterruptedEntry

end

/-- Settles O56. -/
theorem supplyFailsAndReturns : Obligations.SupplyFailsAndReturns := by
  intro mv s sensed low dropped quiet idleDir untunedAll noField failed closes runs started returned cold
  have starts (latch : Bool) (speed : Speed) : Trc.started s.pins latch speed = started latch speed := by
    unfold Trc.started startState started
    cases s.pins.cassette with
    | slotOpen => rfl
    | partway => rfl
    | home => cases s.pins.threaded <;> cases s.pins.dew <;> rfl
  -- the blocks fail alike whatever the inputs and the power state then are
  have fails {f : State → State} {r : Search} {cut : Bool} (p : Pins) (st : Sto) (hw : st.writing = s.sto.writing)
      (hp : st.pendingWrites = s.sto.pendingWrites)
      (hf : ∀ v : State, v.tun = s.tun → f v = { v with tun := { s.tun with search := r, searchCut := cut } }) :
      let left : State := { failed r cut with pins := p, sto := { st with
          reading := none, writing := none, pendingWrites := (failed r cut).sto.pendingWrites } }
      (s.sch.session = none → failBlocks f { s with pins := p, sto := st } = left) ∧
      (∀ x, ({ s with pins := p, sto := st } : State).asleep = true → runs x →
        failBlocks f { s with pins := p, sto := st } = closes x left) := by
    intro left
    have cuts : ({ s with pins := p, sto := st } : State).readCut.dir = s.readCut.dir := readCut_dir_congr rfl rfl
    refine ⟨fun hx => ?_, fun x ha ⟨hx, hc, hn, hd⟩ => ?_⟩
    · refine (failBlocks_eq f { s with pins := p, sto := st } hx r cut hf).trans ?_
      dsimp only
      rewrite [cuts, hw, hp]
      rfl
    · obtain ⟨told, entry⟩ := closeNotice_sameDir (s := s.readCut) (t := ({ s with pins := p, sto := st } : State).readCut) .mains cuts
      refine (failBlocks_running f { s with pins := p, sto := st } ha hx hc hn hd r cut hf).trans ?_
      dsimp only
      rewrite [told, entry, hw, hp]
      rfl
  -- the blocks start alike
  let begun (p : Pins) (st : Sto) : State :=
    { returned s.tun.search 0 with
      pins := p, sto := st, tun := untunedAll s.tun.search s.tun.searchCut, clu := dropped s.clu }
  have starting (p : Pins) (hcas : Trc.started p = Trc.started s.pins) (st : Sto) :
      returnBlocks { s with pins := p, sto := st } = begun p st := by
    rw [returnBlocks_eq]
    dsimp only
    rewrite [hcas, starts]
    rfl
  have low_iff : low ↔ sensed.mainsLow = true := (mainsLow_iff sensed).symm
  have colds (p : Pins) (hcas : Trc.started p = Trc.started s.pins) (st : Sto) :
      coldStart { s with pins := p, sto := st } = cold p := by
    refine congrArg (fun t : Trc => { State.reset with pins := p, trc := t, choices := s.choices, pending := s.pending }) ?_
    exact (congrFun (congrFun hcas false) .one).trans (starts false .one)
  have unasserted (h : s.sto.resetAsserted = false) : ¬ s.sto.resetAsserted = true := by
    rw [h]
    exact Bool.false_ne_true
  have blank (h : s.sto.validity = false) : ¬ s.sto.validity = true := by
    rw [h]
    exact Bool.false_ne_true
  -- mains returns, with the search uncut or cut
  let woken : State := { s with pins := sensed.pins, sto := { s.sto with power := s.sto.heldPower } }
  let up (r : Search) (raised : BitVec 18) : State :=
    { returned r raised with pins := sensed.pins, sto := { s.sto with power := s.sto.heldPower } }
  have warm (hl : ¬ low) (hp : s.sto.power = .backup) (hr : s.sto.resetAsserted = false) (hv : s.sto.validity = true) :
      exec (.mainsReturn mv) s =
        .next (evaluateTable (startWrite (raise .mainsReturn (searchReturns (returnBlocks woken))))) :=
    (exec_mainsReturn_returns hl hp).trans (congrArg Host.Outcome.next ((if_neg (unasserted hr)).trans (if_pos hv)))
  have whole (h : s.tun.searchCut = false) :
      raise .mainsReturn (searchReturns (returnBlocks woken)) = up Search.reset Sticky.mainsReturn.mask := by
    rw [starting sensed.pins rfl woken.sto, searchReturns_whole (u := begun sensed.pins woken.sto) h]
    exact congrArg (fun c => { up Search.reset Sticky.mainsReturn.mask with tun := untunedAll Search.reset c }) h
  have cut (h : s.tun.searchCut = true) : raise .mainsReturn (searchReturns (returnBlocks woken)) =
      up { Search.reset with result := .mains } (Sticky.searchEnd.mask ||| Sticky.mainsReturn.mask) := by
    rw [starting sensed.pins rfl woken.sto, searchReturns_cut (u := begun sensed.pins woken.sto) h]
    refine congrArg (fun m : BitVec 18 => { up { Search.reset with result := .mains } 0 with
      clu := { dropped s.clu with sticky := m } }) ?_
    exact BitVec.or_assoc _ _ _
  refine ⟨fun h => congrArg Host.Outcome.next (if_neg ?_), fun hl hp => ?_, fun h => congrArg Host.Outcome.next (if_neg ?_),
    fun hl hp hr => ⟨fun hv => ?_, fun hv hi hw hn => ?_, ?_⟩, fun h => congrArg Host.Outcome.next (if_pos h),
    fun h => congrArg Host.Outcome.next (if_neg (unasserted h)), fun hr hp => ?_, fun hr hp hsearch => ?_,
    fun hr hp => ?_, fun hr hp => ⟨fun hv => ?_, fun hv hi hw hn hcut => ?_⟩, congrArg Host.Outcome.next (colds s.pins rfl s.sto),
    fun h => congrArg Host.Outcome.next (if_neg h), fun h => ?_⟩
  · rintro ⟨hl, hp⟩
    exact h.elim (fun h => h (low_iff.2 hl)) hp
  · intro cut lost
    have enters := exec_mainsFailure_fails hl hp
    have searches (v : State) (h : v.tun = s.tun) :
        searchFails v = { v with tun := { s.tun with search := Search.reset, searchCut := cut } } := by
      rw [searchFails_eq, h]
    obtain ⟨free, running⟩ := fails sensed.pins { s.sto with heldPower := s.sto.power, power := .backup } rfl rfl searches
    refine ⟨fun hr hx => ?_, fun x hr hx => ?_, fun hr => ?_⟩
    · exact enters.trans (congrArg Host.Outcome.next ((if_neg (unasserted hr)).trans (free hx)))
    · exact enters.trans (congrArg Host.Outcome.next ((if_neg (unasserted hr)).trans (running x rfl hx)))
    · exact enters.trans (congrArg Host.Outcome.next (if_pos hr))
  · rintro ⟨hl, hp⟩
    exact h.elim (fun h => hl (low_iff.1 h)) (fun h => h hp)
  · exact (exec_mainsReturn_returns hl hp).trans (congrArg Host.Outcome.next
      ((if_neg (unasserted hr)).trans ((if_neg (blank hv)).trans
        (colds sensed.pins rfl s.sto))))
  · intro up
    have idle (r : Search) (raised : BitVec 18) : evaluateTable (startWrite (up r raised)) = up r raised := by
      rw [StoreRecords.startWrite_empty (s := up r raised) hn]
      exact evaluateTable_idle ⟨hi.1, rfl, hi.2.2⟩
    refine ⟨fun hcut => ?_, fun hcut => ?_⟩
    · rw [warm hl hp hr hv, whole hcut, idle]
    · rw [warm hl hp hr hv, cut hcut, idle]
  · intro k d e t hv hk hx hwatch htab hsta hint hdef hdefn hnext hlabel hclk hw hn hcut hpow back ends
    have entry : InterruptedEntry back k d e t := ⟨hk, htab, hsta, hdefn, hnext, hdef, hint, hlabel, rfl, hx, hclk⟩
    have evaluated {v : State}
        (h : reassessWatch (if back.before (t.stopOn d) then attempt k .clock back else interruptedEnds k back) = v) :
        exec (.mainsReturn mv) s = .next v := by
      refine (warm hl hp hr hv).trans (congrArg Host.Outcome.next ?_)
      rw [whole hcut, StoreRecords.startWrite_empty (s := back) hn]
      exact entry.evaluates.trans h
    refine ⟨fun date o hrep ho hlate => ?_, fun ch f fine hearly hch hair hhome hthreaded hdew htabIn hlatch => ?_⟩
    · have late : ¬ back.before (t.stopOn d) = true := fun h => absurd (of_decide_eq_true h) (Nat.not_lt.2 hlate)
      refine ⟨fun h => evaluated ?_, fun h => evaluated ?_⟩
      · rw [if_neg late]
        exact entry.serves hrep ho h
      · rw [if_neg late]
        exact entry.misses hrep ho h
    · have early : back.before (t.stopOn d) = true := decide_eq_true hearly
      have awake : back.asleep = false := by
        show (decide (s.sto.heldPower = .backup) || s.sto.resetAsserted) = false
        rw [hr, decide_eq_false hpow]
        rfl
      have stopped : back.trc.state = .stopped := by
        show (started _ _).state = _
        simp [started, hhome, hthreaded, hdew]
      have opens := (attempt_opens .clock entry.clock hx (hindrance_stopped awake stopped htabIn hlatch)).trans
        (openTimerSession_air .clock entry.stands hdefn hnext hch hair rfl stopped entry.quiet)
      have same : back.sch.timers.modify k (fun e => { e with deferred := false }) = back.sch.timers :=
        modify_id_at _ k fun e' he' => by
          rw [entry.stands, Option.some_inj] at he'
          rw [← he', ← hdef]
      exact ⟨_, evaluated ((congrArg reassessWatch ((if_pos early).trans opens)).trans (reassessWatch_nothing
          (watchesNothing_modified entry.quiet k (f := fun e => { e with deferred := false }) (fun _ h => h) rfl rfl))),
        ⟨timerSession k d t .clock, rfl, rfl, rfl, rfl, rfl, rfl, rfl, rfl, hlabel, rfl⟩, same, rfl, rfl, rfl, rfl, rfl⟩
  · exact congrArg Host.Outcome.next ((if_neg (unasserted hr)).trans (if_pos hp))
  · intro t held
    have searches (v : State) (h : v.tun = s.tun) :
        searchCancelled v = { v with tun := { s.tun with search := s.tun.search, searchCut := s.tun.searchCut } } := by
      rw [searchCancelled_idle (by rw [h]; exact hsearch), ← h]
    obtain ⟨free, running⟩ := fails s.pins { s.sto with resetAsserted := true } rfl rfl searches
    have asserts : exec .resetInputAssert s = .next (failBlocks searchCancelled { s with sto := { s.sto with resetAsserted := true } }) :=
      congrArg Host.Outcome.next ((if_neg (unasserted hr)).trans (if_neg hp))
    have asleep : ({ s with sto := { s.sto with resetAsserted := true } } : State).asleep = true := Bool.or_true _
    exact ⟨fun hx => asserts.trans (congrArg Host.Outcome.next (free hx)),
      fun x hx => asserts.trans (congrArg Host.Outcome.next (running x asleep hx))⟩
  · exact congrArg Host.Outcome.next ((if_pos hr).trans (if_pos hp))
  · exact congrArg Host.Outcome.next ((if_pos hr).trans ((if_neg hp).trans
      ((if_neg (blank hv)).trans
        (colds s.pins rfl { s.sto with resetAsserted := false }))))
  · let back : State := { returned s.tun.search 0 with sto := { s.sto with resetAsserted := false } }
    have blocks : returnBlocks { s with sto := { s.sto with resetAsserted := false } } = back := by
      rw [starting s.pins rfl { s.sto with resetAsserted := false }]
      refine (congrArg (fun c => { begun s.pins back.sto with tun := untunedAll s.tun.search c }) hcut).trans ?_
      exact congrArg (fun m : BitVec 18 => { back with clu := { dropped s.clu with sticky := m } }) BitVec.or_zero.symm
    refine congrArg Host.Outcome.next ((if_pos hr).trans ((if_neg hp).trans ((if_pos hv).trans ?_)))
    show evaluateTable (startWrite (returnBlocks { s with sto := { s.sto with resetAsserted := false } })) = back
    rw [blocks, StoreRecords.startWrite_empty (s := back) hn]
    exact evaluateTable_idle ⟨hi.1, rfl, hi.2.2⟩
  · refine congrArg Host.Outcome.next ((if_pos h).trans ?_)
    exact congrArg (fun c : State => c.setSto { c.sto with power := .backup, reading := none, resetAsserted := s.sto.resetAsserted })
      (colds s.pins rfl s.sto)

end Sys2Proof.Proofs.Supply
end
